-- ==== Sys2Proof/Word.lean ====
section
/-!
DEFINITION. Word types of the module: bytes, the 64-bit register and memory word, and the sizes the manual fixes (R8, R380).
-/
namespace Sys2Proof

/-- A byte of a block, a record or a tensor (R7). -/
abbrev Byte := BitVec 8
/-- A 64-bit register value or memory word (R8, R380). -/
abbrev Word := BitVec 64
/-- A fabric address: group [15:6], member [5:0] (R75). -/
abbrev Addr := BitVec 16
/-- A tensor number, bits [63:40] of a tensor-range address (R129). -/
abbrev TNum := BitVec 24

/-- A sparse table: (key, entry) pairs, keys strictly rising. An unlisted key reads as the entry's reset value. -/
abbrev Tab (α : Type) := List (Nat × α)

end Sys2Proof
end

