-- ==== Sys2Proof/Syntax.lean ====
section
/-!
DEFINITION. The module's inputs as data: command blocks, fabric blocks, descriptors, and Instr, one constructor per row of
spec/opcode_table.json.
-/
namespace Sys2Proof

/-- A host command as its task register or relay header identifies it, with the fields of the command block (R97, R103). -/
structure Cmd where
  /-- address of the rook that holds the command's task register (R103 relay header bytes 0 to 1). -/
  rook : Addr
  /-- host endpoint (R93). -/
  ep : BitVec 4
  /-- task register (R93). -/
  reg : BitVec 8
  /-- endpoint epoch at acceptance (R107 EP_EPOCH). -/
  epoch : BitVec 4
  /-- OPCODE, command-block byte 0. -/
  opcode : Byte
  /-- FLAGS bit [0], FENCE. -/
  fence : Bool
  /-- TAG, bytes 2 to 3. -/
  tag : BitVec 16
  /-- EXEC_ADDR, bytes 4 to 5. -/
  exec : Addr
  /-- TENSOR, bytes 8 to 15. -/
  tensor : Word
  /-- HOST_ADDR, bytes 16 to 23. -/
  hostAddr : Word
  /-- LENGTH, bytes 24 to 27. -/
  length : BitVec 32
  /-- PARAM, command-block bytes 32 to 123. -/
  param : List Byte
deriving DecidableEq, Repr

/-- A fabric block: the header of R64 and its body. -/
structure Block where
  dst : Addr
  src : Addr
  kind : Byte
  vc : BitVec 2
  bcast : BitVec 2
  hops : BitVec 4
  seq : BitVec 16
  ackSeq : BitVec 16
  ackVc : BitVec 2
  ackValid : Bool
  opens : Bool
  host : Bool
  ep : BitVec 4
  scaleRef : BitVec 16
  target : Word
  tag : BitVec 32
  bcrc : BitVec 32
  body : List Byte
deriving DecidableEq, Repr

/-- A transmit stream: destination, virtual channel and broadcast scope (R66, R70). -/
structure StreamKey where
  dst : Addr
  vc : BitVec 2
  bcast : BitVec 2
deriving DecidableEq, Repr

/-- What a HELLO frame's payload carries (R76, R58, R63, R49, and the adapter's declaration under "The host port").
The manual gives the fields and no byte layout. -/
structure Hello where
  identity : Word
  group : BitVec 10
  groupSet : Bool
  addr : Option Addr
  peerPort : BitVec 3
  isHost : Bool
  /-- endpoints a host adapter declares, 1 to 16. -/
  endpoints : BitVec 5
  /-- the peer's expected next FRAME_NO. -/
  expected : BitVec 16
  /-- the peer's free buffers for VC0 to VC3. -/
  free : List Nat
  /-- the peer asks for a retrain. -/
  retrain : Bool
deriving DecidableEq, Repr

/-- The contents of a LINK_STATE block (R76): identity, address, start count and neighbours per port; `hostPort` says that
one of the neighbours is a host adapter on an active host port. -/
structure LinkInfo where
  identity : Word
  group : BitVec 10
  addr : Option Addr
  starts : BitVec 32
  hostPort : Bool
  /-- (port, identity of the neighbour there). -/
  neighbours : List (BitVec 3 × Word)
deriving DecidableEq, Repr

/-- An operand reference of a descriptor (R274). -/
inductive ORef where
  | none
  | slot (slot : BitVec 12) (off : BitVec 40)
  | scratch (off : BitVec 19)
  | plan (off : BitVec 40)
deriving DecidableEq, Repr

/-- A dimension field (R279): a value, or a multiple of the step's row count. -/
inductive Dim where
  | val (n : BitVec 63)
  | rows (n : BitVec 40)
deriving DecidableEq, Repr

/-- A 128-byte descriptor, decoded (R279). -/
structure Desc where
  op : Byte
  half : Bool
  dramT : Bool
  kind : Byte
  fmt : Byte
  site : BitVec 32
  o0 : ORef
  o1 : ORef
  o2 : ORef
  o3 : ORef
  o4 : ORef
  o5 : ORef
  o6 : ORef
  o7 : ORef
  dim0 : Dim
  dim1 : Dim
  dim2 : Dim
  dim3 : Dim
  /-- bytes 104 to 127. -/
  param : List Byte
deriving DecidableEq, Repr

/-- Why the power-fail event is raised (R436 position 1, R452 POWER_FAIL source). -/
inductive PfSource where
  | inputLow | inputHigh | emergencyOff | thermalShutdown
deriving DecidableEq, Repr

/-- The detectors of R194. -/
inductive Detector where
  | residue | parity | protocol | engineCtrl | vector | sequencer | square
deriving DecidableEq, Repr

/-- A domain of R194: half-engine (2e + half), engine, core or square. -/
inductive Domain where
  | half (core : BitVec 12) (half : BitVec 4)
  | engine (core : BitVec 12) (engine : BitVec 3)
  | core (core : BitVec 12)
  | square (square : BitVec 8)
deriving DecidableEq, Repr

/-- A unit of the in-service test (R456). -/
inductive TestUnit where
  | half (core : BitVec 12) (half : BitVec 4)
  | vector (core : BitVec 12)
  | lane (port : BitVec 3) (lane : BitVec 2)
  | channel (chan : BitVec 6)
  /-- the core store and the sequencer store of a core under a retest (R197) -/
  | store (core : BitVec 12)
  /-- the square link of a square under a retest (R197) -/
  | link (square : BitVec 8)
deriving DecidableEq, Repr

/-- A stored word the scrubber reads (R394): a word of a tensor's T1 home, T1 copy, T0 home or T0 copy, of a core's sequencer
store, of free storage, or of the firmware and map reserve (R396), with the pattern the array returns. -/
inductive WordLoc where
  | home (tensor : TNum) (word : Nat)
  | copy1 (tensor : TNum) (word : Nat)
  | copy0 (tensor : TNum) (word : Nat)
  /-- a word that a motion has written at its destination -/
  | dest (tensor : TNum) (word : Nat)
  | sequencer (core : BitVec 12) (data : Word) (check : Byte)
  /-- free or scratch storage of a core store -/
  | freeCore (core : BitVec 12) (data : Word) (check : Byte)
  | free (stack : Fin 12) (data : Word) (check : Byte)
  | mapReserve (stack : Fin 12) (data : Word) (check : Byte)
  | tableEntry (tensor : TNum) (data : Word) (check : Byte)
  | replayStore (stack : Fin 12) (vc : BitVec 2) (data : Word) (check : Byte)
  | staging (stack : Fin 12) (data : Word) (check : Byte)
  | firmware (stack : Fin 12) (inReloadPath : Bool) (data : Word) (check : Byte)
deriving DecidableEq, Repr

/-- An operation of the mapping engine: its count since the start (R452) and the logical unit that it concerns. -/
structure MapOp where
  count : Nat
  unit : Nat
deriving DecidableEq, Repr

/-- One constructor per row of the opcode table, in the table's order: the commands, arrivals, register accesses, events and
descriptor steps of the module. -/
inductive Instr where
  /-- NOP (R100): Command that completes DONE once dispatched; with FENCE it marks that every earlier command of the endpoint has completed. -/
  | nop (c : Cmd)
  /-- READ (R105): Command that sends LENGTH bytes of a tensor to the host buffer as TENSOR_READ_RESP blocks, followed by the completion record. -/
  | read (c : Cmd)
  /-- WRITE (R105): Command that fetches bytes from the host buffer with TENSOR_READ blocks and writes them into a movable tensor; a sealed target gives READ_ONLY. -/
  | write (c : Cmd)
  /-- POWER_STATE (R119): Command that asks for P1, P2 or P3 and is decided by the table of R119 and the refusals of R33. -/
  | powerState (c : Cmd)
  /-- ABORT_TAG (R117): Command that aborts the oldest earlier HELD command with the target tag if it is caught, and otherwise completes ABORT_MISSED. -/
  | abortTag (c : Cmd)
  /-- JOB_SUBMIT (R284): Command that checks the service and the wait queue, gives the job a number and queues it; it stays HELD until the job ends. -/
  | jobSubmit (c : Cmd)
  /-- JOB_END (R296): Command that ends the named job at the end of its current step, or has no effect if the job is already ending. -/
  | jobEnd (c : Cmd)
  /-- JOB_QUERY (R286): Command that returns the state, step, contexts and charged pips of a running or waiting job. -/
  | jobQuery (c : Cmd)
  /-- CTX_OPEN (R300): Command that opens a context of the running serving job of the named service, with its prompt and output buffer. -/
  | ctxOpen (c : Cmd)
  /-- CTX_CLOSE (R304): Command that ends the named context and completes DONE once that context has ended. -/
  | ctxClose (c : Cmd)
  /-- INDEX_CREATE (R312): Command that checks a root and its components and registers them under a free index identifier. -/
  | indexCreate (c : Cmd)
  /-- INDEX_DROP (R319): Command that unregisters an index and deletes its side segments, or ends BUSY while the index has an active context or merge. -/
  | indexDrop (c : Cmd)
  /-- INDEX_QUERY (R319): Command that returns the base count, side entries, segment counts, merge state and the tensor numbers that a merge would need. -/
  | indexQuery (c : Cmd)
  /-- SEARCH (R320): Command that opens a search context and walks, probes or scans the index snapshot, reranks and returns the best K entries, sharded when asked. -/
  | search (c : Cmd)
  /-- INDEX_INSERT (R329): Command that sketches and narrows a batch of rows, writes them as a sealed insert segment and registers it with the next ordinal. -/
  | indexInsert (c : Cmd)
  /-- INDEX_DELETE (R330): Command that sorts and de-duplicates object numbers and writes them as a tombstone segment. -/
  | indexDelete (c : Cmd)
  /-- INDEX_MERGE (R333): Command that folds every segment of the snapshot into a new base and root, and swaps the registry to them on completion. -/
  | indexMerge (c : Cmd)
  /-- TENSOR_CREATE (R143): Command that takes a FREE number and allocates a movable tensor, or starts a sealed tensor in state BUILDING. -/
  | tensorCreate (c : Cmd)
  /-- TENSOR_DELETE (R144): Command that, after earlier commands on the tensor, abandons its motion, drops its copies and frees its home and its number. -/
  | tensorDelete (c : Cmd)
  /-- TENSOR_MOVE (R154): Command that asks the migration engine to move a movable home, or to make a copy of a sealed tensor, in the named tier. -/
  | tensorMove (c : Cmd)
  /-- TENSOR_DROP (R155): Command that drops the T0 or T1 copy of a sealed tensor in its dispatch turn, abandoning a copy that is still being made. -/
  | tensorDrop (c : Cmd)
  /-- TENSOR_PIN (R162): Command that raises a tensor's pin count by 1, subject to the 8 GiB rule. -/
  | tensorPin (c : Cmd)
  /-- TENSOR_UNPIN (R162): Command that lowers a tensor's pin count by 1. -/
  | tensorUnpin (c : Cmd)
  /-- TENSOR_SEAL (R146): Command that writes a LIVE movable tensor to T2 and makes it sealed, with its T0 and T1 storage turned into copies. -/
  | tensorSeal (c : Cmd)
  /-- SEAL_APPEND (R145): Command that appends a whole LIVE movable source to a BUILDING sealed tensor and deletes the source. -/
  | sealAppend (c : Cmd)
  /-- SEAL_CLOSE (R145): Command that sets a BUILDING tensor's size to its appended length and makes it LIVE. -/
  | sealClose (c : Cmd)
  /-- TENSOR_QUERY (R149): Command that returns a tensor's size, state, home, copies, pins, namespace, age and damaged-unit count. -/
  | tensorQuery (c : Cmd)
  /-- NS_CREATE (R378): Command that creates a namespace and draws its key; it is flush-bound. -/
  | nsCreate (c : Cmd)
  /-- NS_DELETE (R378): Command that deletes a namespace, with PURGE also its sealed tensors, and destroys its key; it is flush-bound. -/
  | nsDelete (c : Cmd)
  /-- NS_QUERY (R378): Command that returns a namespace's sealed tensor count and chunks held. -/
  | nsQuery (c : Cmd)
  /-- MEDIA_QUERY (R378): Command that returns free chunks, the SLC target, wear, read-only causes, map state and retired blocks. -/
  | mediaQuery (c : Cmd)
  /-- MEDIA_FLUSH (R378): Command that completes after a journal flush that started after its dispatch. -/
  | mediaFlush (c : Cmd)
  /-- FW_QUERY (R415): Command that returns the running, staged and boot store firmware releases, SVNs and flags. -/
  | fwQuery (c : Cmd)
  /-- FW_LOAD (R420): Command that copies a piece of a firmware image from the host into the staging area. -/
  | fwLoad (c : Cmd)
  /-- FW_VERIFY (R420): Command that applies the checks of R418 to the staging area and enters VERIFIED if they pass. -/
  | fwVerify (c : Cmd)
  /-- FW_COMMIT (R421): Command that writes a VERIFIED staging image to the boot store sector by sector and verifies it. -/
  | fwCommit (c : Cmd)
  /-- FW_ACTIVATE (R423): Command that, when the module is quiet, stops credits and relays and schedules a module reset with cause 0x6. -/
  | fwActivate (c : Cmd)
  /-- FW_FETCH (R425): Command that reads a peer's boot store image into staging and verifies it. -/
  | fwFetch (c : Cmd)
  /-- FW_DISCARD (R415): Command that empties the staging area, or ends BUSY while a commit runs. -/
  | fwDiscard (c : Cmd)
  /-- ATTEST (R430): Command that writes a 512-byte attestation report signed with the identity key over the nonce and the module's state. -/
  | attest (c : Cmd)
  /-- CERT_READ (R415): Command that delivers the identity certificate without its padding. -/
  | certRead (c : Cmd)
  /-- CAL_READ (R415): Command that delivers bytes of the calibration row. -/
  | calRead (c : Cmd)
  /-- CFG_READ (R414): Command that returns the settings block in effect, or the one that the next start would use. -/
  | cfgRead (c : Cmd)
  /-- CFG_WRITE (R414): Command that writes a settings block to the unused configuration copy with a higher VERSION and reads it back. -/
  | cfgWrite (c : Cmd)
  /-- HEALTH_QUERY (R460): Command that writes the 512-byte health report of R449. -/
  | healthQuery (c : Cmd)
  /-- LEDGER_READ (R460): Command that delivers whole ledger pages in ascending sequence from a given sequence number. -/
  | ledgerRead (c : Cmd)
  /-- LEDGER_MARK (R460): Command that appends a HOST_MARK record and completes once its page is programmed. -/
  | ledgerMark (c : Cmd)
  /-- LEDGER_CHECKPOINT (R460): Command that writes a six-part checkpoint and completes once all six pages are programmed. -/
  | ledgerCheckpoint (c : Cmd)
  /-- HEALTH_SELFTEST (R461): Command that runs the compute test and one test of every lane and channel, reporting the failures. -/
  | healthSelftest (c : Cmd)
  /-- TASK_WRITE (R95): Task-register arrival at the rook: it is accepted into a FREE register, moving it to HELD, or refused with TASK_REFUSED. -/
  | taskWrite (port : BitVec 3) (b : Block)
  /-- COMMAND_DISPATCH (R101): The rook dispatches one eligible command per turn, round-robin over endpoints, running it locally or relaying it. -/
  | commandDispatch
  /-- TASK_REGISTER_FREE (R94): The last frame of a completion record leaves the host port, the register returns to FREE and a credit report follows. -/
  | taskRegisterFree (ep : BitVec 4) (reg : BitVec 8)
  /-- COMPLETION (R106): A COMPLETION block reaches the rook and is forwarded to the host, or discarded if its epoch is stale. -/
  | completion (b : Block)
  /-- COMPLETION_RESEND (R110): Every 10 ms an executing module resends a completion record dropped by a broken stream until the rook acknowledges it. -/
  | completionResend (rook : Addr) (ep : BitVec 4) (reg : BitVec 8)
  /-- TENSOR_WRITE_ACK (R104): The relay answer reaches the rook, and a BUSY answer ends the relayed command with BUSY. -/
  | tensorWriteAck (b : Block)
  /-- RELAY_MODULE_LOST (R126): A relay target that has been unreachable for 1 s, or restarted, has its relayed commands ended UNCORRECTABLE by the rook. -/
  | relayModuleLost (addr : Addr)
  /-- QRESET (R112): A write to TRF.EP_CTRL.QRESET advances the endpoint epoch, zeroes its credits, flushes undispatched commands and sends relay resets. -/
  | qreset (ep : BitVec 4)
  /-- EP_CNT_CLR (R9): A write to TRF.EP_CTRL.CNT_CLR clears the endpoint's TRF.EP_COUNT and TRF.EP_LAT. -/
  | epCntClr (ep : BitVec 4)
  /-- RELAY_RESET_WRITE (R113): A write to TRF.RELAY_RESET ends every relayed command of that rook and endpoint with an older epoch. -/
  | relayResetWrite (ep : BitVec 4) (value : Word)
  /-- RELAY_RESET_READ (R114): A read of TRF.RELAY_RESET is answered only after the completion records of every command covered by the reset have been sent. -/
  | relayResetRead (ep : BitVec 4) (src : Addr) (tag : BitVec 32)
  /-- REG_WRITE (R463): A register write to a register with no behaviour of its own sets its RW fields, clears its W1C bits, or is discarded and counted at a hole. -/
  | regWrite (b : Block)
  /-- REG_READ (R463): A REG_READ block is answered with a REG_READ_RESP, or with BAD_COMMAND and a count for a hole or misalignment, or discarded if broadcast. -/
  | regRead (b : Block)
  /-- REG_READ_RESP (R114): A register read response reaches its requester: the rook forwards host responses or takes a relay-reset answer. -/
  | regReadResp (b : Block)
  /-- PWR_CAP_WRITE (R25): A write to GLB.PWR_CAP sets the cap, or sets CAP_ERR and leaves CAP unchanged when the value is out of range. -/
  | pwrCapWrite (value : Word)
  /-- PORT_DISABLE (R48): A write to FAB.CTRL.PORT_DISABLE holds ports in DISABLED with their transmitters off, or releases them to train from DOWN. -/
  | portDisable (mask : BitVec 8)
  /-- FAB_CNT_CLR (R9): A write to FAB.CTRL.CNT_CLR clears the saturating event counts of the FAB block. -/
  | fabCntClr
  /-- RETEST (R197): A write to CORE.CTRL.RETEST asks for a retest of the core's out-of-service domains within 1 s. -/
  | retest (core : BitVec 12)
  /-- CORE_CNT_CLR (R9): A write to CORE.CTRL.CNT_CLR clears the core's four pip counters. -/
  | coreCntClr (core : BitVec 12)
  /-- MIG_CNT_CLR (R9): A write to MEM.MIG_CTRL.CNT_CLR clears MEM.MIG_COUNT, MEM.EVICT and MEM.STALL. -/
  | migCntClr
  /-- NUM_CNT_CLR (R9): A write to GLB.NUM_CTRL.CNT_CLR clears GLB.NUM_COUNT. -/
  | numCntClr
  /-- ROLL_COMPUTE (R216): In the turn after the last write to a roll key register, GLB.ROLL_OUT is updated with the roll of the current key. -/
  | rollCompute
  /-- OP_CNT_CLR (R9): A write to GLB.OP_CTRL.CNT_CLR clears GLB.OP_COUNT. -/
  | opCntClr
  /-- JOB_CNT_CLR (R9): A write to GLB.JOB_CTRL.CNT_CLR clears GLB.JOB_COUNT. -/
  | jobCntClr
  /-- SERVICE_DISABLE (R307): A write setting a GLB.SVC_CTRL bit flushes that service's undispatched commands, waiting jobs and waiting contexts, and lets running work end. -/
  | serviceDisable (mask : BitVec 3)
  /-- SRCH_CNT_CLR (R9): A write to GLB.SRCH_CTRL.CNT_CLR clears the search counters. -/
  | srchCntClr
  /-- MAP_FLUSH (R362): A write to MAP.CTRL.FLUSH starts a journal flush as soon as any flush in progress ends. -/
  | mapFlush
  /-- MAP_CNT_CLR (R9): A write to MAP.CTRL.CNT_CLR clears the MAP counters and the channel counters. -/
  | mapCntClr
  /-- ECC_CNT_CLR (R9): A write to MEM.ECC_CTRL.CNT_CLR clears MEM.ECC_COUNT and the stack and core-store ECC counters. -/
  | eccCntClr
  /-- EVT_CHECKPOINT (R454): A write to EVT.CTRL.CHECKPOINT writes a ledger checkpoint. -/
  | evtCheckpoint
  /-- EVT_CNT_CLR (R9): A write to EVT.CTRL.CNT_CLR clears the event, simultaneity, notice and in-service-test counters. -/
  | evtCntClr
  /-- IST_PAUSE (R459): A write to EVT.IST_CTRL.PAUSE stops or restarts the in-service test rotations. -/
  | istPause (on : Bool)
  /-- REG_CNT_CLR (R9): A write to GLB.REG_CTRL.CNT_CLR clears GLB.REG_ERR. -/
  | regCntClr
  /-- GROUP_WINDOW_WRITE (R465): A write to the OR view of a group window acts on every addressed core in one turn; a write to the mismatch view is discarded. -/
  | groupWindowWrite (b : Block)
  /-- GROUP_WINDOW_READ (R466): A read of a group window samples every addressed core in one turn, returns the OR or mismatch word and updates GLB.GROUP_READ. -/
  | groupWindowRead (b : Block)
  /-- EMERGENCY_POWER_OFF_ARM (R22): An I²C write of 0xE5 to offset 0x40 arms emergency power-off, and any other write disarms it. -/
  | emergencyPowerOffArm (offset value : Byte)
  /-- EMERGENCY_POWER_OFF (R22): An I²C write of 0x5E to an armed offset 0x40 opens the main switch, raises the power-fail event and sets the latch. -/
  | emergencyPowerOff
  /-- EPO_ARM_TIMEOUT (R22): 10 ms without the 0x5E disarms emergency power-off. -/
  | epoArmTimeout
  /-- I2C_RESTART (R22): An I²C write of 0x5A to offset 0x41 starts a module whose power-off latch is set, or that is in P3, with cause 0x2. -/
  | i2cRestart
  /-- VIN_PRE_MATE (R24): The pre-charge contact mates and the bulk input capacitance charges through VIN_PRE at most 4.0 A. -/
  | vinPreMate
  /-- PRECHARGE_END (R24): 200 ms after VIN_PRE mates, the main switch joins VIN to the bulk capacitance if VIN has mated. -/
  | prechargeEnd (vinMated : Bool)
  /-- VIN_START (R23): VIN rising through 47.0 V begins a start with cause 0x0 from the RAILS stage. -/
  | vinStart (mv : Nat)
  /-- INPUT_LOW_1S (R22): Input below 45.0 V for 1 s clears the emergency power-off latch and lets the next rise start the module. -/
  | inputLow1s
  /-- POWER_FAIL (R34): The power-fail event stops admission, gates cores, sends power-fail notices, turns off optics and begins the hold-up sequence. -/
  | powerFail (src : PfSource) (mv : Nat)
  /-- HOLDUP_PROGRAMS_DONE (R34): Once the flash programs in flight complete, the final journal flush is programmed in SLC mode. -/
  | holdupProgramsDone
  /-- FINAL_JOURNAL_FLUSH_DONE (R34): The final journal flush completes, and the power-fail ledger entry is written to the boot store. -/
  | finalJournalFlushDone
  /-- HOLDUP_LEDGER_DONE (R34): The power-fail ledger entry is written, and the converters stop, or the module enters P3 after a thermal shutdown. -/
  | holdupLedgerDone
  /-- HOLDUP_EXHAUSTION (R440): The store falls below 1.5 J during the hold-up sequence, programs are abandoned and the converters stop within 200 µs. -/
  | holdupExhaustion
  /-- HOLDUP_RESTART (R36): After a hold-up sequence, an input held within 47.0 V to 62.0 V for 100 ms starts the module with cause 0x1. -/
  | holdupRestart
  /-- HOLDUP_CHARGED (R24): The hold-up store finishes charging, and the first store measurement of the start begins. -/
  | holdupCharged
  /-- HOLDUP_MEASUREMENT (R35): Every 24 h a controlled discharge measurement of the hold-up store starts. -/
  | holdupMeasurement
  /-- HOLDUP_MEASUREMENT_DONE (R35): A store measurement ends, setting the store state ready, warn or insufficient and setting or clearing the STARTUP and HOLDUP causes. -/
  | holdupMeasurementDone (energy : BitVec 16)
  /-- CAP_PERIOD (R26): Every 64 µs the cap allowance is recomputed and the admitted allowance moves towards the new value. -/
  | capPeriod (inputMw arithMw : Nat)
  /-- PWR_INPUT_REFRESH (R468): Every 1 ms GLB.PWR_INPUT and I²C bit [0] are refreshed with the 10 ms means, and CAP_UNMET is judged. -/
  | pwrInputRefresh (vin iin pin : BitVec 16)
  /-- SENSOR_THRESHOLD (R38): A sensor crosses a warn or throttle threshold, starting or ending throttle actions and resuming a paused job when classes 0 to 2 fall below throttle. -/
  | sensorThreshold (cls : Fin 6) (idx : BitVec 8) (temp : Int)
  /-- THERMAL_CRITICAL (R40): A sensor reaches its critical threshold, its class's critical actions take effect and a job on gated cores is paused. -/
  | thermalCritical (cls : Fin 6) (idx : BitVec 8) (temp : Int)
  /-- THERMAL_SECOND (R39): Each second the thermal allowance falls or rises with the throttle state of classes 0 to 2. -/
  | thermalSecond
  /-- THERMAL_SHUTDOWN (R40): A sensor critical for 30 s raises the power-fail event and leads to P3. -/
  | thermalShutdown (cls : Fin 6) (idx : BitVec 8)
  /-- CRITICAL_ACTION_END (R41): Every sensor of class 2, 3 or 5 falls below throttle and that class's critical action ends. -/
  | criticalActionEnd (cls : Fin 6)
  /-- OPTICS_COOLDOWN (R41): An optical engine below throttle for 10 s turns its transmitter on, and its port trains from DOWN. -/
  | opticsCooldown (port : BitVec 3)
  /-- P2_EXIT (R121): The 2 ms exit from P2 to P1 completes, and the command that caused it runs. -/
  | p2Exit
  /-- ENTRY_ABANDON (R120): A power-state entry paused for more than 1 s in total is abandoned, and the POWER_STATE command completes BUSY. -/
  | entryAbandon
  /-- P3_CONVERTERS_OFF (R469): Once the rook acknowledges the POWER_STATE completion record, or 1 s passes, transmitters and every rail but standby are stopped. -/
  | p3ConvertersOff
  /-- CLOCK_LOSS (R406): Loss of lock in an arithmetic, hub or turn clock domain causes a module reset with cause 0x3. -/
  | clockLoss
  /-- RAILS_DONE (R407): The rails are up and the BOOT_ROM stage begins. -/
  | railsDone (vin iin pin : BitVec 16)
  /-- BOOT_ROM_DONE (R407): Calibration, identity, sector table, configuration and ledger head are read and checked, and the DRAM stage begins. -/
  | bootRomDone
  /-- DRAM_STAGE_DONE (R407): The stacks are trained and tested and T1 is marked unwritten, and the IMAGE stage begins. -/
  | dramStageDone (failed : BitVec 12) (found : List (Fin 12 × Nat))
  /-- IMAGE_STAGE_DONE (R419): The firmware image, staged image or recovery loader is verified and run, and the FIRMWARE branches begin. -/
  | imageStageDone
  /-- FLASH_BRANCH_DONE (R408): The flash branch ends after channel training, key table reconciliation, the rebuild and the registry restore. -/
  | flashBranchDone (chanFailed : BitVec 64) (diesOut : List (Fin 1536)) (eraseFails : List (Fin 1536 × BitVec 14))
  /-- COMPUTE_BRANCH_DONE (R408): The compute branch ends after testing every domain and returning passing domains to service. -/
  | computeBranchDone (failed : List Domain) (found : List (BitVec 12 × Nat))
  /-- SERVING (R409): With the flash and compute branches ended the module enters P1, reports credits, takes relays, records SERVING and burns due fuses. -/
  | serving
  /-- STARTUP_WATCHDOG (R406): A FIRMWARE stage that runs 30 s without reaching SERVING causes a module reset with cause 0x7. -/
  | startupWatchdog
  /-- ACTIVATION_RESET (R423): 10 ms after FW_ACTIVATE completes, the module resets with cause 0x6, keeping a VERIFIED staging image. -/
  | activationReset
  /-- LOADER_RETRY (R426): Every 10 s the recovery loader tries again to fetch a verifying image from its peers. -/
  | loaderRetry
  /-- SIGNAL_DETECT (R48): Signal on all four receive lanes moves a port from DOWN to SIGNAL. -/
  | signalDetect (port : BitVec 3)
  /-- LANE_LOCK (R48): Lock on all four lanes moves a port from SIGNAL to EQUALIZE. -/
  | laneLock (port : BitVec 3)
  /-- EQUALISER_AGREED (R48): Agreed equaliser settings move a port to ALIGN and reset the scramblers. -/
  | equaliserAgreed (port : BitVec 3)
  /-- FRAME_LOCK (R48): Four consecutive ALIGN frames in place on all lanes move a port to HELLO. -/
  | frameLock (port : BitVec 3)
  /-- HELLO (R63): A valid HELLO sets the credits and the resend point, moves the port to UP and begins discovery. -/
  | hello (port : BitVec 3) (h : Hello)
  /-- LOSS_OF_LOCK (R49): Loss of lock on any lane of a port starts a retrain. -/
  | lossOfLock (port : BitVec 3) (locked : BitVec 4)
  /-- RETRAIN_TRIGGER (R49): Eight replays without progress, an excess of uncorrectable frames or a peer request puts the port into RETRAIN. -/
  | retrainTrigger (port : BitVec 3)
  /-- FAST_RETRAIN_TIMEOUT (R49): A fast retrain not UP within 200 µs falls back to full training and the port leaves routing. -/
  | fastRetrainTimeout (port : BitVec 3)
  /-- FULL_TRAINING_FAILED (R49): A failed full training is counted, and the third within 1 s puts the port in FAILED. -/
  | fullTrainingFailed (port : BitVec 3)
  /-- FAILED_RETRY (R48): Every 10 s a FAILED port retries its training. -/
  | failedRetry (port : BitVec 3)
  /-- DATA_FRAME (R61): A DATA frame is received: it is accepted in order and its blocks are passed up, or it is discarded and NAK is set. -/
  | dataFrame (port : BitVec 3) (raw : List Byte)
  /-- IDLE_FRAME (R55): An IDLE frame passes acknowledgements and credits up, and its PRBS payload feeds the lane FEC counts. -/
  | idleFrame (port : BitVec 3) (raw : List Byte)
  /-- REPLAY_TIMEOUT (R62): 10 µs without progress in ACK_NO with frames outstanding makes the sender resend from ACK_NO + 1. -/
  | replayTimeout (port : BitVec 3)
  /-- STREAM_RESEND_TIMEOUT (R67): 200 µs without acknowledgement progress makes the source resend a stream from the last acknowledgement. -/
  | streamResendTimeout (key : StreamKey)
  /-- STREAM_CLOSE (R68): A stream idle and fully acknowledged for 10 ms may be closed. -/
  | streamClose (key : StreamKey)
  /-- CONTROL_REISSUE (R67): Every 10 ms firmware reissues the dropped control blocks. -/
  | controlReissue
  /-- REPLAY_SHARE_ROOM (R69): Room in a VC's replay share lets the blocks waiting at the source be sent. -/
  | replayShareRoom (vc : BitVec 2)
  /-- E2E_ACK (R66): An end-to-end acknowledgement frees replay space, or with NAK or SCALE_RESEND makes the source resend. -/
  | e2eAck (b : Block)
  /-- TENSOR_READ (R105): A tensor read request for a lease, the firmware image tensor or a host buffer is served with TENSOR_READ_RESP blocks. -/
  | tensorRead (b : Block)
  /-- TENSOR_READ_RESP (R105): Tensor read data reaches the executing module for a WRITE, a lease read or a firmware fetch, or the rook for forwarding. -/
  | tensorReadResp (b : Block)
  /-- TENSOR_WRITE (R104): A tensor write reaches the relay window as a relayed command or sub-search data, or writes leased memory. -/
  | tensorWrite (b : Block)
  /-- COLL_SCALE (R71): A collective scale block is held for pairing with the COLL_DATA that refer to it. -/
  | collScale (b : Block)
  /-- COLL_DATA (R71): An L8 data block is paired with its held scale and decoded into the collective. -/
  | collData (b : Block)
  /-- COLL_RAW (R262): An unquantised collective block brings a contribution, a result, a selection list or an abandon. -/
  | collRaw (b : Block)
  /-- COLL_SCALE_TIMEOUT (R71): A COLL_DATA whose scale is not held after 20 µs is discarded and the scale's resend is asked. -/
  | collScaleTimeout (src : Addr) (scaleRef : BitVec 16)
  /-- LINK_STATE (R76): A flooded LINK_STATE is forwarded once and updates the link state, the routes and the start count that a rook tracks. -/
  | linkState (port : BitVec 3) (ls : LinkInfo)
  /-- ASSIGN (R77): An ASSIGN block gives a module its member number and address. -/
  | assign (identity : Word) (member : BitVec 6)
  /-- ELECTION (R77): After 2 ms with no new LINK_STATE for the group, the assigner is chosen and assigns members. -/
  | election
  /-- ROUTE_RECOMPUTE (R81): The route tables are recomputed by breadth-first search after a change in link state. -/
  | routeRecompute
  /-- DISCOVERY_DONE (R79): 10 ms after the last LINK_STATE change, discovery is complete. -/
  | discoveryDone
  /-- ROUTE_SET (R82): A broadcast ROUTE_SET has the entries that name the module staged under its epoch. -/
  | routeSet (b : Block)
  /-- ROUTE_COMMIT (R82): A ROUTE_COMMIT applies the entries staged under its epoch and marks them DRIVER. -/
  | routeCommit (b : Block)
  /-- ROUTE_STAGE_EXPIRE (R82): Staged route entries with no commit within 1 s are discarded. -/
  | routeStageExpire (epoch : Word)
  /-- HOST_PORT_FAILOVER (R72): When the active host port stays out of UP longer than a fast retrain, another host-facing port becomes active. -/
  | hostPortFailover
  /-- ROOK_HANDOVER (R124): A rook that lost its host port for 1 s hands over to the next candidate, ending the commands held at the old rook. -/
  | rookHandover
  /-- MEMBER_UNREACHABLE (R443): At the rook, a member absent from link state for 1 s, or sending POWER_FAIL, raises MEMBER_LOST. -/
  | memberUnreachable (addr : Addr) (powerFail : Bool)
  /-- LEASE_REQ (R86): A lease request is granted when the lender holds no job and keeps 16 GiB of its own T1 free. -/
  | leaseReq (identity : Word) (addr : Addr) (gib : BitVec 9)
  /-- LEASE_GRANT (R86): A lease grant gives the borrower leased memory under a lease identifier for tier TN. -/
  | leaseGrant (identity : Word) (addr : Addr) (lease : BitVec 16) (gib : BitVec 9)
  /-- LEASE_RECALL (R87): A recall makes the borrower move its tensors out of the lease and release it within 50 ms. -/
  | leaseRecall (lease : BitVec 16)
  /-- LEASE_RELEASE (R87): A release ends the lease and returns its memory to the lender. -/
  | leaseRelease (lease : BitVec 16)
  /-- LEASE_GRANT_TIMEOUT (R161): No grant within 1 ms makes eviction skip the tensor it would have moved to TN. -/
  | leaseGrantTimeout
  /-- LEASE_IDLE_RELEASE (R161): A lease whose tensors have all left for 1 s is released. -/
  | leaseIdleRelease (lease : BitVec 16)
  /-- RECALL_LATE (R87): A recall unanswered after 50 ms is counted and recorded in the ledger. -/
  | recallLate (lease : BitVec 16)
  /-- LENDER_UNREACHABLE (R88): A lender unreachable for 1 s loses every tensor homed in its lease. -/
  | lenderUnreachable (identity : Word)
  /-- BORROWER_UNREACHABLE (R88): A borrower unreachable for 1 s ends the lease and returns its memory to the lender. -/
  | borrowerUnreachable (identity : Word)
  /-- POWER_FAIL_NOTICE (R89): A POWER_FAIL block from a neighbour removes its ports from routing and acts on leases under R88. -/
  | powerFailNotice (port : BitVec 3)
  /-- EVENT (R446): A notice block reaches the rook and is forwarded out of the host port, or held when there is none. -/
  | event (b : Block)
  /-- FABRIC_RESET (R91): The fabric reset event clears transit, streams, addresses and routes, retrains every port and ends held commands without records. -/
  | fabricReset
  /-- JOB_ADMISSION (R287): When no job holds the complex, the next waiting job's plan and bindings are checked in order. -/
  | jobAdmission
  /-- TASK_PLACEMENT (R289): A ready task is placed on the first free core, up to 16 a turn. -/
  | taskPlacement
  /-- DESCRIPTOR_ISSUE (R189): The sequencer issues a descriptor once its byte dependencies on earlier descriptors of its task are met. -/
  | descriptorIssue (task desc : BitVec 16)
  /-- DESCRIPTOR_COMPLETE (R173): A descriptor completes and its nominal cost is charged to the job. -/
  | descriptorComplete (task desc : BitVec 16)
  /-- TASK_COMPLETE (R278): A task completes and the later tasks that waited on it become ready. -/
  | taskComplete (task : BitVec 16)
  /-- STEP_END (R290): The last task of a step completes: history and step counter update, and the job ends or its next step begins. -/
  | stepEnd
  /-- SERVING_STEP_START (R301): A serving step starts: waiting contexts join, rows are formed and the row map is written. -/
  | servingStepStart
  /-- JOB_FAULT (R195): A core-fault input ends the tasks of the faulty domain FAULT_CONTAINED and takes the domain out of service. -/
  | jobFault (d : Detector) (core : BitVec 12) (half : BitVec 4)
  /-- BUDGET_EXPIRY (R293): The expiry descriptor completes, and the job ends BUDGET_OVER once its issued descriptors have completed. -/
  | budgetExpiry
  /-- JOB_STOP_COMPLETE (R294): When a stopping job's last descriptor has completed or been abandoned, pins and scratch are released and the completion is sent. -/
  | jobStopComplete
  /-- ENGINE_IDLE_GATE (R184): After 2,000 admitted cycles without a valid slot, an engine or half stops dummy slots and its clock is gated. -/
  | engineIdleGate (core : BitVec 12) (half : BitVec 4)
  /-- COLLECTIVE_TIMEOUT (R263): No block from some rank for 1 s ends the collective UNCORRECTABLE. -/
  | collectiveTimeout (coll : BitVec 32)
  /-- SHARD_TIMEOUT (R340): A shard member that sends nothing within 1 s counts as failed with UNCORRECTABLE. -/
  | shardTimeout (coll : BitVec 32) (member : Addr)
  /-- MATMUL (R233): Descriptor that computes an integer product with scales, bias, activation and residual, stored in binary32 or A16. -/
  | matmul (task : BitVec 16) (d : Desc)
  /-- HAMMING (R237): Descriptor that computes the Hamming distances between queries and sketches. -/
  | hamming (task : BitVec 16) (d : Desc)
  /-- EW_ARRAY (R239): Descriptor that multiplies A16 rows by one weight row element-wise on the diagonal cells. -/
  | ewArray (task : BitVec 16) (d : Desc)
  /-- SKETCH (R238): Descriptor that turns binary32 rows into binary sketches by threshold comparison. -/
  | sketch (task : BitVec 16) (d : Desc)
  /-- EW (R240): Descriptor that applies an element-wise binary32 function. -/
  | ew (task : BitVec 16) (d : Desc)
  /-- NORM (R243): Descriptor that applies RMS or layer normalisation to each row. -/
  | norm (task : BitVec 16) (d : Desc)
  /-- SOFTMAX (R244): Descriptor that computes a masked softmax of each row. -/
  | softmax (task : BitVec 16) (d : Desc)
  /-- REDUCE (R245): Descriptor that reduces each row to a sum, extreme, index or count. -/
  | reduce (task : BitVec 16) (d : Desc)
  /-- CONVERT (R246): Descriptor that converts between binary32, A16, narrow integer and X48 formats, or applies a master update. -/
  | convert (task : BitVec 16) (d : Desc)
  /-- MOVE (R247): Descriptor that copies LEN bytes. -/
  | move (task : BitVec 16) (d : Desc)
  /-- GATHER (R247): Descriptor that gathers rows by index. -/
  | gather (task : BitVec 16) (d : Desc)
  /-- SCATTER (R247): Descriptor that scatters rows by index. -/
  | scatter (task : BitVec 16) (d : Desc)
  /-- SCATTER_ADD (R247): Descriptor that adds binary32 rows into indexed destination rows. -/
  | scatterAdd (task : BitVec 16) (d : Desc)
  /-- RELAYOUT (R248): Descriptor that converts between tensor layouts and engine layouts. -/
  | relayout (task : BitVec 16) (d : Desc)
  /-- TRANSPOSE (R249): Descriptor that transposes an array of 1-, 2- or 4-byte elements. -/
  | transpose (task : BitVec 16) (d : Desc)
  /-- TOPK (R253): Descriptor that selects the k best entries of a row with a bitonic network and gathers their payload rows. -/
  | topk (task : BitVec 16) (d : Desc)
  /-- SELECT (R256): Descriptor that merges TOPK or SELECT outputs, de-duplicated by object. -/
  | select (task : BitVec 16) (d : Desc)
  /-- ALLREDUCE (R260): Descriptor that sums or maximises a tensor over the ranks of a collective. -/
  | allreduce (task : BitVec 16) (d : Desc)
  /-- ALLGATHER (R261): Descriptor that concatenates the ranks' slices in rank order. -/
  | allgather (task : BitVec 16) (d : Desc)
  /-- FILTER (R268): Descriptor that matches records against a predicate and writes a bitmap and list. -/
  | filter (task : BitVec 16) (d : Desc)
  /-- SCAN (R269): Descriptor that matches records and writes selected fields of each match. -/
  | scan (task : BitVec 16) (d : Desc)
  /-- DESC_NOP (R281): Control descriptor that does nothing. -/
  | descNop (task : BitVec 16) (d : Desc)
  /-- EMIT (R303): Indivisible descriptor that takes each emitting row's next token and ends contexts that stop. -/
  | emit (task : BitVec 16) (d : Desc)
  /-- T_CREATE (R281): Tensor descriptor that acts as TENSOR_CREATE on a CREATE slot. -/
  | tCreate (task : BitVec 16) (d : Desc)
  /-- T_DELETE (R281): Tensor descriptor that acts as TENSOR_DELETE on a CREATE slot. -/
  | tDelete (task : BitVec 16) (d : Desc)
  /-- T_MOVE (R281): Tensor descriptor that acts as TENSOR_MOVE. -/
  | tMove (task : BitVec 16) (d : Desc)
  /-- T_DROP (R281): Tensor descriptor that acts as TENSOR_DROP. -/
  | tDrop (task : BitVec 16) (d : Desc)
  /-- T_PIN (R281): Tensor descriptor that acts as TENSOR_PIN. -/
  | tPin (task : BitVec 16) (d : Desc)
  /-- T_UNPIN (R281): Tensor descriptor that acts as TENSOR_UNPIN. -/
  | tUnpin (task : BitVec 16) (d : Desc)
  /-- T_SEAL (R281): Tensor descriptor that acts as TENSOR_SEAL. -/
  | tSeal (task : BitVec 16) (d : Desc)
  /-- T_APPEND (R281): Tensor descriptor that acts as SEAL_APPEND, with its source named by O1. -/
  | tAppend (task : BitVec 16) (d : Desc)
  /-- T_CLOSE (R281): Tensor descriptor that acts as SEAL_CLOSE. -/
  | tClose (task : BitVec 16) (d : Desc)
  /-- MOTION_START (R156): A waiting move or copy starts when a migration slot and its destination space are free, in priority order. -/
  | motionStart
  /-- UNIT_TRANSFER_DONE (R150): A 16 KiB unit is written at the destination and leaves the window, releasing writes that waited for it. -/
  | unitTransferDone (tensor : TNum)
  /-- JOURNAL_FLUSH (R362): Every 4 ms, or when the previous flush ends, a journal flush of every earlier record starts. -/
  | journalFlush
  /-- JOURNAL_FLUSH_DONE (R362): A flush whose pages have all programmed makes its records durable, completing flush-bound commands and freeing chunks. -/
  | journalFlushDone (tens : BitVec 16)
  /-- MAP_PAGE_WRITEBACK (R361): A map page dirty for 30 s is written back to the map area. -/
  | mapPageWriteback (page : Nat)
  /-- SEAL_STEP (R352): A seal or append step of up to 64 MiB starts once every die it touches has room in SLC-mode blocks. -/
  | sealStep (tensor : TNum)
  /-- FLASH_PROGRAM_DONE (R358): A page program completes; a COMMIT page completes its seal command, and a failure is repeated elsewhere. -/
  | flashProgramDone (die : Fin 1536) (block : BitVec 14) (page : BitVec 11) (ok : Bool)
  /-- FLASH_ERASE_DONE (R363): A block erase completes and the block becomes FREE, or RETIRED on failure. -/
  | flashEraseDone (die : Fin 1536) (block : BitVec 14) (ok : Bool)
  /-- BLOCK_ERASE (R363): An ERASE_PENDING block whose earlier reads have ended is erased. -/
  | blockErase (die : Fin 1536) (block : BitVec 14)
  /-- FLASH_READ_DONE (R370): A unit read is decoded with retries, recorded by depth, and marked DAMAGED or scheduled for refresh when needed. -/
  | flashReadDone (unit : Nat) (depth : Fin 10) (waitUs : BitVec 16)
  /-- DIE_SUSPEND (R368): A foreground read suspends a die's program or erase outside the 200 µs window. -/
  | dieSuspend (die : Fin 1536)
  /-- DIE_RESUME (R368): After 8 reads or 150 µs of reads the die resumes its program or erase. -/
  | dieResume (die : Fin 1536)
  /-- SUSPEND_WINDOW_END (R367): 200 µs after a resume, a read that waited may suspend the die again. -/
  | suspendWindowEnd (die : Fin 1536)
  /-- ERASE_FORCED_START (R368): An erase that has waited 50 ms starts regardless of queued reads. -/
  | eraseForcedStart (die : Fin 1536)
  /-- FOLDING (R354): Background copy of the oldest SLC units into QLC blocks on the same die. -/
  | folding (die : Fin 1536)
  /-- GARBAGE_COLLECTION (R356): Background copy out of the emptiest FULL QLC block to keep 8 free blocks per die. -/
  | garbageCollection (die : Fin 1536)
  /-- REFRESH (R370): Background move of every valid unit of a block scheduled for refresh. -/
  | refresh (die : Fin 1536) (block : BitVec 14)
  /-- PATROL (R371): Background patrol read of mapped pages, at most 2 % of read time per lap. -/
  | patrol (unit : Nat) (depth : Fin 10)
  /-- DIE_OUT (R347): A die that fails status 16 times in 1 s or stops answering leaves service, its units become uncorrectable and MEDIA is set. -/
  | dieOut (die : Fin 1536)
  /-- CHANNEL_CLOCK_LOSS (R347): A flash channel clock losing lock takes the channel and its 24 dies out of service. -/
  | channelClockLoss (chan : BitVec 6)
  /-- LOCKSTEP_MISMATCH (R351): The two mapping engine copies disagree, the operation is repeated and repeated mismatches set LOCKSTEP. -/
  | lockstepMismatch (op : MapOp)
  /-- SCRUB (R394): The scrubber reads the next word in an idle cycle and corrects or poisons it. -/
  | scrub (loc : WordLoc)
  /-- SCRUB_SLOW (R395): A T1 scrub lap running for more than 24 h sets SCRUB_SLOW. -/
  | scrubSlow
  /-- NARROW_WRITE_MERGE (R390): A narrow write takes a merge buffer entry, merges its bytes into the classified old word and writes it back. -/
  | narrowWriteMerge (tensor : TNum) (off : BitVec 40) (data : List Byte)
  /-- STACK_PHY_LOSS (R397): A DRAM PHY loses lock, accesses to the stack wait and a retrain begins. -/
  | stackPhyLoss (stack : Fin 12)
  /-- STACK_RETRAIN_TIMEOUT (R397): A PHY retrain not restored within 50 µs takes the stack out of service. -/
  | stackRetrainTimeout (stack : Fin 12)
  /-- UNCORRECTABLE_DATA_ERROR (R167): The uncorrectable data error event makes the tensor DAMAGED or LOST and fails only commands that touch it. -/
  | uncorrectableDataError (tensor : TNum) (unit : Nat)
  /-- BOOT_SUSPEND (R404): A boot store read suspends a program or erase outside the 200 µs window. -/
  | bootSuspend (waitUs : BitVec 16)
  /-- BOOT_RESUME (R403): After 64 KiB or 100 µs of reads the boot store operation resumes. -/
  | bootResume
  /-- BOOT_OP_DONE (R403): A boot store page program or sector erase completes. -/
  | bootOpDone (ok : Bool)
  /-- LEDGER_SECTOR_ERASE (R402): A ring sector behind the window is erased, after its KEEP records are copied to the head. -/
  | ledgerSectorErase
  /-- LEDGER_APPEND (R452): A ledger record is appended at the head within 1 s of its cause. -/
  | ledgerAppend
  /-- HOURLY_CHECKPOINT (R454): After every hour of powered time a six-part checkpoint is written. -/
  | hourlyCheckpoint
  /-- LIFE_LEFT_UPDATE (R448): Each second in full mode LIFE_LEFT is recomputed, and a LIFE_STEP notice is raised when it crosses a multiple of 10. -/
  | lifeLeftUpdate
  /-- NOTICE_SEND (R445): A pending notice whose code's 10 ms spacing has passed is sent to the rook. -/
  | noticeSend
  /-- IST_TICK (R456): Each 1 ms tick starts at most one in-service test in each rotation slot, with retests first. -/
  | istTick
  /-- IST_TEST_DONE (R458): An in-service test ends, and a failure raises a core fault, a retrain or a channel retraining. -/
  | istTestDone (unit : TestUnit) (fail : Option Byte)
  /-- STACK_RETRAIN_DONE (R397): A DRAM PHY retrain restores lock within 50 µs, the stack returns to service and the accesses that waited proceed. -/
  | stackRetrainDone (stack : Fin 12)
  /-- BOOT_SUSPEND_WINDOW_END (R404): 200 µs after a boot store resume, a read that waited inside the window may suspend the program or erase again. -/
  | bootSuspendWindowEnd
  /-- CHANNEL_RETRAIN_DONE (R458): The retraining of a flash channel interface, begun after a failed channel test once the channel is idle, ends with the channel back in service or out of service. -/
  | channelRetrainDone (chan : BitVec 6) (ok : Bool)
  /-- INPUT_INTERRUPTION (R36): After a hold-up sequence the input leaves 47.0 V to 62.0 V, or rises above 62.0 V, and the 100 ms wait before restart begins again. -/
  | inputInterruption (mv : Nat)
  /-- SELFTEST_DONE (R461): The compute, lane and channel tests of a HEALTH_SELFTEST have all ended, and the command completes DONE with the counts of domains, lanes and channels failed and health returns to full mode. -/
  | selftestDone (domains : BitVec 32) (lanes channels : BitVec 16)
deriving DecidableEq, Repr

end Sys2Proof
end

