-- ==== Sys2Proof/Machine/State.lean ====
section
/-!
DEFINITION. The state of the whole module as plain data: one structure per chapter of the manual, joined in State, and State.reset.
A field's comment gives: what it is | width | rule and file | reset value.
-/
namespace Sys2Proof.Machine

/-- Why the module stops: for no reason. The manual gives every input an effect, so no meaning ends in a fault. -/
inductive Fault where
deriving DecidableEq, Repr

/-- Why a command has no meaning. -/
inductive Refusal where
  /-- Raised by exec's arms alone, for a command without a meaning. Safe. -/
  | notModelled (mnemonic : String)
deriving DecidableEq, Repr

/-! ### Module, power and cooling -/

/-- The input path: contacts and main switch (R19, R24). -/
inductive InputPath where
  | unmated | precharging | opened | closed
deriving DecidableEq, Repr

/-- Whether the module runs (R34, R36, R40). -/
inductive RunState where
  /-- off: no converter runs -/
  | off
  /-- a start runs or the module serves -/
  | on
  /-- hold-up sequence: waiting for the flash programs in flight -/
  | holdPrograms
  /-- hold-up sequence: the final journal flush runs -/
  | holdFlush
  /-- hold-up sequence: the ledger entry is written -/
  | holdLedger
  /-- hold-up sequence over, waiting for 100 ms of good input (R36) -/
  | waitInput
  /-- P3: standby rail only (R30, R40) -/
  | offline
deriving DecidableEq, Repr

/-- Steps of an accepted power-state entry (R469). -/
inductive EntryStep where
  | waitJobs | moves | flush | checkpoint | releaseLeases | complete
deriving DecidableEq, Repr

/-- A power-state entry in progress (R33, R120, R469). -/
structure Entry where
  target : BitVec 2
  cmd : Cmd
  step : EntryStep
  /-- journal flush or ledger page that the step waits for -/
  waitSeq : Nat
deriving DecidableEq, Repr

/-- State of chapter "Module, power and cooling". -/
structure Power where
  /-- input path | enum | R24, 01_module | closed (a reset with the rails up or a start finds it joined; DESIGN CHOICE, log 3) -/
  path : InputPath
  /-- run state | enum | R34, 01_module | on (the machine right after reset runs) -/
  run : RunState
  /-- input has been below 45.0 V for 1 s, so the next rise starts the module | 1 bit | R22, R31, 01_module | false (DESIGN CHOICE, log 3) -/
  lowForSecond : Bool
  /-- emergency power-off armed | 1 bit | R22, 01_module | false (DESIGN CHOICE, log 3) -/
  epoArmed : Bool
  /-- offset pointer of the management target, which reads move on | 8 bits | R21, 01_module | 0 (DESIGN CHOICE, log 3) -/
  i2cOffset : Byte
  /-- emergency power-off latch | 1 bit | R22, 01_module | false (DESIGN CHOICE, log 3) -/
  epoLatch : Bool
  /-- GLB.PWR_CAP.CAP | 7 bits | R25, 01_module | 0x5F -/
  cap : BitVec 7
  /-- GLB.PWR_CAP.CAP_ERR | 1 bit | R25, 01_module | 0 -/
  capErr : Bool
  /-- A_cap | engine-cycles per turn | R26, 01_module | 524,288 (as ALLOW) -/
  aCap : Nat
  /-- thermal allowance | engine-cycles per turn | R39, 01_module | 524,288 -/
  thermAllow : Nat
  /-- GLB.PWR_STATUS.ALLOW | 20 bits | R29, 01_module | 524,288 -/
  allow : Nat
  /-- GLB.PWR_STATUS.CAP_UNMET | 1 bit | R28, 01_module | 0 -/
  capUnmet : Bool
  /-- GLB.PWR_INPUT.VIN, 10 mV | 16 bits | R29, R468, 01_module | 0 -/
  vin : BitVec 16
  /-- GLB.PWR_INPUT.IIN, 1 mA | 16 bits | R29, R468, 01_module | 0 -/
  iin : BitVec 16
  /-- GLB.PWR_INPUT.PIN, 0.1 W | 16 bits | R29, R468, 01_module | 0 -/
  pin : BitVec 16
  /-- GLB.PWR_STATE.CURRENT | 2 bits | R469, 01_module | 1 -/
  current : BitVec 2
  /-- GLB.PWR_STATE.TARGET | 2 bits | R469, 01_module | 1 -/
  target : BitVec 2
  /-- GLB.PWR_STATE.IN_TRANSITION | 1 bit | R469, 01_module | 0 -/
  inTransition : Bool
  /-- the entry in progress | option | R33, R469, 01_module | none -/
  entry : Option Entry
  /-- an exit from P2 in progress | 1 bit | R121, 03_task_registers | false -/
  exiting : Bool
  /-- commands that wait for the exit from P2 | list | R32, R121, 01_module | empty -/
  waitExit : List Cmd
  /-- P3 entry complete, converters not yet stopped (R469 step 5) | 1 bit | R469, 01_module | false -/
  p3Pending : Bool
  /-- GLB.HOLDUP.ENERGY, 10 mJ | 16 bits | R36, 01_module | 0 -/
  energy : BitVec 16
  /-- GLB.HOLDUP.LAST_SEQ, 10 us | 16 bits | R36, 01_module | 0 -/
  lastSeq : BitVec 16
  /-- GLB.HOLDUP.STATE | 4 bits | R36, 01_module | 0 -/
  storeState : BitVec 4
  /-- STATE before the running measurement | 4 bits | R35, 01_module | 0 (DESIGN CHOICE, log 3) -/
  storeBefore : BitVec 4
  /-- a measurement of this start has completed | 1 bit | R21, R35, 01_module | false -/
  measured : Bool
  /-- the last completed measurement found ready or warn | 1 bit | R21, R35, 01_module | false -/
  storeUsable : Bool
  /-- the store is charged to R24's end | 1 bit | R24, 01_module | false -/
  charged : Bool
  /-- turn of the power-fail event | turn | R34, R452, 01_module | 0 (DESIGN CHOICE, log 3) -/
  pfTurn : Nat
  /-- source of the power-fail event | enum | R452, 13_health | inputLow (DESIGN CHOICE, log 3) -/
  pfSource : PfSource
  /-- duration of the hold-up sequence up to the final flush, turns | count | R452, 13_health | 0 (DESIGN CHOICE, log 3) -/
  pfFlushTurns : Nat
  /-- the last power loss met hold-up exhaustion | 1 bit | R440, R452, 13_health | false (DESIGN CHOICE, log 3) -/
  exhausted : Bool
  /-- sensor temperatures, key 256 x class + sensor, 0.1 degC | table | R38, 01_module | empty: not yet read (DESIGN CHOICE, log 3) -/
  temps : Tab Int
  /-- highest temperature of each class since start, 0.1 degC | table | R449, 13_health | empty -/
  tempMax : Tab Int
  /-- highest temperature of each class in life, 0.1 degC | table | R449, 13_health | empty (DESIGN CHOICE, log 7) -/
  tempLife : Tab Int
  /-- critical events of each class in life | table | R449, 13_health | empty (DESIGN CHOICE, log 7) -/
  critLife : Tab Nat
  /-- per-class history of the last 16 hours, newest first, 0.1 degC | table of lists | R449, 13_health | empty -/
  tempHist : Tab (List Int)
  /-- classes whose critical action is in force | 6 bits | R38, R41, 01_module | 0 -/
  critActs : BitVec 6
  /-- cores gated by a critical sensor of classes 0 to 2 | 1 bit | R38, R40, 01_module | false -/
  coresHeld : Bool
  /-- flash program and erase admission halved | 1 bit | R38, R41, 01_module | false -/
  flashHalved : Bool
  /-- that halving follows a critical action, and ends 3 K below throttle | 1 bit | R41, 01_module | false -/
  flashCooling : Bool
  /-- transmitters turned off by a critical optical engine | 8 bits | R38, R41, 01_module | 0 -/
  opticsOff : BitVec 8
  /-- transmitters of all ports on | 1 bit | R34, R408, 01_module | false -/
  txOn : Bool
deriving DecidableEq, Repr

/-! ### Optical fabric -/

/-- Training states of R48 with their codes. -/
inductive Train where
  | down | signal | equalize | align | hello | up | retrain | disabled | failed
deriving DecidableEq, Repr

/-- A DATA frame kept for retry: number, virtual channel, FIRST_BLOCK and payload (R60). `paid` says that a credit has been used for it
since the last HELLO (R58, R63). -/
structure TxFrame where
  no : BitVec 16
  vc : BitVec 2
  first : BitVec 9
  payload : List Byte
  paid : Bool
deriving DecidableEq, Repr

/-- A frame as it stands on the output of a port: its 320 bytes, and for each lane the PAM4 levels of its scrambled bits (R46, R52, R53). -/
structure SentFrame where
  bytes : List Byte
  levels : List (List (BitVec 2))
deriving DecidableEq, Repr

/-- One fabric port (R46 to R63). -/
structure Port where
  /-- training state | enum | R48, 02_fabric | DOWN (0x0) -/
  train : Train
  /-- FAB.PORT_STATUS.RETRAINS | 16 bits | R49, 02_fabric | 0 -/
  retrains : BitVec 16
  /-- FAB.PORT_STATUS.LANE_LOCK | 4 bits | R92, 02_fabric | 0 -/
  lanes : BitVec 4
  /-- FAB.PORT_STATUS.HOST | 1 bit | R92, 02_fabric | 0 -/
  host : Bool
  /-- FAB.PORT_STATUS.HOST_ACTIVE | 1 bit | R72, 02_fabric | 0 -/
  hostActive : Bool
  /-- FAB.PORT_STATUS.PF_NOTICE | 1 bit | R92, 02_fabric | 0 -/
  pfNotice : Bool
  /-- FAB.PORT_ERR.FEC_CORR, units of 256 bytes | 32 bits | R92, 02_fabric | 0 -/
  fecCorr : BitVec 32
  /-- corrected bytes below the next unit of 256 | count | R92, 02_fabric | 0 -/
  fecRest : Nat
  /-- FAB.PORT_ERR.FEC_FAIL | 16 bits | R92, 02_fabric | 0 -/
  fecFail : BitVec 16
  /-- FAB.PORT_ERR.REPLAYS | 16 bits | R92, 02_fabric | 0 -/
  replays : BitVec 16
  /-- FAB.PORT_PEER.PEER_VALID | 1 bit | R92, 02_fabric | 0 -/
  peerValid : Bool
  /-- FAB.PORT_PEER.PEER_PORT | 3 bits | R92, 02_fabric | 0 -/
  peerPort : BitVec 3
  /-- FAB.PORT_PEER.PEER_ADDR | 16 bits | R92, 02_fabric | 0 -/
  peerAddr : Addr
  /-- identity of the peer | 64 bits | R76, 02_fabric | 0 (DESIGN CHOICE, log 3) -/
  peerId : Word
  /-- group of the peer, when it is set | option | R75, 02_fabric | none -/
  peerGroup : Option (BitVec 10)
  /-- endpoints declared by a host peer | 5 bits | R73, R95, 02_fabric | 0 (DESIGN CHOICE, log 3) -/
  endpoints : BitVec 5
  /-- stored equaliser settings | 1 bit | R48, 02_fabric | false -/
  equalised : Bool
  /-- next FRAME_NO to send | 16 bits | R60, 02_fabric | 0 (DESIGN CHOICE, log 3) -/
  txNo : BitVec 16
  /-- last FRAME_NO the peer acknowledged | 16 bits | R60, 02_fabric | 0xFFFF: none (DESIGN CHOICE, log 3) -/
  acked : BitVec 16
  /-- retry buffer, oldest first | list, at most 4,096 | R60, 02_fabric | empty -/
  retry : List TxFrame
  /-- numbers of the frames of the retry buffer to be sent again | list | R62, 02_fabric | empty -/
  resend : List (BitVec 16)
  /-- replays without progress in ACK_NO | count | R49, 02_fabric | 0 -/
  stalled : Nat
  /-- last FRAME_NO accepted | 16 bits | R61, 02_fabric | 0xFFFF: none (DESIGN CHOICE, log 3) -/
  rxLast : BitVec 16
  /-- NAK to be set in the next header | 1 bit | R61, 02_fabric | false -/
  nak : Bool
  /-- NAK already set for the present gap | 1 bit | R61, 02_fabric | false -/
  gap : Bool
  /-- transmit credits of VC0 to VC3 | counts | R58, 02_fabric | 0 -/
  credit : List Nat
  /-- receive buffers freed and not yet reported, VC0 to VC3 | counts | R58, 02_fabric | 0 -/
  freed : List Nat
  /-- receive buffers occupied, VC0 to VC3 | counts of frames | R57, R58, 02_fabric | 0 -/
  occupied : List Nat
  /-- scrambler registers of the transmit lanes 0 to 3 | 58 bits each | R46, 02_fabric | 0 (DESIGN CHOICE, log 3) -/
  scram : List (BitVec 58)
  /-- frames sent since the last ALIGN frame sent in place of one | 14 bits | R56, 02_fabric | 0 (DESIGN CHOICE, log 3) -/
  alignAt : BitVec 14
  /-- endpoint that the rotation of credit reports gives next | 4 bits | R73, 02_fabric | 0 (DESIGN CHOICE, log 3) -/
  trNext : BitVec 4
  /-- credit of each endpoint as a header last reported it | table | R73, 02_fabric | 0 (DESIGN CHOICE, log 3) -/
  trSent : Tab (BitVec 9)
  /-- frames that stand on the output in the present turn | list, at most 5 | R46, R51 to R56, 02_fabric | empty -/
  sent : List SentFrame
  /-- bytes of a block received in part, per VC | table of bytes | R59, 02_fabric | empty -/
  part : Tab (List Byte)
  /-- full trainings failed in the present 1 s | turns of failure | R49, 02_fabric | empty -/
  fails : List Nat
  /-- port takes part in routing | 1 bit | R50, 02_fabric | false -/
  routed : Bool
  /-- blocks in the egress queue, oldest first | list | R51, R102, 02_fabric | empty -/
  egress : List Block
  /-- bytes of a block begun and not yet framed, per VC | table of bytes | R59, 02_fabric | empty -/
  txRest : Tab (List Byte)
  /-- virtual channel served last of VC1 to VC3 | 2 bits | R59, 02_fabric | 3, so that VC1 is first (DESIGN CHOICE, log 3) -/
  lastVc : BitVec 2
  /-- PRBS31 register of the transmitter's IDLE payloads | 31 bits | R55, 02_fabric | all ones -/
  prbs : BitVec 31
  /-- lane FEC counts of the IDLE payloads | table by lane | R55, 02_fabric | empty -/
  laneErr : Tab Nat
  /-- consecutive lane tests above the limit | table by lane | R458, 13_health | empty -/
  laneBad : Tab Nat
deriving DecidableEq, Repr

/-- A transmit stream (R66 to R69). -/
structure TxStream where
  /-- next STREAM_SEQ | 16 bits | R66, 02_fabric | 0 -/
  next : BitVec 16
  /-- unacknowledged blocks, oldest first | list, at most 1,024 | R66, R67, 02_fabric | empty -/
  unacked : List Block
  /-- last STREAM_SEQ that each receiver of a broadcast stream has acknowledged, by address | table | R66, R70, 02_fabric | empty -/
  acks : Tab (BitVec 16)
  /-- turn in which a block was last sent or acknowledged | turn | R68, 02_fabric | 0 (DESIGN CHOICE, log 3) -/
  used : Nat
  /-- resends without progress | count | R67, 02_fabric | 0 -/
  resends : Nat
  /-- the next block carries OPEN | 1 bit | R67, R68, 02_fabric | true -/
  reopen : Bool
deriving DecidableEq, Repr

/-- A receive stream (R66, R68). -/
structure RxStream where
  /-- last block taken | 16 bits | R66, 02_fabric | 0xFFFF: none -/
  last : BitVec 16
  /-- BCRC of the block that opened it, by which a repeat of that block is known | 32 bits | R66, R68, 02_fabric | 0 -/
  opened : BitVec 32
  /-- turn in which a block was last taken | turn | R68, 02_fabric | 0 -/
  used : Nat
deriving DecidableEq, Repr

/-- A route entry (FAB.ROUTE_GRP, FAB.ROUTE_MBR). -/
structure Route where
  /-- DRIVER | 1 bit | R82, 02_fabric | 0 -/
  driver : Bool
  /-- HOPS | 4 bits | R81, 02_fabric | 0xF -/
  hops : BitVec 4
  /-- VALID | 1 bit | R80, 02_fabric | 0 -/
  valid : Bool
  /-- LOCAL | 1 bit | R80, 02_fabric | 0 -/
  isLocal : Bool
  /-- PORT | 3 bits | R80, 02_fabric | 0 -/
  port : BitVec 3
deriving DecidableEq, Repr

/-- A lease, as borrower or as lender (R86 to R88). -/
structure Lease where
  /-- identifier that the grant names (R86); the lenders number their leases, so two leases of one borrower may bear one number -/
  number : Nat
  peer : Word
  peerAddr : Addr
  gib : Nat
  recalled : Bool
  /-- TENSOR_WRITE blocks sent to it (borrower's side), by which an answer to a read is known to be older than a write -/
  writes : Nat
  /-- leased memory written by the borrower (lender's side), one entry per byte -/
  bytes : Tab Byte
deriving DecidableEq, Repr

/-- A LEASE_REQ without an answer (R161). -/
structure LeaseAsk where
  /-- the tensor to be placed in TN -/
  tensor : Nat
  gib : Nat
  /-- the module asked -/
  asked : Word
  /-- the modules not yet asked -/
  rest : List Word
deriving DecidableEq, Repr

/-- A held COLL_SCALE (R71). -/
structure HeldColl where
  src : Addr
  seq : BitVec 16
  body : List Byte
deriving DecidableEq, Repr

/-- State of chapter "Optical fabric". -/
structure Fabric where
  /-- ports 0 to 7 | table of Port | R48, 02_fabric | every port at reset -/
  ports : Tab Port
  /-- FAB.ADDR.ROOK | 1 bit | R77, 02_fabric | 0 -/
  rook : Bool
  /-- FAB.ADDR.ASSIGNED | 1 bit | R77, 02_fabric | 0 -/
  assigned : Bool
  /-- FAB.ADDR.GROUP_SET | 1 bit | R75, 02_fabric | 0 -/
  groupSet : Bool
  /-- FAB.ADDR.GROUP | 10 bits | R75, 02_fabric | 0 -/
  group : BitVec 10
  /-- FAB.ADDR.MEMBER | 6 bits | R77, 02_fabric | 0 -/
  member : BitVec 6
  /-- FAB.CTRL.PORT_DISABLE | 8 bits | R48, R91, 02_fabric | 0 -/
  portDisable : BitVec 8
  /-- FAB.CTRL.ROUTE_AUTO | 1 bit | R82, 02_fabric | 1 -/
  routeAuto : Bool
  /-- FAB.DISC.DISC_TIME | 32 bits | R79, 02_fabric | 0 -/
  discTime : BitVec 32
  /-- turn of the first port UP | turn, option | R79, 02_fabric | none -/
  firstUp : Option Nat
  /-- FAB.DISC.OVERRIDE_LOST | 8 bits | R82, 02_fabric | 0 -/
  overrideLost : BitVec 8
  /-- FAB.DISC.GROUP_SIZE | 7 bits | R77, 02_fabric | 0 -/
  groupSize : BitVec 7
  /-- FAB.DISC.CONFLICT | 1 bit | R78, 02_fabric | 0 -/
  conflict : Bool
  /-- FAB.DISC.DONE | 1 bit | R79, 02_fabric | 0 -/
  done : Bool
  /-- address of the group's rook, as elected | option | R77, 02_fabric | none -/
  rookAddr : Option Addr
  /-- link state: the newest LINK_STATE of each module, by identity | table | R76, 02_fabric | empty -/
  links : Tab LinkInfo
  /-- identity-to-member map of the assigner | table | R77, 02_fabric | empty -/
  members : Tab Nat
  /-- group route table | table of Route | R80, 02_fabric | every entry at reset -/
  grp : Tab Route
  /-- member route table | table of Route | R80, 02_fabric | every entry at reset -/
  mbr : Tab Route
  /-- staged route entries: (epoch, entry word) | list | R82, 02_fabric | empty -/
  staged : List (Word × Word)
  /-- FAB.LEASE_CTRL.BORROW_MAX | 9 bits | R86, 02_fabric | 0 -/
  borrowMax : BitVec 9
  /-- FAB.LEASE_CTRL.LEND_MAX | 9 bits | R86, 02_fabric | 0 -/
  lendMax : BitVec 9
  /-- leases held as borrower, by this module's own number for each | table | R86, 02_fabric | empty -/
  borrowed : Tab Lease
  /-- leases granted as lender, by lease identifier | table | R86, 02_fabric | empty -/
  lent : Tab Lease
  /-- next lease identifier to grant | count | R86, 02_fabric | 1 (DESIGN CHOICE, log 3) -/
  leaseNo : Nat
  /-- lease requests outstanding, oldest first | list | R161, 04_tensor_range | empty -/
  leaseAsks : List LeaseAsk
  /-- FAB.LEASE_STATUS.RECALL_LATE | 16 bits | R87, 02_fabric | 0 -/
  recallLate : BitVec 16
  /-- transmit streams by (destination, VC, scope) | list | R66, 02_fabric | empty -/
  tx : List (StreamKey × TxStream)
  /-- receive streams by (source, VC, scope) | list | R66, 02_fabric | empty -/
  rx : List (StreamKey × RxStream)
  /-- blocks that wait for their stream's window or for replay space, oldest first | list | R66, R69, 02_fabric | empty -/
  waiting : List Block
  /-- receive streams of the host on the active host port, by (destination, VC, scope) | list | R66, R74, 02_fabric | empty -/
  hostRx : List (StreamKey × RxStream)
  /-- FAB.STREAM_STATUS.BROKEN | 16 bits | R67, 02_fabric | 0 -/
  broken : BitVec 16
  /-- FAB.STREAM_STATUS.BCRC_ERR | 16 bits | R92, 02_fabric | 0 -/
  bcrcErr : BitVec 16
  /-- FAB.STREAM_STATUS.BAD_BLOCK | 16 bits | R65, 02_fabric | 0 -/
  badBlock : BitVec 16
  /-- control blocks dropped by a broken stream | list | R67, 02_fabric | empty -/
  droppedCtl : List Block
  /-- blocks taken from streams and passed up, oldest first | list | R66, 02_fabric | empty -/
  taken : List Block
  /-- blocks bound for the host while no host port is active, oldest first | list | R72, R74, 02_fabric | empty -/
  hostWait : List Block
  /-- COLL_SCALE blocks held | list, 4 per collective | R71, 02_fabric | empty -/
  scales : List HeldColl
  /-- COLL_DATA blocks that wait for their scale | list | R71, 02_fabric | empty -/
  waitData : List Block
  /-- contributions, results and lists of a collective that has not begun here | list | R258, R262, 07_operations | empty -/
  early : List Block
deriving DecidableEq, Repr

/-! ### Task registers and command flow -/

/-- Progress of a HELD command at the rook (R94, R101 to R106). -/
inductive Phase where
  | waiting | running | relayed (dst : Addr) | relayStarted (dst : Addr) | recordSent
deriving DecidableEq, Repr

/-- A HELD task register (R94). -/
structure Held where
  /-- the 128 bytes written | bytes | R96, 03_task_registers -/
  block : List Byte
  /-- the command they spell | record | R97, 03_task_registers -/
  cmd : Cmd
  /-- place in submission order | count | R101, 03_task_registers -/
  order : Nat
  /-- turn of acceptance | turn | R111, 03_task_registers -/
  turn : Nat
  phase : Phase
deriving DecidableEq, Repr

/-- Endpoint control state at the rook and the relay registers (chapter 03). -/
structure Endpoint where
  /-- HELD task registers, by register | table | R93, R94, 03_task_registers | empty: every register FREE -/
  held : Tab Held
  /-- TRF.EP_STATUS.EPOCH | 4 bits | R112, 03_task_registers | 0 -/
  epoch : BitVec 4
  /-- TRF.EP_STATUS.RESET_BUSY | 1 bit | R112, 03_task_registers | 0 -/
  resetBusy : Bool
  /-- TRF.EP_STATUS.ENDPOINT_VALID | 1 bit | R128, 03_task_registers | 0 -/
  valid : Bool
  /-- TRF.EP_STATUS.FREE, the last credit report | 9 bits | R73, R128, 03_task_registers | 0x100 -/
  credit : BitVec 9
  /-- TRF.EP_COUNT.ACCEPTED | 32 bits | R128, 03_task_registers | 0 -/
  accepted : BitVec 32
  /-- TRF.EP_COUNT.REFUSED | 32 bits | R73, R128, 03_task_registers | 0 -/
  refused : BitVec 32
  /-- TRF.EP_LAT.RESETS | 16 bits | R128, 03_task_registers | 0 -/
  resets : BitVec 16
  /-- TRF.EP_LAT.LAT_MAX | 32 bits | R128, 03_task_registers | 0 -/
  latMax : BitVec 32
  /-- TRF.RELAY_RESET.EPOCH | 4 bits | R113, 03_task_registers | 0 -/
  relayEpoch : BitVec 4
  /-- TRF.RELAY_RESET.ROOK | 16 bits | R113, 03_task_registers | 0 -/
  relayRook : Addr
  /-- TRF.RELAY_STATUS.RELAY_BUSY | 32 bits | R104, 03_task_registers | 0 -/
  relayBusy : BitVec 32
  /-- modules whose relay-reset answers are awaited | list | R114, 03_task_registers | empty -/
  awaited : List Addr
  /-- relay-reset reads not yet answered here: (requester, tag, host endpoint if a host asked) | list | R114, 03_task_registers | empty -/
  readsHeld : List (Addr × BitVec 32 × Option (BitVec 4))
deriving DecidableEq, Repr

/-- A host-buffer transfer in progress for a WRITE, FW_LOAD or other fetching command (R105). -/
structure Fetch where
  cmd : Cmd
  /-- pieces not yet asked for: (offset in the transfer, bytes) -/
  todo : List (Nat × Nat)
  /-- pieces asked for and not yet answered -/
  asked : List (Nat × Nat)
  /-- pieces received whose unit is in a motion's window (R151): (offset, data) -/
  blocked : List (Nat × List Byte)
  /-- first failure met while writing: (status, failing address) -/
  bad : Option (Byte × Word)
  /-- CONDITIONS so far -/
  conds : BitVec 16
  /-- units in which a piece failed -/
  badUnits : List Nat
  /-- bytes taken so far -/
  taken : Nat
deriving DecidableEq, Repr

/-- A completion record that must be sent again until acknowledged (R110). -/
structure Resend where
  rook : Addr
  ep : BitVec 4
  reg : BitVec 8
  record : List Byte
deriving DecidableEq, Repr

/-- State of chapter "Task registers and command flow". -/
structure Task where
  /-- endpoints 0 to 15 | table of Endpoint | R93, 03_task_registers | every endpoint at reset -/
  eps : Tab Endpoint
  /-- endpoint served last by the round-robin | count | R101, 03_task_registers | 15, so that 0 is first (DESIGN CHOICE, log 3) -/
  lastEp : Nat
  /-- next place in submission order | count | R101, 03_task_registers | 0 -/
  order : Nat
  /-- relayed commands held at this module | list, at most 4,096 | R104, 03_task_registers | empty -/
  relayed : List Cmd
  /-- commands started and not yet ended at this module | list | R103, 03_task_registers | empty -/
  running : List Cmd
  /-- transfers from host buffers | list | R105, 03_task_registers | empty -/
  fetches : List Fetch
  /-- completion records to send again | list | R110, 03_task_registers | empty -/
  resends : List Resend
  /-- commands of other rooks that have ended here and whose record is not yet acknowledged | list | R110, 03_task_registers | empty -/
  ended : List Cmd
  /-- command and job admission stopped | 1 bit | R34, R397, R423 | false -/
  stopped : Bool
deriving DecidableEq, Repr

/-! ### The tensor range and its tiers -/

/-- A 64-bit word with its 8 check bits as stored (R380). -/
structure MemWord where
  data : Word
  check : Byte
deriving DecidableEq, Repr

/-- Storage of a tensor's home or copy: words that differ from the fill, by word number, in rising order. Unlisted words hold
zero with good check bits when `zeroed`, and otherwise the unwritten marker of R381. -/
structure Store where
  /-- unlisted words read as zero | 1 bit | R143, R387, 11_integrity -/
  zeroed : Bool
  /-- listed words by word number | table of 72-bit words | R380, 11_integrity -/
  words : Tab MemWord
deriving DecidableEq, Repr

/-- A core set (R133). -/
inductive CoreSet where
  | one (core : BitVec 12)
  | squares (mask : BitVec 256)
deriving DecidableEq, Repr

/-- Where a tensor's home lies (R132 to R137). `t1` carries the starting stack of R134. -/
inductive Place where
  | none
  | t0 (cores : CoreSet)
  | t1 (start : BitVec 4)
  | tn (lease : BitVec 16) (off : Nat)
  | flash
deriving DecidableEq, Repr

/-- Tensor states of R141 other than FREE (a FREE number has no entry). -/
inductive TState where
  | live | building | damaged | lost
deriving DecidableEq, Repr

/-- Who asked for an operation that ends later: a command, a tensor descriptor of the running job (task and descriptor), a plan
prefetch at a flat position, or the module itself. -/
inductive Asker where
  | cmd (c : Cmd)
  | desc (task : BitVec 16) (desc : Nat)
  | prefetch (pos : Nat) (pin : Bool)
  | engine
deriving DecidableEq, Repr

/-- A motion of a tensor: move of a home or making of a copy (R150 to R157). -/
structure Motion where
  /-- destination -/
  dest : Place
  /-- the motion makes a sealed copy -/
  copying : Bool
  started : Bool
  /-- space at the destination is held -/
  holds : Bool
  /-- first unit not yet copied or in the window -/
  next : Nat
  /-- units in the window, ascending -/
  window : List Nat
  /-- destination storage -/
  store : Store
  /-- priority class 1 to 4 of R156 -/
  prio : Nat
  /-- order of request -/
  order : Nat
  /-- the request that it serves, by its order: evictions that make room for it name this -/
  req : Nat
  /-- an eviction's cause: the request, by its order, and the tensor to be placed -/
  cause : Option (Nat × Nat)
  /-- its completion is a touch: a command or a plan asked for it, even one that has been stopped since -/
  touches : Bool
  /-- who asked for it -/
  asker : Asker
  /-- PIN of the request -/
  pin : Bool
  /-- cores of the destination whose stores have been lost with their square (R196) -/
  lostCores : List Nat
deriving DecidableEq, Repr

/-- A tensor table entry (R131, R141). -/
structure Tensor where
  /-- CLASS | 1 bit | R136, 04_tensor_range -/
  isSealed : Bool
  /-- state | enum | R141, 04_tensor_range -/
  state : TState
  /-- size in bytes, or for BUILDING the maximum size | count | R131, 04_tensor_range -/
  size : Nat
  /-- appended length | count | R145, 04_tensor_range -/
  appended : Nat
  /-- home | place | R132, 04_tensor_range -/
  place : Place
  /-- contents of the home | words | R132, R380 -/
  store : Store
  /-- T1 copy and its starting stack | option | R137, 04_tensor_range -/
  copy1 : Option (BitVec 4 × Store)
  /-- T0 copy and its core set | option | R137, 04_tensor_range -/
  copy0 : Option (CoreSet × Store)
  /-- pin count | 16 bits | R162, 04_tensor_range -/
  pins : BitVec 16
  /-- namespace | 16 bits | R137, 04_tensor_range -/
  ns : BitVec 16
  /-- turn of the last touch | turn | R158, 04_tensor_range -/
  touched : Nat
  /-- damaged units | list | R167, 04_tensor_range -/
  damaged : List Nat
  /-- motion in progress or waiting | option | R150, 04_tensor_range -/
  motion : Option Motion
  /-- chunks held in flash, in order | list | R349, 10_flash -/
  chunks : List Nat
  /-- SEQ value assigned at creation | 64 bits | R357, 10_flash -/
  created : Word
  /-- cores of the home whose stores have been lost with their square; the tensor holds nothing there any more | list | R196, R197, 05_compute -/
  lostCores : List Nat
deriving DecidableEq, Repr

/-- A request for space in a tier (R143, R154, R288). -/
inductive SpaceAsk where
  | create (size tier : Nat) (zero pin : Bool) (cores : CoreSet)
  | move (tier : Nat) (pin : Bool) (cores : CoreSet)
  | seal (ns : Nat)
  | append (source : Nat)
  | leave (prio : Nat)
  | entry
  | scratch (job : BitVec 32)
deriving DecidableEq, Repr

/-- A request that waits: for space under R160, for a grant under R161, or for a motion of its tensor to end (R154). -/
structure SpaceWait where
  /-- who waits | enum | R143, R154, 04_tensor_range -/
  asker : Asker
  /-- the tensor | 24 bits | R143, 04_tensor_range -/
  tensor : TNum
  /-- what it waits for | enum | R143, R154, R157, 04_tensor_range -/
  ask : SpaceAsk
  /-- order of the request, taken at its dispatch | count | R156, 04_tensor_range -/
  order : Nat
  /-- tensors for which no grant came, so that its selections skip them | list | R161, 04_tensor_range -/
  skipped : List TNum
  /-- it is to be tried again | 1 bit | R160, 04_tensor_range -/
  due : Bool
deriving DecidableEq, Repr

/-- State of chapter "The tensor range and its tiers". -/
structure Range where
  /-- tensor table, by tensor number | table of Tensor | R131, 04_tensor_range | empty: every number FREE -/
  tensors : Tab Tensor
  /-- T0 and T1 capacity given after the start stages | 2 bits | R168, 04_tensor_range | false: CAPACITY 0 -/
  t0Ready : Bool
  /-- T1 capacity given | 1 bit | R168, 04_tensor_range | false: CAPACITY 0 -/
  t1Ready : Bool
  /-- next order of request of a motion | count | R156, 04_tensor_range | 0 -/
  order : Nat
  /-- requests that wait, oldest first | list | R154, R160, R161, 04_tensor_range | empty -/
  waits : List SpaceWait
  /-- numbers of deleted sealed tensors that are not FREE until a flush carries the deletion, each with its journal sequence number | list | R144, 04_tensor_range | empty -/
  deleting : List (Nat × TNum)
  /-- MEM.MIG_COUNT.SEALS | 24 bits | R168, 04_tensor_range | 0 -/
  seals : BitVec 24
  /-- MEM.MIG_COUNT.UNITS | 40 bits | R168, 04_tensor_range | 0 -/
  units : BitVec 40
  /-- MEM.EVICT.FULL | 16 bits | R168, 04_tensor_range | 0 -/
  full : BitVec 16
  /-- MEM.EVICT.DEMOTED | 24 bits | R168, 04_tensor_range | 0 -/
  demoted : BitVec 24
  /-- MEM.EVICT.DROPPED | 24 bits | R168, 04_tensor_range | 0 -/
  dropped : BitVec 24
  /-- MEM.STALL.PREFETCH_LOST | 16 bits | R165, 04_tensor_range | 0 -/
  prefetchLost : BitVec 16
  /-- MEM.STALL.TURNS | 48 bits | R165, 04_tensor_range | 0 -/
  stallTurns : BitVec 48
deriving DecidableEq, Repr

/-! ### Engines, cores and the pip -/

/-- An accumulator of a cell, with the residue modulo 3 that the cell computes beside it (chapter 05, "The cell"). -/
structure Acc where
  /-- the sum | 40 bits | R170, 05_compute -/
  value : BitVec 40
  /-- its residue modulo 3 | 2 bits | R170, 05_compute -/
  residue : BitVec 2
deriving DecidableEq, Repr

/-- One half of an engine: 32 cells, 8 rows of 4 columns, each list row by row (R169, R177, R179, R182). -/
structure Half where
  /-- the task and descriptor that hold it; in full mode both halves of an engine name the same | option | R182, R189, 05_compute -/
  holder : Option (Nat × Nat)
  /-- activation registers of the cells | 32 of 16 bits | chapter 05, "The cell" -/
  acts : List (BitVec 16)
  /-- active accumulators | 32 of 40 + 2 bits | R170, R179, 05_compute -/
  active : List Acc
  /-- shadow accumulators | 32 of 40 + 2 bits | R179, 05_compute -/
  shadow : List Acc
  /-- query registers of the rows, by 16-bit slices | 8 of 1,024 bits | R177, 05_compute -/
  query : List (List (BitVec 16))
  /-- consecutive admitted cycles without a valid slot, up to 2,000 | count | R184, 05_compute -/
  idle : Nat
deriving DecidableEq, Repr

/-- An engine (R169, R177, R182). -/
structure Engine where
  /-- split mode | 1 bit | R182, 05_compute -/
  split : Bool
  left : Half
  right : Half
deriving DecidableEq, Repr

/-- A drain register Dn of the vector unit (R179, R188). -/
structure Drain where
  /-- its lanes: 0 to 31 from the left half, 32 to 63 from the right | 64 of 40 bits | R179, 05_compute -/
  lanes : List (BitVec 40)
  /-- lanes 0 to 31 are not free | 1 bit | R179, R182, 05_compute -/
  leftBusy : Bool
  /-- lanes 32 to 63 are not free | 1 bit | R179, R182, 05_compute -/
  rightBusy : Bool
deriving DecidableEq, Repr

/-- One core's registers, engines and store remap table (R169, R194, R391). -/
structure Core where
  /-- CORE.STATUS.HALF_OUT | 16 bits | R200, 05_compute | 0 -/
  halfOut : BitVec 16
  /-- CORE.STATUS.PERMANENT | 1 bit | R197, 05_compute | 0 -/
  permanent : Bool
  /-- CORE.STATUS.SQUARE_OUT | 1 bit | R194, 05_compute | 0 -/
  squareOut : Bool
  /-- CORE.STATUS.CORE_OUT | 1 bit | R194, 05_compute | 0 -/
  coreOut : Bool
  /-- CORE.FAULT.LAST_ENGINE | 3 bits | R200, 05_compute | 0 -/
  lastEngine : BitVec 3
  /-- CORE.FAULT.LAST_HALF | 1 bit | R200, 05_compute | 0 -/
  lastHalf : Bool
  /-- CORE.FAULT bits [7:1] | 8 bits | R194, R200, 05_compute | 0 -/
  fault : BitVec 8
  /-- CORE.VALID_PIPS | 64 bits | R200, 05_compute | 0 -/
  validPips : BitVec 64
  /-- CORE.DUMMY_PIPS | 64 bits | R184, 05_compute | 0 -/
  dummyPips : BitVec 64
  /-- CORE.BUBBLE_PIPS | 64 bits | R184, 05_compute | 0 -/
  bubblePips : BitVec 64
  /-- CORE.CAP_HELD | 64 bits | R27, 05_compute | 0 -/
  capHeld : BitVec 64
  /-- half-engines whose clock is gated after 2,000 idle cycles | 16 bits | R184, 05_compute | 0 -/
  clockOff : BitVec 16
  /-- the eight engines | table of Engine | R169, R177, R182, 05_compute | full mode, no tile, every register zero (DESIGN CHOICE, log 3) -/
  engines : Tab Engine
  /-- drain registers D0 to D7 | table of Drain | R179, R188, 05_compute | zero (DESIGN CHOICE, log 3) and free -/
  drains : Tab Drain
  /-- vector registers V0 to V31, 256 bytes each, one after the other | 32 of 2,048 bits | R188, 05_compute | zero (DESIGN CHOICE, log 3) -/
  vregs : List Byte
  /-- descriptors in the sequencer's queue: (task, descriptor) | list of at most 64 | R189, 05_compute | empty -/
  queue : List (Nat × Nat)
  /-- a retest asked for and not yet run | 1 bit | R193, R197, 05_compute | false -/
  retest : Bool
  /-- CORE.ECC.CORRECTED | 32 bits | R384, 11_integrity | 0 -/
  eccCorr : BitVec 32
  /-- CORE.ECC.UNCORR | 16 bits | R385, 11_integrity | 0 -/
  eccUncorr : BitVec 16
  /-- remapped words of the core store | list, at most 8 | R391, 11_integrity | empty -/
  remap : List Nat
  /-- removal as a core domain due when the job ends (R393) | 1 bit | R393, 11_integrity | false -/
  removalDue : Bool
deriving DecidableEq, Repr

/-! ### Plans, jobs and serving contexts -/

/-- A slot entry (R275). -/
structure Slot where
  sizeMin : Nat
  cls : Byte
  access : Byte
  resident : Byte
  flags : Byte
  stride : Nat
deriving DecidableEq, Repr

/-- A task entry (R277). -/
structure TaskEntry where
  firstDesc : Nat
  descCount : Nat
  firstAccess : Nat
  accessCount : Nat
deriving DecidableEq, Repr

/-- An access entry (R277). -/
structure Access where
  slot : Nat
  mode : Byte
  off : Nat
  len : Nat
deriving DecidableEq, Repr

/-- A prefetch entry (R299). -/
structure Prefetch where
  task : Nat
  slot : Nat
  tier : Byte
  pin : Bool
deriving DecidableEq, Repr

/-- A collective entry (R282). -/
structure CollEntry where
  id : BitVec 32
  rankSlot : Nat
  ranks : Nat
  histBase : BitVec 32
deriving DecidableEq, Repr

/-- A plan as read at admission (R272, R273). -/
structure Plan where
  numRev : Nat
  service : Byte
  serving : Bool
  rowIndep : Bool
  tasksPerCore : Nat
  scratch : Nat
  stepTasks : Nat
  histRows : Nat
  maxCtx : Nat
  prefillRows : Nat
  maxPos : Nat
  maxRows : Nat
  slots : List Slot
  tasks : List TaskEntry
  access : List Access
  descs : List Desc
  prefetch : List Prefetch
  colls : List CollEntry
  params : List Byte
deriving DecidableEq, Repr

/-- Progress of a task in the current step (R278, R289, R291). -/
inductive TaskPhase where
  | waiting | ready | placed (core : BitVec 12) | done
deriving DecidableEq, Repr

/-- A task of the current step. -/
structure TaskRun where
  /-- where the task stands | enum | R278, R289, 08_plans -/
  phase : TaskPhase
  /-- first descriptor that has not been in the sequencer's queue | count | R189, 05_compute -/
  queued : Nat
  /-- descriptors issued, by index in the task | list | R189, 05_compute -/
  issued : List Nat
  /-- descriptors completed | list | R173, 05_compute -/
  done : List Nat
  /-- descriptors whose operation has been carried out | list | R189, 05_compute -/
  ran : List Nat
  /-- descriptors whose operation has begun and not ended: tensor descriptors and collectives | list | R281, R294, 08_plans -/
  waits : List Nat
  /-- descriptors charged in this or an earlier attempt | list | R292, 08_plans -/
  charged : List Nat
  /-- scratch area | words | R289, 08_plans -/
  scratch : Store
  /-- times re-placed in this job | count | R292, 08_plans -/
  replaced : Nat
  /-- a condition ended the task | 1 bit | R291, 08_plans -/
  failed : Bool
  /-- turn in which that happened, and the halves that the task held then | option | R441, 13_health -/
  stopped : Option (Nat × List Nat)
deriving DecidableEq, Repr

/-- A serving context (R300 to R304), or one opened by a search command (R317). -/
structure Ctx where
  cmd : Cmd
  /-- prompt tokens | list | R300, 08_plans -/
  prompt : List (BitVec 32)
  maxNew : Nat
  stop : BitVec 32
  /-- tokens emitted, oldest first | list | R303, 08_plans -/
  emitted : List (BitVec 32)
  /-- next position in the sequence | count | R302, 08_plans -/
  pos : Nat
  /-- it ends at the end of the present step, with this status | option | R303, 08_plans -/
  ending : Option Byte
  /-- opened by a search-family command | 1 bit | R317, 09_search -/
  search : Bool
  /-- turn of dispatch | turn | R301, 08_plans -/
  turn : Nat
  /-- CONDITIONS of the context so far | 16 bits | R291, 08_plans -/
  conds : BitVec 16
  /-- CTX_CLOSE commands that wait for it | list | R304, 08_plans -/
  closers : List Cmd
  /-- core of the walker task of a search context, once placed | option of 12 bits | R317, 09_search -/
  core : Option (BitVec 12)
  /-- times that the walker task was placed again after a fault | count | R292, R317, 09_search -/
  replaced : Nat
deriving DecidableEq, Repr

/-- A row of the present serving step (R301, R302). -/
structure Row where
  token : BitVec 32
  ctx : Nat
  pos : Nat
  emit : Bool
deriving DecidableEq, Repr

/-- A collective that the job runs (R258 to R263). An ALLGATHER counts as one row for each rank's slice. -/
structure Coll where
  id : BitVec 32
  /-- task, descriptor in it, and the descriptor itself -/
  task : Nat
  index : Nat
  desc : Desc
  /-- rank count and this module's rank -/
  ranks : Nat
  me : Nat
  rankAddrs : List Addr
  rows : Nat
  rowLen : Nat
  /-- contributions held by the owner of their block: key rank x 2^40 + element, binary32 value -/
  parts : Tab (BitVec 32)
  /-- result elements held, by output element -/
  result : Tab (BitVec 32)
  /-- bytes of the selection lists received, by rank -/
  lists : Tab (List Byte)
  /-- this rank's own slice of an ALLGATHER, in decoded values for L8, by output element -/
  own : Tab (BitVec 32)
  /-- blocks to which a saturated contribution was made -/
  satBlocks : List Nat
  /-- this rank raises SCALE_SATURATED -/
  satur : Bool
  /-- COLL_SCALE blocks sent, with their STREAM_SEQ and the COLL_DATA blocks that refer to them (R71) -/
  sent : List (BitVec 16 × Block × List Block)
deriving DecidableEq, Repr

/-- Why a job stops (R295). -/
inductive StopCause where
  | budget | condition | flushed | fabricReset
deriving DecidableEq, Repr

/-- A job that waits for admission (R284). -/
structure WaitJob where
  no : BitVec 32
  cmd : Cmd
  service : Byte
deriving DecidableEq, Repr

/-- The job that holds the compute complex (R270, R287 to R296). -/
structure Job where
  no : BitVec 32
  cmd : Cmd
  plan : Plan
  /-- bound tensor-range addresses | list | R276, 08_plans -/
  binds : List Word
  seed : Word
  startStep : Nat
  steps : Nat
  budget : Nat
  pfDist : Nat
  /-- current step | count | R290, 08_plans -/
  step : Nat
  stepsDone : Nat
  pips : Nat
  stall : Nat
  retries : BitVec 16
  /-- CONDITIONS gathered | 16 bits | R108, R291 -/
  conds : BitVec 16
  /-- first failing address of a data error | 64 bits | R470 -/
  errAddr : Word
  /-- a malformed SC16 code, or an operand in a FREE number, was met | 1 bit | R141, R204, 06_numerics -/
  malformed : Bool
  /-- an operand in a BUILDING tensor was read | 1 bit | R141, 04_tensor_range -/
  busyRead : Bool
  /-- task whose condition ended the job | 32 bits | R285, 08_plans -/
  faultTask : BitVec 32
  tasks : Tab TaskRun
  /-- expiry descriptor of the step (task, descriptor) | option | R293, 08_plans -/
  expiry : Option (Nat × Nat)
  stopping : Option StopCause
  /-- JOB_END asked for the end of the current step | list of commands | R296, 08_plans -/
  enders : List Cmd
  /-- largest finite magnitude of each history row sent in this step, binary32 | table | R221, 06_numerics -/
  hist : Tab (BitVec 32)
  /-- RESIDENT and prefetch pins held: tensor numbers | list | R288, R299 -/
  pins : List TNum
  /-- prefetch pins: (flat position, tensor) | list | R299, 08_plans -/
  pfPins : List (Nat × TNum)
  /-- contexts waiting, in dispatch order | list | R301, 08_plans -/
  waiting : List Ctx
  /-- active contexts by number | table | R301, 08_plans -/
  ctxs : Tab Ctx
  /-- context last given a row, 1,024 before the first | count | R301, 08_plans -/
  lastRow : Nat
  /-- rows of the current step | list | R301, 08_plans -/
  rows : List Row
  /-- a step is in progress | 1 bit | R290, R301, 08_plans -/
  inStep : Bool
  colls : List Coll
  /-- paused by gated cores | 1 bit | R40, 01_module -/
  paused : Bool
  /-- set up to its CREATE numbers and waiting for the scratch reservation | 1 bit | R288, 08_plans -/
  admitting : Bool
  /-- SERVICE of the plan | 8 bits | R272, 08_plans -/
  service : Byte
deriving DecidableEq, Repr

/-- State of chapters "Number formats" (registers), "Operation catalogue" (registers) and "Plans, jobs and serving contexts". -/
structure Jobs where
  /-- jobs waiting, oldest first | list, at most 64 | R284, 08_plans | empty -/
  queue : List WaitJob
  /-- the job that holds the complex | option | R287, 08_plans | none -/
  job : Option Job
  /-- next job number | 32 bits | R284, 08_plans | 1 -/
  nextNo : BitVec 32
  /-- every job number has been given since reset | 1 bit | R284, 08_plans | false -/
  wrapped : Bool
  /-- GLB.JOB_STATUS.JOB_NO of the last job to end | 32 bits | R308, 08_plans | 0 -/
  lastNo : BitVec 32
  /-- GLB.JOB_STEP.STEP of the last job | 32 bits | R308, 08_plans | 0 -/
  lastStep : BitVec 32
  /-- GLB.JOB_STEP.STEPS_DONE of the last job | 32 bits | R308, 08_plans | 0 -/
  lastDone : BitVec 32
  /-- GLB.JOB_PIPS of the last job | 64 bits | R308, 08_plans | 0 -/
  lastPips : BitVec 64
  /-- GLB.JOB_BUDGET of the last job | 64 bits | R308, 08_plans | 0 -/
  lastBudget : BitVec 64
  /-- GLB.JOB_STALL of the last job | 64 bits | R308, 08_plans | 0 -/
  lastStall : BitVec 64
  /-- GLB.SVC_CTRL: TUNE_OFF, EMBED_OFF, SEARCH_OFF | 3 bits | R307, 08_plans | 0 -/
  svcOff : BitVec 3
  /-- GLB.JOB_COUNT.FAULT_RETRIES | 16 bits | R308, 08_plans | 0 -/
  faultRetries : BitVec 16
  /-- GLB.JOB_COUNT.BUDGET_OVER | 16 bits | R308, 08_plans | 0 -/
  budgetOver : BitVec 16
  /-- GLB.JOB_COUNT.JOBS_ENDED | 32 bits | R308, 08_plans | 0 -/
  jobsEnded : BitVec 32
  /-- GLB.NUM_COUNT.NONFINITE | 16 bits | R227, 06_numerics | 0 -/
  nonfinite : BitVec 16
  /-- GLB.NUM_COUNT.SATURATED | 16 bits | R227, 06_numerics | 0 -/
  saturated : BitVec 16
  /-- GLB.NUM_COUNT.RECOMPUTE | 32 bits | R227, 06_numerics | 0 -/
  recompute : BitVec 32
  /-- GLB.ROLL_SEED | 64 bits | R216, 06_numerics | 0 -/
  rollSeed : BitVec 64
  /-- GLB.ROLL_KEY | 64 bits: SITE, STEP | R216, 06_numerics | 0 -/
  rollKey : BitVec 64
  /-- GLB.ROLL_ELEM.ELEM | 40 bits | R216, 06_numerics | 0 -/
  rollElem : BitVec 40
  /-- GLB.ROLL_NODE.NODE | 32 bits | R216, 06_numerics | 0 -/
  rollNode : BitVec 32
  /-- GLB.ROLL_OUT.VALID | 1 bit | R216, 06_numerics | 0 -/
  rollValid : Bool
  /-- GLB.ROLL_OUT.ROLL | 24 bits | R216, 06_numerics | 0 -/
  rollOut : BitVec 24
  /-- a roll key register was written and GLB.ROLL_OUT is not yet updated | flag | the register table of 06_numerics (GLB.ROLL_OUT) | clear -/
  rollDue : Bool
  /-- GLB.OP_COUNT.NAN_SCORE | 16 bits | R270, 07_operations | 0 -/
  nanScore : BitVec 16
  /-- GLB.OP_COUNT.FILTER_TRUNC | 16 bits | R270, 07_operations | 0 -/
  filterTrunc : BitVec 16
  /-- GLB.OP_COUNT.INDEX_RANGE | 32 bits | R270, 07_operations | 0 -/
  indexRange : BitVec 32
deriving DecidableEq, Repr

/-! ### Vector search and filters -/

/-- A side segment of an index (R329 to R332). -/
structure Segment where
  ordinal : Nat
  tensor : TNum
  tomb : Bool
  rows : Nat
deriving DecidableEq, Repr

/-- A merge that runs (R333). -/
structure Merge where
  cmd : Cmd
  /-- highest ordinal folded -/
  upTo : Nat
  newRoot : TNum
  newFirst : TNum
  /-- tensor numbers held from NEW_FIRST on -/
  pieces : Nat
  count : Nat
deriving DecidableEq, Repr

/-- A segment being written (R329, R330). -/
structure SegWrite where
  cmd : Cmd
  segment : TNum
  rows : Nat
  batch : TNum
  tomb : Bool
  /-- object numbers of its records -/
  objects : List Nat
deriving DecidableEq, Repr

/-- A registered index (R309). -/
structure Index where
  root : TNum
  /-- tensors of the components (R311) -/
  parts : List TNum
  version : Nat
  segments : List Segment
  nextOrd : Nat
  merge : Option Merge
  /-- highest ordinal that holds each object number of a segment (R332) -/
  objects : Tab Nat
  /-- tensors of superseded bases and folded segments kept for searches on old snapshots (R336) -/
  old : List TNum
deriving DecidableEq, Repr

/-- A sharded search led by this module (R337 to R340). -/
structure Shard where
  coll : BitVec 32
  cmd : Cmd
  k : Nat
  rowlen : Nat
  kind : Byte
  /-- members that have not answered -/
  waiting : List Addr
  /-- members whose COMPLETION has come, with the shards they answered for -/
  heard : List (Addr × Nat)
  /-- list bytes received, by member address -/
  lists : Tab (List Byte)
  own : List Byte
  /-- this module's own search has ended, and `own` holds its list -/
  walked : Bool
  answered : Nat
  isPartial : Bool
  omitted : Bool
  failed : List Byte
  pips : Nat
  /-- RESULT bytes of this module's own search -/
  result : List Byte
  conds : BitVec 16
deriving DecidableEq, Repr

/-- State of chapter "Vector search and filters". -/
structure Search where
  /-- index registry, by identifier 1 to 1,023 | table of Index | R309, 09_search | empty (log 7) -/
  registry : Tab Index
  /-- index registry at the end of the previous turn | table of Index | R318, 09_search | empty -/
  prior : Tab Index
  /-- search commands dispatched here that have not ended, with their snapshots: (command, index) | list | R318, 09_search | empty -/
  seen : List (Cmd × Option Index)
  /-- segments being written, in dispatch order | list | R329, 09_search | empty -/
  writing : List SegWrite
  /-- sharded searches led here | list | R337, 09_search | empty -/
  shards : List Shard
  /-- sub-searches being received: (source, bytes) | list | R338, 09_search | empty -/
  subs : List (Addr × List Byte)
  /-- sub-searches taken: (command, leader, query and terms) | list | R338, 09_search | empty -/
  leaders : List (Cmd × Addr × List Byte)
  /-- commands that wait for a context or have one: (command, snapshot, query, terms and shard table) | list | R317, R318, 09_search | empty -/
  snaps : List (Cmd × Index × List Byte)
  /-- GLB.SRCH_COUNT.SEARCHES | 24 bits | R343, 09_search | 0 -/
  searches : BitVec 24
  /-- GLB.SRCH_COUNT.SHORT | 24 bits | R343, 09_search | 0 -/
  shorts : BitVec 24
  /-- GLB.SRCH_COUNT.SHARD_FAIL | 16 bits | R343, 09_search | 0 -/
  shardFail : BitVec 16
  /-- GLB.SRCH_CMP | 64 bits | R343, 09_search | 0 -/
  cmp : BitVec 64
  /-- GLB.SRCH_RERANK | 64 bits | R343, 09_search | 0 -/
  rerank : BitVec 64
deriving DecidableEq, Repr

/-! ### Flash media and translation -/

/-- Block states of R356. -/
inductive BState where
  | free | opened | full | source | erasePending | erasing | retired | reserved
deriving DecidableEq, Repr

/-- A flash block (R344, R355, R356). -/
structure FBlock where
  /-- block state | enum | R356, 10_flash | FREE (log 7) -/
  state : BState
  /-- SLC mode | 1 bit | R345, 10_flash | false (log 7) -/
  slc : Bool
  /-- next page to program | count | R345, 10_flash | 0 (log 7) -/
  wptr : Nat
  /-- wear units | count | R355, 10_flash | 0 (log 7) -/
  wear : Nat
  /-- reads since the last erase | count | R371, 10_flash | 0 (log 7) -/
  reads : Nat
  /-- retire at the next erase | 1 bit | R373, 10_flash | false (log 7) -/
  retireDue : Bool
  /-- scheduled for refresh | 1 bit | R370, 10_flash | false (log 7) -/
  refresh : Bool
deriving DecidableEq, Repr

/-- A map entry (R350). -/
structure MapEntry where
  slc : Bool
  damaged : Bool
  block : Nat
  page : Nat
  /-- SEQ of the page (R357), by which folding takes units -/
  seq : Nat
  /-- powered seconds of the module's life at its program (R373) -/
  secs : Nat
deriving DecidableEq, Repr

/-- The tag of a programmed page (R357). `length` and `live` count where `commit` is set. -/
structure PageTag where
  seq : Nat
  unit : Nat
  kind : Byte
  commit : Bool
  tensor : TNum
  /-- unit offset in the tensor -/
  offset : Nat
  /-- seal data: SEQ of the first page of the command -/
  cmd : Nat
  length : Nat
  ns : BitVec 16
  live : Bool
  created : Word
deriving DecidableEq, Repr

/-- A page program in flight, with its tag (R357, R358). -/
structure Program where
  die : Nat
  block : Nat
  page : Nat
  slc : Bool
  tag : PageTag
deriving DecidableEq, Repr

/-- Journal record types of R362. -/
inductive JRec where
  /-- a unit's new entry, with the CMD of its command for seal data -/
  | map (unit : Nat) (entry : Option MapEntry) (cmd : Nat)
  | commit (tensor : TNum) (length : Nat) (state : TState)
  | free (chunks : List Nat)
  | block (die block : Nat) (state : BState) (wear : Nat)
  | tensor (tensor : TNum)
  | registry (index : Nat)
  | ns (ns : Nat) (created : Bool)
  | pointer (die block wptr : Nat)
  | reserve (die : Nat) (blocks : List Nat)
deriving DecidableEq, Repr

/-- A die's operation and queue (R367, R368). -/
structure Die where
  /-- out of service | 1 bit | R347, 10_flash | false -/
  out : Bool
  /-- a program or erase runs | 1 bit | R368, 10_flash | false -/
  busy : Bool
  /-- it is suspended | 1 bit | R367, 10_flash | false -/
  suspended : Bool
  /-- inside the 200 us window after a resume | 1 bit | R367, 10_flash | false -/
  window : Bool
  /-- foreground reads queued at the die | count | R368, 10_flash | 0 -/
  queued : Nat
  /-- reads served in the present suspension | count | R368, 10_flash | 0 -/
  served : Nat
  /-- an erase waits to start: its block | option | R368, 10_flash | none -/
  eraseWaits : Option Nat
  /-- blocks retired since shipment, which CHN.FAIL.RETIRED and MAP.WEAR.RETIRED sum | count | R373, R379, 10_flash | 0 (log 7) -/
  retired : Nat
deriving DecidableEq, Repr

/-- A TENSOR_SEAL, SEAL_APPEND or segment write in progress (R145 to R147, R352). -/
structure Seal where
  asker : Asker
  target : TNum
  source : TNum
  /-- first byte not yet written -/
  done : Nat
  total : Nat
  /-- chunks taken before the first step -/
  chunks : List Nat
  /-- a step has started -/
  started : Bool
  /-- the COMMIT page is programmed -/
  committed : Bool
  /-- asked to stop at the next step boundary with this status -/
  stop : Option Byte
  /-- namespace -/
  ns : BitVec 16
  /-- SEQ of the first page of the command (R357) -/
  first : Nat
  /-- units of the command already programmed, with the map entries that its COMMIT makes current (R358) -/
  placed : List (Nat × MapEntry)
  /-- bytes of a segment or component that the module writes itself; none where the source tensor holds them (R329, R333) -/
  content : Option (List Byte)
deriving DecidableEq, Repr

/-- Map state that survives a loss of power once flushed (R361, R362, R365): the map, the block table, the sealed tensors' table
entries, the index registry and the namespaces. -/
structure FlashImage where
  /-- outputs of index writes and merges that had not completed (R336, R341) -/
  writing : List TNum
  /-- seals without their COMMIT, with the units that MAP records name for them (R358, R362) -/
  seals : List Seal
  map : Tab MapEntry
  blocks : Tab FBlock
  tensors : Tab Tensor
  registry : Tab Index
  spaces : List Nat
  freeSeq : Tab Nat
  /-- POINTER records: open blocks with their first page not yet programmed (die, block, page) -/
  pointers : List (Nat × Nat × Nat)
  /-- RESERVE records: the next 8 free blocks of each die -/
  reserves : List (Nat × List Nat)
deriving DecidableEq, Repr

/-- A channel's registers. -/
structure Chan where
  /-- CHN.STATUS.STATE | 4 bits | R379, 10_flash | 0 -/
  state : BitVec 4
  /-- CHN.READS | 64 bits | R379, 10_flash | 0 -/
  reads : BitVec 64
  /-- CHN.RETRY.RETRY_READS | 32 bits | R370, 10_flash | 0 -/
  retry : BitVec 32
  /-- CHN.RETRY.SOFT_READS | 16 bits | R370, 10_flash | 0 -/
  soft : BitVec 16
  /-- CHN.RETRY.UNCORR | 16 bits | R370, 10_flash | 0 -/
  uncorr : BitVec 16
  /-- CHN.FAIL.PROG_FAIL | 16 bits | R379, 10_flash | 0 -/
  progFail : BitVec 16
  /-- CHN.FAIL.ERASE_FAIL | 16 bits | R379, 10_flash | 0 -/
  eraseFail : BitVec 16
  /-- retraining asked for by a failed test | 1 bit | R458, 13_health | false -/
  retrain : Bool
deriving DecidableEq, Repr

/-- State of chapter "Flash media and translation". -/
structure Flash where
  /-- MAP.STATUS.RO_CAUSE | 8 bits | R375, 10_flash | 0x01 -/
  roCause : BitVec 8
  /-- MAP.STATUS.LOCKSTEP_ERR | 1 bit | R351, 10_flash | 0 -/
  lockErr : Bool
  /-- MAP.STATUS.STATE: not started, rebuilding or running | 2 bits | R379, 10_flash | 0 -/
  mapState : BitVec 2
  /-- MAP.STATUS.CLEAN | 1 bit | R366, 10_flash | 0 -/
  clean : Bool
  /-- the final flush of the last power loss was complete | 1 bit | R366, 10_flash | false (DESIGN CHOICE, log 7) -/
  finalFlush : Bool
  /-- TOTAL_CHUNKS and FREE_CHUNKS given after start-up | 1 bit | R379, 10_flash | false: both read 0 -/
  ready : Bool
  /-- chunks held or awaiting the flush that frees them | list | R349, 10_flash | empty (log 7) -/
  freeing : List Nat
  /-- rotating chunk pointer | count | R349, 10_flash | 0 (DESIGN CHOICE, log 7) -/
  chunkPtr : Nat
  /-- map entries of mapped units, by logical unit | table | R350, 10_flash | empty (log 7) -/
  map : Tab MapEntry
  /-- owner of a mapped unit: tensor number x 2^32 + unit offset | table | R357, 10_flash | empty (log 7) -/
  owner : Tab Nat
  /-- blocks that differ from an erased FREE block, key die x 16,384 + block | table | R356, 10_flash | empty (log 7) -/
  blocks : Tab FBlock
  /-- dies that differ from an idle die in service | table | R347, 10_flash | empty -/
  dies : Tab Die
  /-- channels 0 to 63 | table of Chan | R379, 10_flash | every channel at reset -/
  chans : Tab Chan
  /-- the 64-bit sequence counter | 64 bits | R357, 10_flash | 0 (DESIGN CHOICE, log 7) -/
  seq : Nat
  /-- journal records made and not yet in a flush, oldest first: (SEQ, record) | list | R362, 10_flash | empty -/
  journal : List (Nat × JRec)
  /-- the flush in progress: its records, and the map state that they bring to | option | R362, 10_flash | none -/
  flushing : Option (List (Nat × JRec) × FlashImage)
  /-- a flush asked for while one runs | 1 bit | R362, 10_flash | false -/
  flushAsked : Bool
  /-- map state as the map pages and the complete flushes hold it | image | R361, R362, R365, 10_flash | empty (log 7) -/
  image : FlashImage
  /-- contents of programmed data pages by logical unit: 16,384 bytes of ciphertext | table | R348, R360, 10_flash | empty (log 7) -/
  data : Tab (List Byte)
  /-- SEQ of the last FREE record of a unit | table | R362, R365, 10_flash | empty -/
  freeSeq : Tab Nat
  /-- MAP.JOURNAL_SEQ | 64 bits | R379, 10_flash | 0 -/
  journalSeq : BitVec 64
  /-- MAP.JOURNAL.FLUSHES | 32 bits | R379, 10_flash | 0 -/
  flushes : BitVec 32
  /-- MAP.JOURNAL.FLUSH_MAX, 10 us | 16 bits | R379, 10_flash | 0 -/
  flushMax : BitVec 16
  /-- flush-bound commands: (records up to this SEQ must be flushed, command, status, RESULT) | list | R359, 10_flash | empty -/
  bound : List (Nat × Asker × Byte × List Byte)
  /-- tags of the programmed pages outside the map area, 64 bytes each, by (die x 16,384 + block) x 2,048 + page; a page that fails its
  check holds no bytes | table | R357, R365, 10_flash | empty (log 7) -/
  tags : Tab (List Byte)
  /-- dirty map pages, with the SEQ of the last record that changed them | table | R361, 10_flash | empty -/
  dirty : Tab Nat
  /-- SEQ up to which the newest copy of a map page is current | table | R361, 10_flash | empty: 0 (log 7) -/
  pageSeq : Tab Nat
  /-- MAP.REBUILD.TIME, ms | 16 bits | R379, 10_flash | 0 -/
  rebuildTime : BitVec 16
  /-- MAP.REBUILD.PAGES_SCANNED | 24 bits | R379, 10_flash | 0 -/
  scanned : BitVec 24
  /-- MAP.REBUILD.UNITS_RECOVERED | 24 bits | R379, 10_flash | 0 -/
  recovered : BitVec 24
  /-- MAP.GC.ERASES | 32 bits | R379, 10_flash | 0 -/
  erases : BitVec 32
  /-- MAP.GC.COPIED in units of 16 KiB (the register reads it in GiB) | count | R379, 10_flash | 0 -/
  copied : Nat
  /-- MAP.SUSPEND.SUSPENDS | 32 bits | R379, 10_flash | 0 -/
  suspends : BitVec 32
  /-- MAP.SUSPEND.WAIT_MAX, us | 16 bits | R379, 10_flash | 0 -/
  waitMax : BitVec 16
  /-- MAP.SUSPEND.LONG_WAITS | 16 bits | R379, 10_flash | 0 -/
  longWaits : BitVec 16
  /-- MAP.PATROL.LAP_TIME, hours | 32 bits | R371, 10_flash | 0 -/
  lapTime : BitVec 32
  /-- MAP.PATROL.REFRESHED | 32 bits | R371, 10_flash | 0 -/
  refreshed : BitVec 32
  /-- turn in which the patrol lap began | turn | R371, 10_flash | 0 -/
  lapStart : Nat
  /-- unit that the patrol lap has reached | count | R371, 10_flash | 0 -/
  patrolAt : Nat
  /-- programs in flight | list | R358, 10_flash | empty -/
  programs : List Program
  /-- programs that wait to start: failed ones to be repeated, and copies without a page or under class 3's critical action
  | list | R373, R379, 10_flash | empty -/
  retries : List Program
  /-- seals and appends in progress | list | R147, 10_flash | empty -/
  seals : List Seal
  /-- namespace keys in the security block: 64 bytes each, by namespace | table | R378, R431, 12_startup | empty -/
  spaces : Tab (List Byte)
  /-- key table in force: keys wrapped under the key-encryption key, 72 bytes each, by namespace | table | R432, 12_startup | empty (log 7) -/
  keyTable : Tab (List Byte)
  /-- SEQ of the key table in force | count | R432, 12_startup | 0 (log 7) -/
  keySeq : Nat
  /-- a valid copy of the key table exists | 1 bit | R410, R433, 12_startup | true (log 7) -/
  keyValid : Bool
  /-- GLB.SEC_STATUS.KEY_TABLE_CH | 1 bit | R434, 12_startup | 0 -/
  keyChan : Bool
  /-- NS_DELETE commands that wait for their flush before the key is destroyed: (SEQ, namespace, command) | list | R432, 12_startup | empty -/
  keyDrops : List (Nat × Nat × Cmd)
  /-- a valid anchor page exists | 1 bit | R361, R410, 12_startup | true (log 7) -/
  anchor : Bool
  /-- turns of the lockstep mismatches of the last second | list | R351, 10_flash | empty -/
  lockTurns : List Nat
  /-- operation of the last mismatch | option | R351, 10_flash | none -/
  lockOp : Option Nat
  /-- with cause LOCKSTEP set: a logical unit whose lookup gave two results | option | R351, 10_flash | none -/
  badLookup : Option Nat
  /-- status-check failures of dies: (die, turn) | list | R347, 10_flash | empty -/
  dieFails : List (Nat × Nat)
deriving DecidableEq, Repr

/-! ### Memory integrity -/

/-- A DRAM stack (R391, R397). -/
structure Stack where
  /-- MEM.STACK_STATUS.STATE | 4 bits | R405, 11_integrity | 0 -/
  state : BitVec 4
  /-- MEM.STACK_STATUS.RETRAINS | 16 bits | R405, 11_integrity | 0 -/
  retrains : BitVec 16
  /-- MEM.STACK_ECC.CORRECTED | 32 bits | R384, 11_integrity | 0 -/
  corrected : BitVec 32
  /-- MEM.STACK_ECC.UNCORR | 16 bits | R385, 11_integrity | 0 -/
  uncorr : BitVec 16
  /-- remapped lines | list, at most 64 | R391, 11_integrity | empty -/
  remap : List Nat
  /-- MEM.ECC_STATUS.REMAP_FULL bit | 1 bit | R393, 11_integrity | 0 -/
  remapFull : Bool
  /-- distinct lines found uncorrectable, with their turns | list | R397, 11_integrity | empty -/
  badLines : List (Nat × Nat)
deriving DecidableEq, Repr

/-- A merge buffer entry (R390): tensor, word and merged word. -/
structure MergeEntry where
  tensor : TNum
  word : Nat
deriving DecidableEq, Repr

/-- State of chapter "Memory integrity" (the boot store stands in Boot). -/
structure Integrity where
  /-- stacks 0 to 11 | table of Stack | R397, 11_integrity | every stack at reset -/
  stackTab : Tab Stack
  /-- MEM.ECC_STATUS.SCRUB_SLOW | 1 bit | R395, 11_integrity | 0 -/
  scrubSlow : Bool
  /-- MEM.SCRUB.T1_LAP, s | 32 bits | R405, 11_integrity | 0 -/
  t1Lap : BitVec 32
  /-- MEM.SCRUB.T0_LAP, ms | 16 bits | R405, 11_integrity | 0 -/
  t0Lap : BitVec 16
  /-- MEM.SCRUB.T1_LAPS | 16 bits | R405, 11_integrity | 0 -/
  t1Laps : BitVec 16
  /-- words scrubbed in the present T1 lap | count | R394, 11_integrity | 0 -/
  t1At : Nat
  /-- first turn of the present T1 lap | turn | R394, 11_integrity | 0 -/
  t1Start : Nat
  /-- words scrubbed in the present core-store lap | count | R394, 11_integrity | 0 -/
  t0At : Nat
  /-- first turn of the present core-store lap | turn | R394, 11_integrity | 0 -/
  t0Start : Nat
  /-- MEM.ECC_COUNT.COPY_DROPS | 16 bits | R398, 11_integrity | 0 -/
  copyDrops : BitVec 16
  /-- MEM.ECC_COUNT.NOT_WRITTEN | 16 bits | R388, 11_integrity | 0 -/
  notWritten : BitVec 16
  /-- MEM.ECC_COUNT.MERGE_UNCORR | 16 bits | R390, 11_integrity | 0 -/
  mergeUncorr : BitVec 16
  /-- MEM.ECC_COUNT.RESERVE_REPAIRS | 16 bits | R396, 11_integrity | 0 -/
  repairs : BitVec 16
  /-- merge buffer entries in use | list | R390, 11_integrity | empty -/
  merge : List MergeEntry
deriving DecidableEq, Repr

/-! ### The boot store, start-up, firmware -/

/-- What a boot store program or erase serves. -/
inductive BootOp where
  /-- a ledger page program of these bytes -/
  | ledgerPage
  /-- erase of the ring sector behind the window -/
  | ledgerErase
  /-- a configuration write: copy and its 36 bytes -/
  | config (second : Bool) (bytes : List Byte) (cmd : Cmd)
  /-- one sector of a firmware commit: sector 0 to 4,095 of the region; 4,096 is the header -/
  | image (sector : Nat)
deriving DecidableEq, Repr

/-- A ledger record not yet in a page (R451): type, KEEP and body bytes. -/
structure LRec where
  type : Byte
  keep : Bool
  body : List Byte
deriving DecidableEq, Repr

/-- State of the boot store, the start-up sequence and firmware (chapters 11 and 12). -/
structure Boot where
  /-- GLB.START_STATUS.STAGE | 4 bits | R407, 12_startup | 0 -/
  stage : BitVec 4
  /-- GLB.START_STATUS.CAUSE | 4 bits | R406, 12_startup | 0 -/
  cause : BitVec 4
  /-- GLB.START_STATUS.HALT | 8 bits | R410, 12_startup | 0 -/
  halt : BitVec 8
  /-- GLB.START_STATUS.START_MS | 16 bits | R434, 12_startup | 0 -/
  startMs : BitVec 16
  /-- GLB.START_STATUS.CFG_DEFAULT | 1 bit | R412, 12_startup | 0 -/
  cfgDefault : Bool
  /-- flash branch ended | 1 bit | R408, 12_startup | false -/
  flashDone : Bool
  /-- compute branch ended | 1 bit | R408, 12_startup | false -/
  computeDone : Bool
  /-- start records at the end of the ledger without a SERVING record after them, as counted in BOOT_ROM | count | R411, 12_startup | 0 -/
  noServing : Nat
  /-- milliseconds since each of the last three clock-loss starts | list | R410, 12_startup | empty (log 7) -/
  clockStarts : List Nat
  /-- GLB.START_COUNT.STARTS | 32 bits | R434, 12_startup | 0 -/
  starts : BitVec 32
  /-- GLB.START_COUNT.RECOVERIES | 16 bits | R434, 12_startup | 0 -/
  recoveries : BitVec 16
  /-- GLB.START_COUNT.HALTS | 16 bits | R434, 12_startup | 0 -/
  halts : BitVec 16
  /-- starts in the life of the part | count | R434, 12_startup | 0 (log 7) -/
  lifeStarts : Nat
  /-- recoveries in the life of the part | count | R434, 12_startup | 0 (log 7) -/
  lifeRecoveries : Nat
  /-- halts in the life of the part | count | R434, 12_startup | 0 (log 7) -/
  lifeHalts : Nat
  /-- configuration copy 0 as stored | 36 bytes | R412, 12_startup | empty: never written (log 7) -/
  cfg0 : List Byte
  /-- configuration copy 1 as stored | 36 bytes | R412, 12_startup | empty: never written (log 7) -/
  cfg1 : List Byte
  /-- settings block in effect | 16 bytes | R413, R414, 12_startup | empty until BOOT_ROM -/
  settings : List Byte
  /-- GLB.BOOT_STATUS.CFG_COPY | 1 bit | R412, 11_integrity | 0 -/
  cfgCopy : Bool
  /-- RECOVER_PEER of the settings | 1 bit | R413, 12_startup | true (default 0x03) -/
  recoverPeer : Bool
  /-- CFG_WRITE commands in dispatch order | list | R414, 12_startup | empty -/
  cfgWrites : List Cmd
  /-- GLB.FW_STATUS.RELEASE | 32 bits | R434, 12_startup | 0 -/
  release : BitVec 32
  /-- GLB.FW_STATUS.SVN | 6 bits | R434, 12_startup | 0 -/
  svn : BitVec 6
  /-- NUM_REV of the running image | 16 bits | R415, 12_startup | 1 -/
  numRev : BitVec 16
  /-- GLB.FW_STATUS.STAGING | 4 bits | R420, 12_startup | 0 -/
  staging : BitVec 4
  /-- GLB.FW_STATUS.FROM_T1 | 1 bit | R419, 12_startup | 0 -/
  fromT1 : Bool
  /-- GLB.FW_STATUS.IMAGE_VALID | 1 bit | R421, 12_startup | 0 -/
  imageValid : Bool
  /-- GLB.FW_STATUS.SOURCE | 1 bit | R419, 12_startup | 0 -/
  source : Bool
  /-- SVN fuses burned | 6 bits | R424, 12_startup | 0 (log 7) -/
  svnFuses : BitVec 6
  /-- SVN_FLOOR as read from the fuses in BOOT_ROM | 6 bits | R434, 12_startup | 0 -/
  svnFloor : BitVec 6
  /-- revocation fuses burned | 2 bits | R424, 12_startup | 0 (log 7) -/
  revFuses : BitVec 2
  /-- KEY_REVOKED as read in BOOT_ROM | 2 bits | R434, 12_startup | 0 -/
  keyRevoked : BitVec 2
  /-- firmware image region of the boot store | bytes | R399, R416 | empty: no image (log 7) -/
  image : List Byte
  /-- staging area: 4,096-byte pieces loaded, by piece | table of bytes | R420, 12_startup | empty -/
  stage4k : Tab (List Byte)
  /-- running code's header and body | bytes | R430, 12_startup | empty -/
  running : List Byte
  /-- commit in progress: (command or none for a self-commit, next sector) | option | R421, R426 | none -/
  commit : Option (Option Cmd × Nat)
  /-- a queue reset stops the commit at the next sector | 1 bit | R421, 12_startup | false -/
  commitStop : Bool
  /-- fetch in progress: (command or none for the loader, peer, bytes received) | option | R425 | none -/
  fetch : Option (Option Cmd × Addr × List Byte)
  /-- peers the loader has still to try | list | R426, 12_startup | empty -/
  peers : List Addr
  /-- FW_ACTIVATE done, reset due | 1 bit | R423, 12_startup | false -/
  activating : Bool
  /-- GLB.SEC_STATUS.ATTESTS | 32 bits | R434, 12_startup | 0 -/
  attests : BitVec 32
  /-- GLB.SEC_STATUS.IDENTITY_OK | 1 bit | R428, 12_startup | 0 -/
  identityOk : Bool
  /-- sector table: retired logical sectors mapped to spares | table | R401, 11_integrity | empty (log 7) -/
  sectors : Tab Nat
  /-- erases per physical sector | table | R401, 11_integrity | empty (log 7) -/
  sectorErases : Tab Nat
  /-- sectors retired in life | count | R401, 11_integrity | 0 (log 7) -/
  sectorsRetired : Nat
  /-- sectors that left the ledger ring with no spare left | list | R401, 11_integrity | empty (log 7) -/
  ringOut : List Nat
  /-- registers of the boot store given after BOOT_ROM | 1 bit | R405, 11_integrity | false: SPARES reads 0 -/
  storeReady : Bool
  /-- GLB.BOOT_STATUS.SPARE_LOW | 1 bit | R401, 11_integrity | 0 -/
  spareLow : Bool
  /-- operation in progress | option | R403, 11_integrity | none -/
  op : Option BootOp
  /-- operations queued | list | R403, 11_integrity | empty -/
  opQueue : List BootOp
  /-- GLB.BOOT_STATUS.SUSPENDED | 1 bit | R404, 11_integrity | 0 -/
  suspended : Bool
  /-- inside the 200 us window after a resume | 1 bit | R404, 11_integrity | false -/
  window : Bool
  /-- a read waits inside the window | 1 bit | R404, 11_integrity | false -/
  readWaits : Bool
  /-- GLB.BOOT_WAIT.SUSPENDS | 32 bits | R404, 11_integrity | 0 -/
  suspends : BitVec 32
  /-- GLB.BOOT_WAIT.WAIT_MAX, us | 16 bits | R404, 11_integrity | 0 -/
  waitMax : BitVec 16
deriving DecidableEq, Repr

/-! ### Events, health and the ledger -/

/-- A pending notice (R444, R445). -/
structure Notice where
  code : Byte
  sev : Byte
  detail : List Byte
  turn : Nat
  coalesced : Nat
deriving DecidableEq, Repr

/-- State of chapter "Events, health and the lifetime ledger", with the register-space counters of chapter 14. -/
structure Health where
  /-- EVT.TURN.COUNT | 64 bits | R435, 13_health | 0 -/
  turn : BitVec 64
  /-- EVT.COUNT 0 to 10 | 64 bits each, table | R437, 13_health | 0 -/
  counts : Tab (BitVec 64)
  /-- positions of the events taken in the present turn | list | R437, 13_health | empty -/
  inTurn : List Nat
  /-- W1C bits that the module set in the present turn: (register address, bit) | list | R10, 00_scope | empty -/
  setNow : List (Nat × Nat)
  /-- EVT.SIMUL.MULTI_TURNS | 32 bits | R461, 13_health | 0 -/
  multi : BitVec 32
  /-- EVT.SIMUL.MAX_IN_TURN | 16 bits | R461, 13_health | 0 -/
  maxIn : BitVec 16
  /-- EVT.NOTIFY.MASK | 32 bits | R443, 13_health | 0xFFFF_BFFE -/
  mask : BitVec 32
  /-- EVT.NOTIFY.ENABLE | 1 bit | R443, 13_health | 1 -/
  enable : Bool
  /-- EVT.NOTIFY.EP | 4 bits | R442, 13_health | 0 -/
  ep : BitVec 4
  /-- EVT.NOTICE_STATUS.SENT | 32 bits | R445, 13_health | 0 -/
  sent : BitVec 32
  /-- NOTICE_SEQ: notices sent by this module since reset | count | R444, 13_health | 0 -/
  noticeSeq : Nat
  /-- EVT.NOTICE_STATUS.LOST | 16 bits | R445, 13_health | 0 -/
  lost : BitVec 16
  /-- LOST_BEFORE of the next notice | 1 bit | R444, 13_health | false -/
  lostBefore : Bool
  /-- pending notices | list, at most 64 | R445, 13_health | empty -/
  notices : List Notice
  /-- turn of the last notice sent, per code | table | R445, 13_health | empty -/
  lastSent : Tab Nat
  /-- occurrences folded while a code's 10 ms runs and nothing is pending | table | R445, 13_health | empty -/
  folded : Tab Nat
  /-- notices of other modules held by the rook | list, at most 1,024 | R446, 13_health | empty -/
  forward : List Block
  /-- EVT.IST_LAP.COMPUTE_LAP, ms | 32 bits | R456, 13_health | 0 -/
  computeLap : BitVec 32
  /-- EVT.IST_LAP.LANE_LAP, 10 ms | 16 bits | R456, 13_health | 0 -/
  laneLap : BitVec 16
  /-- EVT.IST_LAP.CHANNEL_LAP, 10 ms | 16 bits | R456, 13_health | 0 -/
  channelLap : BitVec 16
  /-- EVT.IST_FAIL.HALF_FAIL | 16 bits | R458, 13_health | 0 -/
  halfFail : BitVec 16
  /-- EVT.IST_FAIL.VECTOR_FAIL | 16 bits | R458, 13_health | 0 -/
  vectorFail : BitVec 16
  /-- EVT.IST_FAIL.LANE_FAIL | 16 bits | R458, 13_health | 0 -/
  laneFail : BitVec 16
  /-- EVT.IST_FAIL.CHANNEL_FAIL | 16 bits | R458, 13_health | 0 -/
  channelFail : BitVec 16
  /-- EVT.IST_CTRL.PAUSE | 1 bit | R459, 13_health | 0 -/
  pause : Bool
  /-- tests in progress | list | R456, 13_health | empty -/
  tests : List TestUnit
  /-- domains under retest, with the units still to be tested | list | R197, R459, 13_health | empty -/
  retests : List (Domain × List TestUnit)
  /-- rotation position and lap start per slot: squares 0 to 255, ports from 256, channels from 264; and from 1,024 on the last lap and
  the laps completed of each slot | table | R456, 13_health | empty -/
  rotation : Tab (Nat × Nat)
  /-- lane test laps completed by every slot, and the turn in which the present one began | counts | R456, 13_health | 0 -/
  laneAt : Nat × Nat
  /-- channel test laps completed by every slot, and the turn in which the present one began | counts | R456, 13_health | 0 -/
  chanAt : Nat × Nat
  /-- self-test in progress | option of its command | R461, 13_health | none -/
  selftest : Option Cmd
  /-- GLB.HEALTH.LIFE_LEFT | 8 bits | R448, 13_health | 0 -/
  lifeLeft : BitVec 8
  /-- GLB.HEALTH.MODE | 2 bits | R448, 13_health | 1 -/
  mode : BitVec 2
  /-- EVT.LEDGER | 64 bits | R461, 13_health | 0 -/
  ledgerHead : BitVec 64
  /-- EVT.LEDGER_WIN | 64 bits | R461, 13_health | 0 -/
  ledgerWin : BitVec 64
  /-- ledger pages in the ring, by page sequence number | table of 256-byte pages | R402, 13_health | empty (log 7) -/
  pages : Tab (List Byte)
  /-- next page sequence number | count | R402, 11_integrity | 1 (log 7) -/
  nextPage : Nat
  /-- EVENT records: turn of the last record and occurrences folded since, key position x 2^32 + source | table | R452, 13_health | empty -/
  eventRecs : Tab (Nat × Nat)
  /-- records that wait to be appended | list | R452, 13_health | empty -/
  pendingRecs : List LRec
  /-- commands that wait for a ledger page: (last page needed, command, RESULT) | list | R460, 13_health | empty -/
  pageWaits : List (Nat × Cmd × List Byte)
  /-- lifetime totals 0 to 167 | table | R455, 13_health | 0 (log 7) -/
  totals : Tab Nat
  /-- signs of R374 already raised | 5 bits | R374, R443 | 0 -/
  signs : BitVec 5
  /-- occurrence counts of a domain's removals in life, key as Domain code | table | R197, 05_compute | empty (log 7) -/
  outs : Tab Nat
  /-- domains out of service, as the module knows them across starts | list | R197, R408, 05_compute | empty (log 7) -/
  outNow : List Domain
  /-- domains out permanently | list | R197, R453 | empty (log 7) -/
  permanent : List Domain
  /-- failing-address list: (core store, unit, address) | list | R392, 11_integrity | empty (log 7) -/
  failAddrs : List (Bool × Nat × Nat)
  /-- GLB.REG_ERR.READ_HOLE | 16 bits | R463, 14_register_index | 0 -/
  readHole : BitVec 16
  /-- GLB.REG_ERR.WRITE_HOLE | 16 bits | R463, 14_register_index | 0 -/
  writeHole : BitVec 16
  /-- GLB.REG_ERR.MISALIGNED | 16 bits | R463, 14_register_index | 0 -/
  misaligned : BitVec 16
  /-- GLB.REG_ERR.BCAST_READ | 16 bits | R463, 14_register_index | 0 -/
  bcastRead : BitVec 16
  /-- GLB.GROUP_READ | 64 bits | R467, 14_register_index | 0 -/
  groupRead : BitVec 64
  /-- draws made of free values | count | model's own field (log 2) | 0 (DESIGN CHOICE, log 2) -/
  draws : Nat
deriving DecidableEq, Repr

/-- The module without its queue: everything the manual gives it, chapter by chapter. -/
structure Sys where
  /-- state of "Module, power and cooling" | record | 01_module | its own reset record -/
  power : Power
  /-- state of "Optical fabric" | record | 02_fabric | its own reset record -/
  fabric : Fabric
  /-- state of "Task registers and command flow" | record | 03_task_registers | its own reset record -/
  task : Task
  /-- state of "The tensor range and its tiers" | record | 04_tensor_range | its own reset record -/
  range : Range
  /-- cores that differ from a core at reset, by core number | table of Core | R169, 05_compute | every core at reset -/
  cores : Tab Core
  /-- state of "Plans, jobs and serving contexts" | record | 08_plans | its own reset record -/
  jobs : Jobs
  /-- state of "Vector search and filters" | record | 09_search | its own reset record -/
  search : Search
  /-- state of "Flash media and translation" | record | 10_flash | its own reset record -/
  flash : Flash
  /-- state of "Memory integrity" | record | 11_integrity | its own reset record -/
  integrity : Integrity
  /-- state of the boot store, start-up and firmware | record | 11_integrity, 12_startup | its own reset record -/
  boot : Boot
  /-- state of "Events, health and the lifetime ledger" | record | 13_health | its own reset record -/
  health : Health
deriving DecidableEq, Repr

/-- The whole machine: the queue of inputs, and the module. -/
structure State where
  /-- commands and events that wait, first in, first out | list | the model's own queue (log 1) | empty -/
  pending : List Instr
  /-- the module | record | the whole manual | Sys.reset -/
  sys : Sys
deriving DecidableEq, Repr

/-! ### Reset -/

def portReset : Port :=
  { train := .down, retrains := 0, lanes := 0, host := false, hostActive := false, pfNotice := false, fecCorr := 0, fecRest := 0,
    fecFail := 0, replays := 0, peerValid := false, peerPort := 0, peerAddr := 0, peerId := 0, peerGroup := none, endpoints := 0, equalised := false,
    txNo := 0, acked := 0xFFFF, retry := [], resend := [], stalled := 0, rxLast := 0xFFFF, nak := false, gap := false,
    credit := [0, 0, 0, 0], freed := [0, 0, 0, 0], occupied := [0, 0, 0, 0], scram := [0, 0, 0, 0], alignAt := 0, trNext := 0,
    trSent := [], sent := [], part := [], fails := [], routed := false, egress := [],
    txRest := [], lastVc := 3, prbs := BitVec.allOnes 31, laneErr := [], laneBad := [] }

def routeReset : Route := { driver := false, hops := 0xF, valid := false, isLocal := false, port := 0 }

def txReset : TxStream := { next := 0, unacked := [], acks := [], used := 0, resends := 0, reopen := true }

def endpointReset : Endpoint :=
  { held := [], epoch := 0, resetBusy := false, valid := false, credit := 0x100, accepted := 0, refused := 0, resets := 0, latMax := 0,
    relayEpoch := 0, relayRook := 0, relayBusy := 0, awaited := [], readsHeld := [] }

def halfReset : Half :=
  { holder := none, acts := List.replicate 32 0, active := List.replicate 32 { value := 0, residue := 0 },
    shadow := List.replicate 32 { value := 0, residue := 0 }, query := List.replicate 8 (List.replicate 64 0), idle := 0 }

def engineReset : Engine := { split := false, left := halfReset, right := halfReset }

def drainReset : Drain := { lanes := List.replicate 64 0, leftBusy := false, rightBusy := false }

def coreReset : Core :=
  { halfOut := 0, permanent := false, squareOut := false, coreOut := false, lastEngine := 0,
    lastHalf := false, fault := 0, validPips := 0, dummyPips := 0, bubblePips := 0, capHeld := 0, clockOff := 0, engines := [], drains := [],
    vregs := List.replicate 8192 0, queue := [], retest := false,
    eccCorr := 0, eccUncorr := 0, remap := [], removalDue := false }

def chanReset : Chan :=
  { state := 0, reads := 0, retry := 0, soft := 0, uncorr := 0, progFail := 0, eraseFail := 0, retrain := false }

def stackReset : Stack :=
  { state := 0, retrains := 0, corrected := 0, uncorr := 0, remap := [], remapFull := false, badLines := [] }

def blockReset : FBlock :=
  { state := .free, slc := false, wptr := 0, wear := 0, reads := 0, retireDue := false, refresh := false }

def dieReset : Die :=
  { out := false, busy := false, suspended := false, window := false, queued := 0, served := 0, eraseWaits := none, retired := 0 }

def powerReset : Power :=
  { path := .closed, run := .on, lowForSecond := false, epoArmed := false, i2cOffset := 0, epoLatch := false, cap := 0x5F,
    capErr := false, aCap := 524288, thermAllow := 524288, allow := 524288, capUnmet := false, vin := 0, iin := 0, pin := 0,
    current := 1, target := 1, inTransition := false, entry := none, exiting := false, waitExit := [], p3Pending := false, energy := 0,
    lastSeq := 0, storeState := 0, storeBefore := 0, measured := false, storeUsable := false, charged := false, pfTurn := 0,
    pfSource := .inputLow, pfFlushTurns := 0, exhausted := false, temps := [], tempMax := [], tempLife := [], critLife := [], tempHist := [],
    critActs := 0, coresHeld := false, flashHalved := false, flashCooling := false, opticsOff := 0, txOn := false }

def fabricReset : Fabric :=
  { ports := [], rook := false, assigned := false, groupSet := false, group := 0, member := 0, portDisable := 0, routeAuto := true,
    discTime := 0, firstUp := none, overrideLost := 0, groupSize := 0, conflict := false, done := false, rookAddr := none, links := [],
    members := [], grp := [], mbr := [], staged := [], borrowMax := 0, lendMax := 0, borrowed := [], lent := [], leaseNo := 1,
    leaseAsks := [], recallLate := 0, tx := [], rx := [], waiting := [], hostRx := [],
    broken := 0, bcrcErr := 0, badBlock := 0, droppedCtl := [], taken := [], hostWait := [],
    scales := [], waitData := [], early := [] }

def taskReset : Task :=
  { eps := [], lastEp := 15, order := 0, relayed := [], running := [], fetches := [], resends := [], ended := [], stopped := false }

def rangeReset : Range :=
  { tensors := [], t0Ready := false, t1Ready := false, order := 0, waits := [], deleting := [], seals := 0, units := 0, full := 0, demoted := 0,
    dropped := 0, prefetchLost := 0, stallTurns := 0 }

def jobsReset : Jobs :=
  { queue := [], job := none, nextNo := 1, wrapped := false, lastNo := 0, lastStep := 0, lastDone := 0, lastPips := 0, lastBudget := 0, lastStall := 0,
    svcOff := 0, faultRetries := 0, budgetOver := 0, jobsEnded := 0, nonfinite := 0, saturated := 0, recompute := 0, rollSeed := 0,
    rollKey := 0, rollElem := 0, rollNode := 0, rollValid := false, rollOut := 0, rollDue := false, nanScore := 0, filterTrunc := 0, indexRange := 0 }

def searchReset : Search :=
  { registry := [], prior := [], seen := [], writing := [], shards := [], subs := [], leaders := [], snaps := [],
    searches := 0, shorts := 0, shardFail := 0, cmp := 0, rerank := 0 }

def flashImageReset : FlashImage :=
  { writing := [], seals := [], map := [], blocks := [], tensors := [], registry := [], spaces := [], freeSeq := [],
    pointers := [], reserves := [] }

def flashReset : Flash :=
  { roCause := 0x01, lockErr := false, mapState := 0, clean := false, finalFlush := false, ready := false, freeing := [], chunkPtr := 0,
    map := [], owner := [], blocks := [], dies := [], chans := [], seq := 0, journal := [], flushing := none, flushAsked := false,
    image := flashImageReset, data := [], freeSeq := [], journalSeq := 0, flushes := 0, flushMax := 0,
    bound := [], tags := [], dirty := [], pageSeq := [], rebuildTime := 0, scanned := 0,
    recovered := 0, erases := 0, copied := 0, suspends := 0, waitMax := 0, longWaits := 0, lapTime := 0, refreshed := 0,
    lapStart := 0, patrolAt := 0, programs := [], retries := [], seals := [], spaces := [], keyTable := [], keySeq := 0, keyValid := true,
    keyChan := false, keyDrops := [],
    anchor := true, lockTurns := [], lockOp := none, badLookup := none, dieFails := [] }

def integrityReset : Integrity :=
  { stackTab := [], scrubSlow := false, t1Lap := 0, t0Lap := 0, t1Laps := 0, t1At := 0, t1Start := 0, t0At := 0, t0Start := 0,
    copyDrops := 0, notWritten := 0, mergeUncorr := 0, repairs := 0, merge := [] }

def bootReset : Boot :=
  { stage := 0, cause := 0, halt := 0, startMs := 0, cfgDefault := false, flashDone := false, computeDone := false,
    noServing := 0, clockStarts := [], starts := 0, recoveries := 0, halts := 0, lifeStarts := 0, lifeRecoveries := 0, lifeHalts := 0,
    cfg0 := [], cfg1 := [], settings := [], cfgCopy := false, recoverPeer := true, cfgWrites := [], release := 0, svn := 0, numRev := 1,
    staging := 0, fromT1 := false, imageValid := false, source := false, svnFuses := 0, svnFloor := 0, revFuses := 0, keyRevoked := 0,
    image := [], stage4k := [], running := [], commit := none, commitStop := false, fetch := none, peers := [], activating := false,
    attests := 0, identityOk := false, sectors := [], sectorErases := [], sectorsRetired := 0, ringOut := [], storeReady := false, spareLow := false,
    op := none, opQueue := [], suspended := false, window := false, readWaits := false, suspends := 0, waitMax := 0 }

def healthReset : Health :=
  { turn := 0, counts := [], inTurn := [], setNow := [], multi := 0, maxIn := 0, mask := 0xFFFFBFFE, enable := true, ep := 0, sent := 0, noticeSeq := 0,
    lost := 0, lostBefore := false, notices := [], lastSent := [], folded := [], forward := [], computeLap := 0, laneLap := 0,
    channelLap := 0, halfFail := 0, vectorFail := 0, laneFail := 0, channelFail := 0, pause := false, tests := [], retests := [], rotation := [],
    laneAt := (0, 0), chanAt := (0, 0), selftest := none, lifeLeft := 0, mode := 1, ledgerHead := 0, ledgerWin := 0, pages := [],
    nextPage := 1, eventRecs := [], pendingRecs := [], pageWaits := [], totals := [], signs := 0, outs := [],
    outNow := [], permanent := [], failAddrs := [], readHole := 0, writeHole := 0, misaligned := 0, bcastRead := 0, groupRead := 0, draws := 0 }

/-- The module right after reset: the Reset column of every register table; every other field as its comment says. -/
def Sys.reset : Sys :=
  { power := powerReset, fabric := fabricReset, task := taskReset, range := rangeReset, cores := [], jobs := jobsReset,
    search := searchReset, flash := flashReset, integrity := integrityReset, boot := bootReset, health := healthReset }

/-- The machine right after reset: nothing waits. -/
def State.reset : State :=
  { pending := [], sys := Sys.reset }

end Sys2Proof.Machine
end

