-- ==== Sys2Proof/Machine/Bits.lean ====
section
/-!
DEFINITION. Bit fields, little-endian bytes, saturating counters and sparse tables (R7 to R9).
-/
namespace Sys2Proof.Machine

/-! ### Tables -/

/-- The entry under `k`, if listed. -/
def tfind {α : Type} (k : Nat) : Tab α → Option α
  | [] => none
  | (j, v) :: t => if j = k then some v else tfind k t

/-- The entry under `k`, with its reset value where unlisted. -/
def tget {α : Type} (d : α) (k : Nat) (t : Tab α) : α := (tfind k t).getD d

/-- Set the entry under `k`, keys staying in rising order. -/
def tset {α : Type} (k : Nat) (v : α) : Tab α → Tab α
  | [] => [(k, v)]
  | (j, w) :: t => if k < j then (k, v) :: (j, w) :: t else if j = k then (k, v) :: t else (j, w) :: tset k v t

/-- Drop the entry under `k`. -/
def tdel {α : Type} (k : Nat) : Tab α → Tab α
  | [] => []
  | (j, w) :: t => if j = k then t else (j, w) :: tdel k t

/-- Change the entry under `k`, which starts from `d`. -/
def tupd {α : Type} (d : α) (k : Nat) (f : α → α) (t : Tab α) : Tab α := tset k (f (tget d k t)) t

/-- Change every listed entry. -/
def tmap {α : Type} (f : α → α) (t : Tab α) : Tab α := t.map fun e => (e.1, f e.2)

/-- Keys strictly rising: the canonical form of a table. -/
def keysRise {α : Type} : Tab α → Bool
  | [] => true
  | [_] => true
  | (j, _) :: (k, v) :: t => decide (j < k) && keysRise ((k, v) :: t)

/-! ### Lists -/

/-- Replace element `i`. -/
def lset {α : Type} (i : Nat) (v : α) : List α → List α
  | [] => []
  | x :: t => match i with
    | 0 => v :: t
    | j + 1 => x :: lset j v t

/-- Change element `i`. -/
def lupd {α : Type} (i : Nat) (f : α → α) : List α → List α
  | [] => []
  | x :: t => match i with
    | 0 => f x :: t
    | j + 1 => x :: lupd j f t

/-- The numbers from `a` on, `n` of them. -/
def span : Nat → Nat → List Nat
  | _, 0 => []
  | a, n + 1 => a :: span (a + 1) n

/-- Cut into pieces of `n` elements, the last perhaps shorter; `fuel` bounds the number of pieces. -/
def piecesF {α : Type} (n : Nat) : Nat → List α → List (List α)
  | 0, _ => []
  | _, [] => []
  | fuel + 1, l => l.take n :: piecesF n fuel (l.drop n)

/-- Cut into pieces of `n` elements. -/
def pieces {α : Type} (n : Nat) (l : List α) : List (List α) := piecesF n l.length l

/-- Pad with zeros, or cut, to exactly `n` bytes. -/
def fitBytes (n : Nat) (l : List Byte) : List Byte := l.take n ++ List.replicate (n - l.length) 0

/-- `n` zero bytes. -/
def zeros (n : Nat) : List Byte := List.replicate n 0

/-- The smallest element under an order, first among equals. -/
def minBy {α : Type} (less : α → α → Bool) : List α → Option α
  | [] => none
  | x :: t => match minBy less t with
    | none => some x
    | some y => if less y x then some y else some x

/-- Insert in order, after equals. -/
def insertBy {α : Type} (less : α → α → Bool) (x : α) : List α → List α
  | [] => [x]
  | y :: t => if less x y then x :: y :: t else y :: insertBy less x t

/-- Stable sort by insertion. -/
def sortBy {α : Type} (less : α → α → Bool) (l : List α) : List α := l.foldl (fun acc x => insertBy less x acc) []

/-- The place of the first element that satisfies `p`. -/
def indexOf? {α : Type} (p : α → Bool) : List α → Option Nat
  | [] => none
  | x :: t => if p x then some 0 else (indexOf? p t).map (· + 1)

/-! ### Bytes -/

/-- Little-endian number of a byte string (R8). -/
def leNat : List Byte → Nat
  | [] => 0
  | b :: t => b.toNat + 256 * leNat t

/-- `n` little-endian bytes of a number (R8). -/
def leBytes : Nat → Nat → List Byte
  | 0, _ => []
  | n + 1, v => BitVec.ofNat 8 v :: leBytes n (v / 256)

/-- Big-endian number of a byte string. -/
def beNat (l : List Byte) : Nat := l.foldl (fun a b => a * 256 + b.toNat) 0

/-- `n` big-endian bytes of a number. -/
def beBytes (n v : Nat) : List Byte := (leBytes n v).reverse

/-- `n` bytes from offset `o`, zeros past the end. -/
def bytesAt (l : List Byte) (o n : Nat) : List Byte := fitBytes n (l.drop o)

/-- Little-endian field of `n` bytes at offset `o`. -/
def leAt (l : List Byte) (o n : Nat) : Nat := leNat (bytesAt l o n)

/-- Replace the bytes from offset `o` by `new`. -/
def putBytes (l : List Byte) (o : Nat) (new : List Byte) : List Byte := l.take o ++ new ++ l.drop (o + new.length)

/-- All bytes zero. -/
def allZero (l : List Byte) : Bool := l.all (· == 0)

/-! ### Fields of 64-bit registers -/

/-- Bits [lo+len-1:lo] of a number. -/
def field (v lo len : Nat) : Nat := v / 2 ^ lo % 2 ^ len

/-- Bits of a register word as a number. -/
def wfield (w : Word) (lo len : Nat) : Nat := field w.toNat lo len

/-- Place `v`, cut to `len` bits, at bit `lo`. -/
def place (v lo len : Nat) : Nat := v % 2 ^ len * 2 ^ lo

/-- A flag at bit `lo`. -/
def flagAt (b : Bool) (lo : Nat) : Nat := if b then 2 ^ lo else 0

/-- A register word from its fields. -/
def word (fields : List Nat) : Word := BitVec.ofNat 64 (fields.foldl (· + ·) 0)

/-- Number of bits set. -/
def popcount {n : Nat} (b : BitVec n) : Nat := ((List.range n).filter fun i => b.getLsbD i).length

/-- Set or clear bit `i`. -/
def setBit {n : Nat} (b : BitVec n) (i : Nat) (v : Bool) : BitVec n :=
  if v then b ||| (1#n <<< i) else b &&& ~~~(1#n <<< i)

/-! ### Saturating counters (R9) -/

/-- Add to a saturating counter of `n` bits (R9). -/
def satAdd {n : Nat} (c : BitVec n) (k : Nat) : BitVec n :=
  if c.toNat + k < 2 ^ n then BitVec.ofNat n (c.toNat + k) else BitVec.allOnes n

/-- Count one more (R9). -/
def satInc {n : Nat} (c : BitVec n) : BitVec n := satAdd c 1

/-- The larger of a running maximum and a new value, cut to what the field holds. -/
def satMax {n : Nat} (c : BitVec n) (v : Nat) : BitVec n :=
  if v ≤ c.toNat then c else if v < 2 ^ n then BitVec.ofNat n v else BitVec.allOnes n

/-- A number cut to a field of `n` bits by saturation. -/
def satOf (n v : Nat) : BitVec n := if v < 2 ^ n then BitVec.ofNat n v else BitVec.allOnes n

end Sys2Proof.Machine
end

