-- ==== Sys2Proof/Machine/Crc.lean ====
section
/-!
DEFINITION. The two checksums: CRC-32C for frames, command blocks and records (R54, R97, R107), CRC-32 for blocks (R64). The
manual gives the polynomials; bit order, initial value and final inversion are the customary ones (log entry 10).
-/
namespace Sys2Proof.Machine

/-- Eight shifts of a reflected CRC register with the reflected polynomial `p`. -/
def crcShift (p : BitVec 32) : Nat → BitVec 32 → BitVec 32
  | 0, c => c
  | n + 1, c => crcShift p n (if c.getLsbD 0 then (c >>> 1) ^^^ p else c >>> 1)

/-- Feed bytes to a CRC register. -/
def crcFeed (p : BitVec 32) (c : BitVec 32) (l : List Byte) : BitVec 32 :=
  l.foldl (fun c b => crcShift p 8 (c ^^^ b.zeroExtend 32)) c

/-- CRC-32C, polynomial 0x1EDC_6F41 (R54, R97, R107). -/
def crc32c (l : List Byte) : BitVec 32 := ~~~crcFeed 0x82F63B78 0xFFFFFFFF l

/-- CRC-32, polynomial 0x04C1_1DB7 (R64). -/
def crc32 (l : List Byte) : BitVec 32 := ~~~crcFeed 0xEDB88320 0xFFFFFFFF l

/-- The four little-endian bytes of a CRC-32C. -/
def crcBytes (l : List Byte) : List Byte := leBytes 4 (crc32c l).toNat

/-- A byte string followed by its CRC-32C. -/
def withCrc (l : List Byte) : List Byte := l ++ crcBytes l

end Sys2Proof.Machine
end

