-- ==== Sys2Proof/Machine/Flags.lean ====
section
/-!
DEFINITION. Status codes, their reporting order, and the CONDITIONS bits (R11, R14, R108).
-/
namespace Sys2Proof.Machine

/-! ### Status codes (R11) -/

def stDone : Byte := 0x00
def stShort : Byte := 0x01
def stBusy : Byte := 0x08
def stAborted : Byte := 0x10
def stAbortMissed : Byte := 0x11
def stFlushed : Byte := 0x12
def stBudgetOver : Byte := 0x20
def stFaultContained : Byte := 0x21
def stScaleSaturated : Byte := 0x22
def stReadOnly : Byte := 0x30
def stFull : Byte := 0x31
def stUncorrectable : Byte := 0x32
def stNotWritten : Byte := 0x33
def stBadCommand : Byte := 0x40

/-- The reporting order (R14). -/
def statusOrder : List Byte :=
  [stBadCommand, stBusy, stFlushed, stAborted, stUncorrectable, stNotWritten, stFaultContained, stReadOnly, stFull, stBudgetOver,
   stScaleSaturated, stShort, stDone]

/-- The one status reported of those that apply (R14); DONE when none does. -/
def reported (l : List Byte) : Byte := (statusOrder.find? fun s => l.contains s).getD stDone

/-! ### CONDITIONS (R108) -/

/-- The CONDITIONS bit of a status; DONE and the refusals have none. -/
def condition (s : Byte) : BitVec 16 :=
  if s = stShort then 0x0001
  else if s = stScaleSaturated then 0x0002
  else if s = stBudgetOver then 0x0004
  else if s = stFull then 0x0008
  else if s = stReadOnly then 0x0010
  else if s = stFaultContained then 0x0020
  else if s = stNotWritten then 0x0040
  else if s = stUncorrectable then 0x0080
  else 0

/-- CONDITIONS bit [8]: a tensor descriptor of the job was refused (R281). -/
def condDescRefused : BitVec 16 := 0x0100

/-- The statuses that a CONDITIONS field names. -/
def statusesOf (c : BitVec 16) : List Byte :=
  [stShort, stScaleSaturated, stBudgetOver, stFull, stReadOnly, stFaultContained, stNotWritten, stUncorrectable].filter
    fun s => c &&& condition s != 0

/-- ERR_ADDR after one more failing word: the lowest address that gives the reported status; zero stands for no address (R470). -/
def mergeErr (oldConds newConds : BitVec 16) (old new : Word) : Word :=
  let worse (c : BitVec 16) : Bool := c &&& condition stUncorrectable != 0
  if new = 0 then old
  else if old = 0 then new
  else if worse newConds && !worse oldConds then new
  else if worse oldConds && !worse newConds then old
  else if new < old then new else old

/-- The outcome of a command, as its completion record shows it (R107). -/
structure Ending where
  status : Byte
  conds : BitVec 16
  /-- bytes delivered to the host buffer -/
  len : Nat
  count : Nat
  pips : Nat
  err : Word
  /-- RESULT, bytes 40 to 59 -/
  result : List Byte
deriving DecidableEq, Repr

/-- An ending with a status and its own condition alone. -/
def ending (status : Byte) : Ending :=
  { status, conds := condition status, len := 0, count := 0, pips := 0, err := 0, result := [] }

/-- DONE with a RESULT. -/
def doneWith (result : List Byte) : Ending := { ending stDone with result }

/-- An ending for a failing address. -/
def failedAt (status : Byte) (err : Word) : Ending := { ending status with err }

end Sys2Proof.Machine
end

