-- ==== Sys2Proof/Machine/Blocks.lean ====
section
/-!
DEFINITION. Layouts: fabric blocks and their kinds (R64, R65), frame headers (R54), command blocks (R97), completion records
(R107) and notices (R444).
-/
namespace Sys2Proof.Machine

/-! ### Block kinds (R65) -/

def kPad : Byte := 0x00
def kRegWrite : Byte := 0x01
def kRegRead : Byte := 0x02
def kRegReadResp : Byte := 0x03
def kTaskWrite : Byte := 0x04
def kCompletion : Byte := 0x05
def kTaskRefused : Byte := 0x06
def kTensorRead : Byte := 0x10
def kTensorReadResp : Byte := 0x11
def kTensorWrite : Byte := 0x12
def kTensorWriteAck : Byte := 0x13
def kCollScale : Byte := 0x20
def kCollData : Byte := 0x21
def kCollRaw : Byte := 0x22
def kLinkState : Byte := 0x31
def kAssign : Byte := 0x32
def kRouteSet : Byte := 0x33
def kRouteCommit : Byte := 0x34
def kLeaseReq : Byte := 0x38
def kLeaseGrant : Byte := 0x39
def kLeaseRecall : Byte := 0x3A
def kLeaseRelease : Byte := 0x3B
def kPowerFail : Byte := 0x3E
def kE2eAck : Byte := 0x3F
def kEvent : Byte := 0x40

/-- The virtual channel of a block kind; none for a kind that does not exist (R65). -/
def kindVc (k : Byte) : Option (BitVec 2) :=
  if k = kRegWrite ∨ k = kRegRead ∨ k = kTaskWrite ∨ k = kTensorRead ∨ k = kTensorWrite then some 1
  else if k = kRegReadResp ∨ k = kCompletion ∨ k = kTaskRefused ∨ k = kTensorReadResp ∨ k = kTensorWriteAck ∨ k = kCollScale ∨
    k = kEvent then some 2
  else if k = kCollData ∨ k = kCollRaw then some 3
  else if (0x31 ≤ k ∧ k ≤ 0x34) ∨ (0x38 ≤ k ∧ k ≤ 0x3B) ∨ k = kPowerFail ∨ k = kE2eAck then some 0
  else none

/-- A block kind that exists, on its own virtual channel (R65). -/
def kindGood (b : Block) : Bool := kindVc b.kind == some b.vc

/-! ### Blocks as bytes (R64) -/

/-- The 32 header bytes of a block whose CRC field is `crc`. -/
def headerBytes (b : Block) (hops crc : Nat) : List Byte :=
  leBytes 2 b.dst.toNat ++ leBytes 2 b.src.toNat ++ [b.kind] ++
  leBytes 1 (b.vc.toNat + 4 * b.bcast.toNat + 16 * hops) ++
  leBytes 2 b.seq.toNat ++ leBytes 2 b.ackSeq.toNat ++
  leBytes 2 (b.ackVc.toNat + flagAt b.ackValid 2 + flagAt b.opens 3 + flagAt b.host 4 + 32 * b.ep.toNat) ++
  leBytes 2 b.body.length ++ leBytes 2 b.scaleRef.toNat ++ leBytes 8 b.target.toNat ++ leBytes 4 b.tag.toNat ++ leBytes 4 crc

/-- A block as bytes (R64). -/
def blockBytes (b : Block) : List Byte := headerBytes b b.hops.toNat b.bcrc.toNat ++ b.body

/-- BCRC of a block: CRC-32 over header and body with BCRC and HOPS_LEFT as zero (R64). -/
def blockCrc (b : Block) : BitVec 32 := crc32 (headerBytes b 0 0 ++ b.body)

/-- The block with its BCRC filled in. -/
def sealBlock (b : Block) : Block := { b with bcrc := blockCrc b }

/-- The BCRC holds. -/
def crcHolds (b : Block) : Bool := b.bcrc == blockCrc b

/-- Body length that a header announces (R64). -/
def bodyLength (l : List Byte) : Nat := leAt l 12 2 % 8192

/-- The block that `l` spells, when `l` is a whole header and the body it announces (R64). -/
def readBlock (l : List Byte) : Option Block :=
  if l.length < 32 then none
  else if l.length ≠ 32 + bodyLength l then none
  else
    let f5 := leAt l 5 1
    let f10 := leAt l 10 2
    some
      { dst := BitVec.ofNat 16 (leAt l 0 2), src := BitVec.ofNat 16 (leAt l 2 2), kind := BitVec.ofNat 8 (leAt l 4 1),
        vc := BitVec.ofNat 2 f5, bcast := BitVec.ofNat 2 (f5 / 4), hops := BitVec.ofNat 4 (f5 / 16),
        seq := BitVec.ofNat 16 (leAt l 6 2), ackSeq := BitVec.ofNat 16 (leAt l 8 2), ackVc := BitVec.ofNat 2 f10,
        ackValid := f10.testBit 2, opens := f10.testBit 3, host := f10.testBit 4, ep := BitVec.ofNat 4 (f10 / 32),
        scaleRef := BitVec.ofNat 16 (leAt l 14 2), target := BitVec.ofNat 64 (leAt l 16 8), tag := BitVec.ofNat 32 (leAt l 24 4),
        bcrc := BitVec.ofNat 32 (leAt l 28 4), body := l.drop 32 }

/-- An empty block to a destination: kind, its virtual channel, and defaults of the source (R64). -/
def newBlock (src dst : Addr) (kind : Byte) : Block :=
  { dst, src, kind, vc := (kindVc kind).getD 0, bcast := 0, hops := 15, seq := 0, ackSeq := 0, ackVc := 0, ackValid := false,
    opens := false, host := false, ep := 0, scaleRef := 0, target := 0, tag := 0, bcrc := 0, body := [] }

/-! ### Frame headers (R54) -/

/-- A frame header. -/
structure FrameHead where
  type : BitVec 6
  vc : BitVec 2
  trCredit : BitVec 9
  trEp : BitVec 4
  trValid : Bool
  nak : Bool
  first : BitVec 9
  no : BitVec 16
  ack : BitVec 16
  /-- CREDIT0 to CREDIT3 -/
  credits : List Nat
  fcrc : BitVec 32
deriving DecidableEq, Repr

/-- The 16 header bytes with FCRC as given (R54). -/
def frameHeadBytes (h : FrameHead) (crc : Nat) : List Byte :=
  leBytes 4 (h.type.toNat + 64 * h.vc.toNat + 256 * h.trCredit.toNat + 131072 * h.trEp.toNat + flagAt h.trValid 21 +
    flagAt h.nak 22 + 8388608 * h.first.toNat) ++
  leBytes 2 h.no.toNat ++ leBytes 2 h.ack.toNat ++
  leBytes 1 (h.credits.getD 0 0) ++ leBytes 1 (h.credits.getD 1 0) ++ leBytes 1 (h.credits.getD 2 0) ++
  leBytes 1 (h.credits.getD 3 0) ++ leBytes 4 crc

/-- FCRC of a frame: CRC-32C over the 272 content bytes with FCRC as zero (R54). -/
def frameCrc (h : FrameHead) (payload : List Byte) : BitVec 32 := crc32c (frameHeadBytes h 0 ++ payload)

/-- The 272 content bytes of a frame, with its FCRC (R52, R54). -/
def frameContent (h : FrameHead) (payload : List Byte) : List Byte :=
  frameHeadBytes h (frameCrc h payload).toNat ++ payload

/-- The header of 272 content bytes (R54). -/
def readFrameHead (l : List Byte) : FrameHead :=
  let w := leAt l 0 4
  { type := BitVec.ofNat 6 w, vc := BitVec.ofNat 2 (w / 64), trCredit := BitVec.ofNat 9 (w / 256), trEp := BitVec.ofNat 4 (w / 131072),
    trValid := w.testBit 21, nak := w.testBit 22, first := BitVec.ofNat 9 (w / 8388608), no := BitVec.ofNat 16 (leAt l 4 2),
    ack := BitVec.ofNat 16 (leAt l 6 2), credits := [leAt l 8 1, leAt l 9 1, leAt l 10 1, leAt l 11 1],
    fcrc := BitVec.ofNat 32 (leAt l 12 4) }

/-! ### Command blocks (R97) -/

/-- The 128 bytes of a command block; the fields that a relay header or task register supplies are not part of it (R97). -/
def commandBytes (c : Cmd) : List Byte :=
  withCrc ([c.opcode] ++ leBytes 1 (flagAt c.fence 0) ++ leBytes 2 c.tag.toNat ++ leBytes 2 c.exec.toNat ++ zeros 2 ++
    leBytes 8 c.tensor.toNat ++ leBytes 8 c.hostAddr.toNat ++ leBytes 4 c.length.toNat ++ zeros 4 ++ fitBytes 92 c.param)

/-- The command that 128 bytes spell, held for endpoint `ep`, register `reg` and epoch of the rook at `rook` (R97). -/
def readCommand (rook : Addr) (ep : BitVec 4) (reg : BitVec 8) (epoch : BitVec 4) (l : List Byte) : Cmd :=
  { rook, ep, reg, epoch, opcode := BitVec.ofNat 8 (leAt l 0 1), fence := (leAt l 1 1).testBit 0, tag := BitVec.ofNat 16 (leAt l 2 2),
    exec := BitVec.ofNat 16 (leAt l 4 2), tensor := BitVec.ofNat 64 (leAt l 8 8), hostAddr := BitVec.ofNat 64 (leAt l 16 8),
    length := BitVec.ofNat 32 (leAt l 24 4), param := bytesAt l 32 92 }

/-- CCRC holds over bytes 0 to 123 (R97). -/
def commandCrcHolds (l : List Byte) : Bool := bytesAt l 124 4 == crcBytes (bytesAt l 0 124)

/-- Field of `n` bytes at command-block offset `o` (32 to 123) of the parameters. -/
def par (c : Cmd) (o n : Nat) : Nat := leAt c.param (o - 32) n

/-- Bytes of the parameters at command-block offset `o`. -/
def parBytes (c : Cmd) (o n : Nat) : List Byte := bytesAt c.param (o - 32) n

/-! ### Completion records (R107) -/

/-- A completion record of 64 bytes (R107). -/
def recordBytes (exec : Addr) (c : Cmd) (e : Ending) : List Byte :=
  withCrc (leBytes 2 c.tag.toNat ++ [e.status] ++ [c.opcode] ++ leBytes 2 exec.toNat ++ leBytes 1 c.reg.toNat ++
    leBytes 1 (c.ep.toNat + 16 * c.epoch.toNat) ++ leBytes 2 e.conds.toNat ++ zeros 2 ++ leBytes 4 e.len ++ leBytes 8 e.count ++
    leBytes 8 e.pips ++ leBytes 8 e.err.toNat ++ fitBytes 20 e.result)

/-- The endpoint epoch in a record. -/
def recordEpoch (r : List Byte) : BitVec 4 := BitVec.ofNat 4 (leAt r 7 1 / 16)
/-- The endpoint in a record. -/
def recordEp (r : List Byte) : BitVec 4 := BitVec.ofNat 4 (leAt r 7 1)
/-- The task register in a record. -/
def recordReg (r : List Byte) : BitVec 8 := BitVec.ofNat 8 (leAt r 6 1)

/-- The RESULT bytes from their command-record offsets: (offset, bytes) pairs placed over zeros (R107). -/
def resultOf (parts : List (Nat × List Byte)) : List Byte :=
  parts.foldl (fun r p => fitBytes 20 (putBytes r (p.1 - 40) p.2)) (zeros 20)

/-! ### Notices (R444) -/

/-- The 64 bytes of a notice (R444). -/
def noticeBytes (source : Addr) (seq : Nat) (lostBefore : Bool) (n : Notice) : List Byte :=
  withCrc (leBytes 2 n.code.toNat ++ [n.sev] ++ leBytes 1 (flagAt lostBefore 0) ++ leBytes 2 source.toNat ++
    leBytes 2 (min n.coalesced 65535) ++ leBytes 8 n.turn ++ leBytes 8 seq ++ fitBytes 32 n.detail ++ zeros 4)

end Sys2Proof.Machine
end

