-- ==== Sys2Proof/Machine/Frac.lean ====
section
/-!
DEFINITION. Exact real arithmetic on fractions, and the roundings to an integer and to a binary format (R201, R205).
-/
namespace Sys2Proof.Machine

/-- An exact rational: `num / den`, with `den` positive. -/
structure Frac where
  num : Int
  den : Nat
deriving DecidableEq, Repr

/-- An integer as a fraction. -/
def fracOf (n : Int) : Frac := { num := n, den := 1 }

/-- `n` times a power of two. -/
def fracPow (n : Int) (e : Int) : Frac :=
  if 0 ≤ e then { num := n * 2 ^ e.toNat, den := 1 } else { num := n, den := 2 ^ (-e).toNat }

/-- Sum. -/
def fadd (a b : Frac) : Frac :=
  if a.den = b.den then { num := a.num + b.num, den := a.den }
  else if a.den % b.den = 0 then { num := a.num + b.num * (a.den / b.den : Nat), den := a.den }
  else if b.den % a.den = 0 then { num := a.num * (b.den / a.den : Nat) + b.num, den := b.den }
  else { num := a.num * b.den + b.num * a.den, den := a.den * b.den }

/-- Negation. -/
def fneg (a : Frac) : Frac := { a with num := -a.num }
/-- Difference. -/
def fsub (a b : Frac) : Frac := fadd a (fneg b)
/-- Product. -/
def fmul (a b : Frac) : Frac := { num := a.num * b.num, den := a.den * b.den }
/-- Quotient by a non-zero fraction. -/
def fdiv (a b : Frac) : Frac :=
  if b.num < 0 then { num := -(a.num * b.den), den := a.den * b.num.natAbs }
  else { num := a.num * b.den, den := a.den * b.num.natAbs }
/-- Magnitude. -/
def fabs (a : Frac) : Frac := { a with num := (a.num.natAbs : Int) }
/-- Strict order. -/
def flt (a b : Frac) : Bool := decide (a.num * b.den < b.num * a.den)
/-- Order. -/
def fle (a b : Frac) : Bool := decide (a.num * b.den ≤ b.num * a.den)
/-- The value is zero. -/
def fzero (a : Frac) : Bool := a.num == 0

/-- Floor. -/
def ffloor (a : Frac) : Int := a.num / (a.den : Int)

/-- rne_int: the nearest integer, a tie to the even one (R205). -/
def rneInt (a : Frac) : Int :=
  let q := ffloor a
  let r := a.num - q * a.den
  if 2 * r < a.den then q else if (a.den : Int) < 2 * r then q + 1 else if q % 2 = 0 then q else q + 1

/-- The smallest integer at or above. -/
def fceil (a : Frac) : Int := -(ffloor (fneg a))

/-- floor(log2 x) of a positive fraction. -/
def flog2 (a : Frac) : Int :=
  let n := a.num.natAbs
  let l : Int := (Nat.log2 n : Int) - (Nat.log2 a.den : Int)
  if 0 ≤ l then (if n < a.den * 2 ^ l.toNat then l - 1 else l)
  else (if n * 2 ^ (-l).toNat < a.den then l - 1 else l)

/-- Magnitude code of a positive fraction rounded by `rnd` to a format with `fbits` fraction bits, 8 exponent bits of bias 127 and
gradual underflow; 255 x 2^fbits stands for infinity (R205, R223). -/
def roundCode (rnd : Frac → Int) (fbits : Nat) (a : Frac) : Nat :=
  let e := max (flog2 a) (-126)
  let n := (rnd (fmul a (fracPow 1 (fbits - e)))).toNat
  min ((e + 126).toNat * 2 ^ fbits + n) (255 * 2 ^ fbits)

/-- The value of a magnitude code. -/
def codeValue (fbits : Nat) (code : Nat) : Frac :=
  let e := code / 2 ^ fbits
  let f := code % 2 ^ fbits
  if e = 0 then fracPow f (-126 - fbits) else fracPow (2 ^ fbits + f : Nat) ((e : Int) - 127 - fbits)

end Sys2Proof.Machine
end

