-- ==== Sys2Proof/Machine/Fp.lean ====
section
/-!
DEFINITION. binary32 and X48 arithmetic of the vector unit (R205, R208, R209, R215, R216, R223, R224).
-/
namespace Sys2Proof.Machine

/-- A binary32 value. -/
abbrev F32 := BitVec 32

/-- The canonical NaN (R208). -/
def nan32 : F32 := 0x7FC00000
def inf32 : F32 := 0x7F800000
def negInf32 : F32 := 0xFF800000
def negZero32 : F32 := 0x80000000
def one32 : F32 := 0x3F800000

/-- Sign bit. -/
def neg32 (a : F32) : Bool := a.getLsbD 31
/-- Magnitude bits. -/
def mag32 (a : F32) : Nat := a.toNat % 2 ^ 31
/-- NaN. -/
def isNan (a : F32) : Bool := decide (0x7F800000 < mag32 a)
/-- Infinite. -/
def isInf (a : F32) : Bool := mag32 a == 0x7F800000
/-- Finite. -/
def isFin (a : F32) : Bool := decide (mag32 a < 0x7F800000)
/-- Zero of either sign. -/
def isZero32 (a : F32) : Bool := mag32 a == 0

/-- Exact value of a finite binary32. -/
def val32 (a : F32) : Frac :=
  let v := codeValue 23 (mag32 a)
  if neg32 a then fneg v else v

/-- A binary32 from sign and magnitude code. -/
def pack32 (neg : Bool) (code : Nat) : F32 := BitVec.ofNat 32 (code + (if neg then 2 ^ 31 else 0))

/-- rne32 of an exact value; `nz` is the sign of an exact zero (R205). -/
def rne32z (nz : Bool) (a : Frac) : F32 :=
  if fzero a then pack32 nz 0 else pack32 (decide (a.num < 0)) (roundCode rneInt 23 (fabs a))

/-- rne32 with +0 for an exact zero (R205). -/
def rne32 (a : Frac) : F32 := rne32z false a

/-! ### Instructions (R208) -/

/-- Add. -/
def add32 (a b : F32) : F32 :=
  if isNan a || isNan b then nan32
  else if isInf a then (if isInf b && neg32 a != neg32 b then nan32 else a)
  else if isInf b then b
  else if isZero32 a && isZero32 b then (if neg32 a && neg32 b then negZero32 else 0)
  else rne32 (fadd (val32 a) (val32 b))

/-- Sign inverted; NaN gives the canonical NaN. -/
def neg32f (a : F32) : F32 := if isNan a then nan32 else a ^^^ 0x80000000
/-- Sign cleared; NaN gives the canonical NaN. -/
def abs32 (a : F32) : F32 := if isNan a then nan32 else BitVec.ofNat 32 (mag32 a)
/-- Subtract. -/
def sub32 (a b : F32) : F32 := if isNan b then nan32 else add32 a (neg32f b)

/-- Multiply. -/
def mul32 (a b : F32) : F32 :=
  let s := neg32 a != neg32 b
  if isNan a || isNan b then nan32
  else if isInf a || isInf b then (if isZero32 a || isZero32 b then nan32 else pack32 s 0x7F800000)
  else rne32z s (fmul (val32 a) (val32 b))

/-- Divide. -/
def div32 (a b : F32) : F32 :=
  let s := neg32 a != neg32 b
  if isNan a || isNan b then nan32
  else if isInf a then (if isInf b then nan32 else pack32 s 0x7F800000)
  else if isInf b then pack32 s 0
  else if isZero32 b then (if isZero32 a then nan32 else pack32 s 0x7F800000)
  else rne32z s (fdiv (val32 a) (val32 b))

/-- Fused multiply-add: exact, rounded once. -/
def fma32 (a b c : F32) : F32 :=
  let s := neg32 a != neg32 b
  if isNan a || isNan b || isNan c then nan32
  else if isInf a || isInf b then
    if isZero32 a || isZero32 b then nan32
    else if isInf c && neg32 c != s then nan32
    else pack32 s 0x7F800000
  else if isInf c then c
  else
    let p := fmul (val32 a) (val32 b)
    if fzero p && isZero32 c then pack32 (s && neg32 c) 0
    else rne32 (fadd p (val32 c))

/-- A total order on the values other than NaN, with -0 below +0. -/
def order32 (a : F32) : Int := if neg32 a then -(mag32 a : Int) - 1 else mag32 a

/-- Maximum: NaN if either is NaN (R208). -/
def max32 (a b : F32) : F32 := if isNan a || isNan b then nan32 else if order32 a < order32 b then b else a
/-- Minimum: NaN if either is NaN (R208). -/
def min32 (a b : F32) : F32 := if isNan a || isNan b then nan32 else if order32 b < order32 a then b else a

/-- IEEE 754 comparison a > b; NaN compares false. -/
def gt32 (a b : F32) : Bool :=
  if isNan a || isNan b then false
  else if isZero32 a && isZero32 b then false
  else decide (order32 b < order32 a)

/-- IEEE 754 equality; -0 equals +0. -/
def eq32 (a b : F32) : Bool := !isNan a && !isNan b && (a == b || (isZero32 a && isZero32 b))

/-- binary32 to int32 (R208). -/
def toInt32 (a : F32) : Int :=
  if isNan a then 0
  else if isInf a then (if neg32 a then -2147483648 else 2147483647)
  else max (-2147483648) (min 2147483647 (rneInt (val32 a)))

/-- int32 to binary32 (R208). -/
def ofInt32 (n : Int) : F32 := rne32 (fracOf n)

/-! ### Pairwise trees (R209) -/

/-- One level: neighbours are joined, a lone last value passes. -/
def treeLevel {α : Type} (f : Nat → α → α → α) : Nat → List α → List α
  | i, a :: b :: t => f i a b :: treeLevel f (i + 1) t
  | _, l => l

/-- The tree, level by level; `f level position left right` joins. `fuel` bounds the levels. -/
def treeUp {α : Type} (f : Nat → Nat → α → α → α) : Nat → Nat → List α → List α
  | 0, _, l => l
  | fuel + 1, level, l =>
    match l with
    | [] => []
    | [a] => [a]
    | _ => treeUp f fuel (level + 1) (treeLevel (f level) 0 l)

/-- The binary32 sum of R209 of a non-empty list; +0 of an empty one. -/
def sum32 (l : List F32) : F32 := (treeUp (fun _ _ => add32) 33 1 l).headD 0

/-! ### Rolls and stochastic rounding (R214 to R216) -/

/-- mix of R216. -/
def mix64 (z : Word) : Word :=
  let z := z ^^^ (z >>> 31)
  let z := z * 0x9E6C63D0676A9A99
  let z := z ^^^ (z >>> 29)
  let z := z * 0xD2B74407B1CE6E93
  z ^^^ (z >>> 32)

/-- The roll of R216. -/
def roll (seed : Word) (site step : BitVec 32) (element : Nat) (node : BitVec 32) : BitVec 24 :=
  let z := mix64 (seed ^^^ 0x4A58563600000001)
  let z := mix64 (z ^^^ (site.zeroExtend 64 <<< 32) ^^^ step.zeroExtend 64)
  let z := mix64 (z ^^^ BitVec.ofNat 64 element)
  let z := mix64 (z ^^^ node.zeroExtend 64)
  (z >>> 40).truncate 24

/-- sr32 of a non-zero exact value with roll `u` (R215). -/
def sr32 (a : Frac) (u : BitVec 24) : F32 :=
  let m := fabs a
  let neg := decide (a.num < 0)
  if fle (fracPow 1 128) m then pack32 neg 0x7F800000
  else
    let code := min (roundCode ffloor 23 m) 0x7F7FFFFF
    let lo := codeValue 23 code
    if fzero (fsub m lo) then pack32 neg code
    else
      let hi := codeValue 23 (code + 1)
      let f := ffloor (fmul (fdiv (fsub m lo) (fsub hi lo)) (fracOf (2 ^ 24)))
      pack32 neg (if (u.toNat : Int) < f then code + 1 else code)

/-- A combining node of R214: exact sum, stochastically rounded (R215). -/
def srAdd (u : BitVec 24) (a b : F32) : F32 :=
  if !isFin a || !isFin b then add32 a b
  else
    let s := fadd (val32 a) (val32 b)
    if fzero s then (if isZero32 a && isZero32 b && neg32 a && neg32 b then negZero32 else 0) else sr32 s u

/-- The key of the rolls of one output element: seed, site, step and element (R216). -/
structure RollKey where
  seed : Word
  site : BitVec 32
  step : BitVec 32
  element : Nat
deriving DecidableEq, Repr

/-- The roll of a node. -/
def rollAt (k : RollKey) (node : Nat) : BitVec 24 := roll k.seed k.site k.step k.element (BitVec.ofNat 32 node)

/-- The tree over leaves with stochastic rounding at every combining node (R214). -/
def srTree (k : RollKey) (leaves : List F32) : F32 :=
  (treeUp (fun level i => srAdd (rollAt k (level * 2 ^ 24 + i))) 33 1 leaves).headD 0

/-- The binary32 sum of any number of values: R209 up to 65,536, R214 beyond. -/
def longSum32 (k : RollKey) (l : List F32) : F32 :=
  if l.length ≤ 65536 then sum32 l else srTree k ((pieces 65536 l).map sum32)

/-! ### X48 (R223, R224) -/

/-- binary32 to X48: 16 zero fraction bits (R223); NaN becomes the canonical one. -/
def toX48 (a : F32) : BitVec 48 := if isNan a then 0x7FC000000000 else a.zeroExtend 48 <<< 16

/-- NaN in X48. -/
def nanX48 (a : BitVec 48) : Bool := decide (0x7F8000000000 < a.toNat % 2 ^ 47)
/-- Infinity in X48. -/
def infX48 (a : BitVec 48) : Bool := a.toNat % 2 ^ 47 == 0x7F8000000000
/-- Sign in X48. -/
def negX48 (a : BitVec 48) : Bool := a.getLsbD 47
/-- Exact value of a finite X48. -/
def valX48 (a : BitVec 48) : Frac :=
  let v := codeValue 39 (a.toNat % 2 ^ 47)
  if negX48 a then fneg v else v

/-- X48 to binary32 by rne32 (R223). -/
def ofX48 (a : BitVec 48) : F32 :=
  if nanX48 a then nan32
  else if infX48 a then pack32 (negX48 a) 0x7F800000
  else rne32z (negX48 a) (valX48 a)

/-- An X48 from sign and magnitude code. -/
def packX48 (neg : Bool) (code : Nat) : BitVec 48 := BitVec.ofNat 48 (code + (if neg then 2 ^ 47 else 0))

/-- The master update rne48(w + d) (R224). -/
def masterUpdate (w : BitVec 48) (d : F32) : BitVec 48 :=
  if nanX48 w || isNan d then 0x7FC000000000
  else if infX48 w then (if isInf d && neg32 d != negX48 w then 0x7FC000000000 else w)
  else if isInf d then toX48 d
  else
    let s := fadd (valX48 w) (val32 d)
    if fzero s then packX48 (negX48 w && neg32 d && fzero (valX48 w)) 0
    else packX48 (decide (s.num < 0)) (roundCode rneInt 39 (fabs s))

/-! ### Bytes -/

/-- binary32 at a byte offset. -/
def f32At (l : List Byte) (o : Nat) : F32 := BitVec.ofNat 32 (leAt l o 4)
/-- Bytes of a binary32. -/
def f32Bytes (a : F32) : List Byte := leBytes 4 a.toNat
/-- Cut a byte string into binary32 values. -/
def f32List : List Byte → List F32
  | a :: b :: c :: d :: t => BitVec.ofNat 32 (leNat [a, b, c, d]) :: f32List t
  | _ => []

end Sys2Proof.Machine
end

