-- ==== Sys2Proof/Machine/MathFn.lean ====
section
/-!
DEFINITION. The element-wise functions of R241, each the exact value rounded once (R242). SQRT and RSQRT come from integer square
roots; EXP to GELU from intervals that are narrowed until both ends round to the same value.
-/
namespace Sys2Proof.Machine

/-! ### Square roots -/

/-- Integer square root by bits: `fuel` bits from the top down. -/
def isqrtF (n : Nat) : Nat → Nat → Nat
  | 0, r => r
  | k + 1, r => let t := r + 2 ^ k; isqrtF n k (if t * t ≤ n then t else r)

/-- Integer square root. -/
def isqrt (n : Nat) : Nat := isqrtF n (Nat.log2 n / 2 + 1) 0

/-- Round the square root of a positive fraction: 40 bits below the result's place, with a sticky bit, decide every case. -/
def sqrtFrac (a : Frac) : Frac :=
  let e := flog2 a / 2
  let k := (64 - e).toNat
  let t := a.num.natAbs * 4 ^ k / a.den
  let s := isqrt t
  let exact := s * s == t && t * a.den == a.num.natAbs * 4 ^ k
  fracPow (2 * s + (if exact then 0 else 1) : Nat) (-(k : Int) - 1)

/-! ### Intervals in fixed point -/

/-- An interval of reals: the ends in units of 2^-p. -/
structure Ival where
  lo : Int
  hi : Int
deriving DecidableEq, Repr

/-- Rounded-up quotient. -/
def cdiv (a : Int) (b : Int) : Int := -((-a) / b)

/-- Interval of a fraction. -/
def ivOf (p : Nat) (a : Frac) : Ival := { lo := a.num * 2 ^ p / (a.den : Int), hi := cdiv (a.num * 2 ^ p) a.den }
/-- Interval sum. -/
def ivAdd (a b : Ival) : Ival := { lo := a.lo + b.lo, hi := a.hi + b.hi }
/-- Product of intervals of non-negative numbers. -/
def ivMul (p : Nat) (a b : Ival) : Ival := { lo := a.lo * b.lo / 2 ^ p, hi := cdiv (a.hi * b.hi) (2 ^ p) }
/-- Quotient of a non-negative interval by a positive one. -/
def ivDiv (p : Nat) (a b : Ival) : Ival := { lo := a.lo * 2 ^ p / b.hi, hi := cdiv (a.hi * 2 ^ p) b.lo }
/-- The number one. -/
def ivOne (p : Nat) : Ival := { lo := 2 ^ p, hi := 2 ^ p }

/-- Sum of a series of non-negative terms, term n+1 being term n times `ratio n`; the ratios have fallen below one half for good
when the loop ends. -/
def seriesF (p : Nat) (ratio : Nat → Frac) : Nat → Nat → Ival → Ival → Ival
  | 0, _, t, s => ivAdd s { lo := 0, hi := 2 * t.hi + 2 }
  | fuel + 1, n, t, s =>
    let r := ratio n
    let t' : Ival := { lo := t.lo * r.num / (r.den : Int), hi := cdiv (t.hi * r.num) r.den }
    if t'.hi ≤ 1 ∧ 2 * r.num ≤ r.den then ivAdd s { lo := 0, hi := 4 } else seriesF p ratio fuel (n + 1) t' (ivAdd s t')

/-- Square an interval `k` times. -/
def ivSquares (p : Nat) : Nat → Ival → Ival
  | 0, a => a
  | k + 1, a => ivSquares p k (ivMul p a a)

/-- e^x for a non-negative fraction: the series at x / 2^k, squared k times. -/
def ivExp (p : Nat) (x : Frac) : Ival :=
  let k := (flog2 x + 4).toNat
  let r : Frac := { x with den := x.den * 2 ^ k }
  ivSquares p k (seriesF p (fun n => { num := r.num, den := r.den * (n + 1) }) (4 * p) 0 (ivOne p) (ivOne p))

/-- 2 atanh(z) for 0 <= z <= 1/3. -/
def ivAtanh2 (p : Nat) (z : Frac) : Ival :=
  let z2 := fmul z z
  let t : Ival := ivOf p { z with num := 2 * z.num }
  seriesF p (fun n => { num := z2.num * (2 * n + 1 : Nat), den := z2.den * (2 * n + 3) }) (4 * p) 0 t t

/-- ln 2. -/
def ivLn2 (p : Nat) : Ival := ivAtanh2 p { num := 1, den := 3 }

/-- ln x for a positive fraction x = m 2^e with 1 <= m < 2. -/
def ivLn (p : Nat) (x : Frac) : Ival :=
  let e := flog2 x
  let m := fmul x (fracPow 1 (-e))
  let z := fdiv (fsub m (fracOf 1)) (fadd m (fracOf 1))
  let a := if fzero z then { lo := 0, hi := 0 } else ivAtanh2 p z
  let l := ivLn2 p
  if 0 ≤ e then { lo := a.lo + e * l.lo, hi := a.hi + e * l.hi } else { lo := a.lo + e * l.hi, hi := a.hi + e * l.lo }

/-- arctan of 1/n by its alternating series, as the sum of its even and the sum of its odd terms. -/
def ivAtanInv (p n : Nat) : Ival :=
  let sq := n * n
  let t : Ival := ivOf p { num := 1, den := n }
  let u : Ival := ivOf p { num := 1, den := 3 * n * sq }
  let even := seriesF p (fun k => { num := (4 * k + 1 : Nat), den := (4 * k + 5) * sq * sq }) (4 * p) 0 t t
  let odd := seriesF p (fun k => { num := (4 * k + 3 : Nat), den := (4 * k + 7) * sq * sq }) (4 * p) 0 u u
  { lo := even.lo - odd.hi, hi := even.hi - odd.lo }

/-- The square root of 2/pi, with pi from Machin's formula. -/
def ivRootTwoOverPi (p : Nat) : Ival :=
  let a := ivAtanInv p 5
  let b := ivAtanInv p 239
  let pi : Ival := { lo := 16 * a.lo - 4 * b.hi, hi := 16 * a.hi - 4 * b.lo }
  let q := ivDiv p { lo := 2 * 2 ^ p, hi := 2 * 2 ^ p } pi
  { lo := isqrt (q.lo.toNat * 2 ^ p), hi := isqrt (q.hi.toNat * 2 ^ p) + 1 }

/-- erf(x / sqrt 2) for a positive x: sqrt(2/pi) e^(-x^2/2) times the sum of x^(2n+1) / (2n+1)!!. -/
def ivErfHalf (p : Nat) (x : Frac) : Ival :=
  let x2 := fmul x x
  let t := ivOf p x
  let s := seriesF p (fun n => { num := x2.num, den := x2.den * (2 * n + 3) }) (8 * p) 0 t t
  let d := ivExp p { x2 with den := 2 * x2.den }
  ivDiv p (ivMul p (ivRootTwoOverPi p) s) d

/-! ### Rounding an interval -/

/-- Narrow an interval, doubling its precision, until both ends round alike. The ends are those of a magnitude. -/
def roundIval (f : Nat → Ival) (neg : Bool) : Nat → Nat → F32
  | 0, p => rne32z neg (let v := fracPow (f p).lo (-(p : Int)); if neg then fneg v else v)
  | fuel + 1, p =>
    let i := f p
    let up (n : Int) : F32 := let v := fracPow (max n 0) (-(p : Int)); rne32z neg (if neg then fneg v else v)
    if up i.lo = up i.hi ∧ 0 < i.lo then up i.lo else roundIval f neg fuel (2 * p)

/-- Round from 96 bits on. -/
def roundFrom (f : Nat → Ival) (neg : Bool) : F32 := roundIval f neg 6 96

/-- sigmoid of x: 1 / (1 + e^-x). -/
def ivSigmoid (p : Nat) (x : Frac) : Ival :=
  let e := ivExp p (fabs x)
  if x.num < 0 then ivDiv p (ivOne p) (ivAdd (ivOne p) e) else ivDiv p e (ivAdd (ivOne p) e)

/-! ### The functions (R241, R242) -/

def sqrt32 (a : F32) : F32 :=
  if isNan a then nan32
  else if isZero32 a then a
  else if neg32 a then nan32
  else if isInf a then a
  else rne32 (sqrtFrac (val32 a))

def rsqrt32 (a : F32) : F32 :=
  if isNan a then nan32
  else if isZero32 a then pack32 (neg32 a) 0x7F800000
  else if neg32 a then nan32
  else if isInf a then 0
  else rne32 (sqrtFrac (fdiv (fracOf 1) (val32 a)))

def recip32 (a : F32) : F32 := div32 one32 a

def exp32 (a : F32) : F32 :=
  if isNan a then nan32
  else if isInf a then (if neg32 a then 0 else inf32)
  else if isZero32 a then one32
  else
    let x := val32 a
    if flt (fracOf 100) x then inf32
    else if flt x (fracOf (-110)) then 0
    else roundFrom (fun p => if neg32 a then ivDiv p (ivOne p) (ivExp p (fabs x)) else ivExp p x) false

def log32 (a : F32) : F32 :=
  if isNan a then nan32
  else if isZero32 a then negInf32
  else if neg32 a then nan32
  else if isInf a then a
  else if a = one32 then 0
  else
    let x := val32 a
    if flt x (fracOf 1) then roundFrom (fun p => ivLn p (fdiv (fracOf 1) x)) true else roundFrom (fun p => ivLn p x) false

def tanh32 (a : F32) : F32 :=
  if isNan a then nan32
  else if isZero32 a then a
  else if isInf a || flt (fracOf 20) (fabs (val32 a)) then pack32 (neg32 a) 0x3F800000
  else
    let x := fabs (val32 a)
    roundFrom (fun p =>
      let e := ivExp p (fmul x (fracOf 2))
      ivDiv p { lo := e.lo - 2 ^ p, hi := e.hi - 2 ^ p } (ivAdd e (ivOne p))) (neg32 a)

def sigmoid32 (a : F32) : F32 :=
  if isNan a then nan32
  else if isInf a then (if neg32 a then 0 else one32)
  else if isZero32 a then 0x3F000000
  else
    let x := val32 a
    if flt (fracOf 110) x then one32
    else if flt x (fracOf (-110)) then 0
    else roundFrom (fun p => ivSigmoid p x) false

def silu32 (a : F32) : F32 :=
  if isNan a then nan32
  else if isInf a then (if neg32 a then negZero32 else inf32)
  else if isZero32 a then a
  else
    let x := val32 a
    if flt (fracOf 120) x then a
    else if flt x (fracOf (-120)) then negZero32
    else roundFrom (fun p => ivMul p (ivOf p (fabs x)) (ivSigmoid p x)) (neg32 a)

def gelu32 (a : F32) : F32 :=
  if isNan a then nan32
  else if isInf a then (if neg32 a then negZero32 else inf32)
  else if isZero32 a then a
  else
    let x := val32 a
    if flt (fracOf 16) x then a
    else if flt x (fracOf (-16)) then negZero32
    else roundFrom (fun p =>
      let e := ivErfHalf p (fabs x)
      let s : Ival := if neg32 a then { lo := 2 ^ p - e.hi, hi := 2 ^ p - e.lo } else { lo := 2 ^ p + e.lo, hi := 2 ^ p + e.hi }
      ivMul p (ivOf p (fmul (fabs x) { num := 1, den := 2 })) s) (neg32 a)

/-- RELU: MAX(a, +0). -/
def relu32 (a : F32) : F32 := max32 a 0

/-- The unary functions of R241 by code, which MATMUL takes as activation; none for any other code. -/
def unary32 (code : Nat) : Option (F32 → F32) :=
  match code with
  | 0x08 => some relu32
  | 0x09 => some abs32
  | 0x0A => some neg32f
  | 0x0B => some fun a => mul32 a a
  | 0x0C => some sqrt32
  | 0x0D => some rsqrt32
  | 0x0E => some recip32
  | 0x0F => some exp32
  | 0x10 => some log32
  | 0x11 => some tanh32
  | 0x12 => some sigmoid32
  | 0x13 => some silu32
  | 0x14 => some gelu32
  | _ => none

/-- f(a, b, c') of R241 by code. -/
def ew32 (code : Nat) (a b c : F32) : F32 :=
  match code with
  | 0x00 => add32 a b
  | 0x01 => sub32 a b
  | 0x02 => mul32 a b
  | 0x03 => div32 a b
  | 0x04 => fma32 a b c
  | 0x05 => min32 a b
  | 0x06 => max32 a b
  | 0x07 => min32 (max32 a b) c
  | k => (unary32 k).elim a fun f => f a

/-- Operands that a function reads besides a (R241). -/
def ewArity (code : Nat) : Nat := if code = 0x04 ∨ code = 0x07 then 3 else if code ≤ 0x06 then 2 else 1

/-- c_f: instructions for each 64 elements (R241). -/
def ewCost (code : Nat) : Nat :=
  [1, 1, 1, 4, 1, 1, 1, 2, 1, 1, 1, 1, 4, 4, 2, 6, 6, 8, 8, 9, 10].getD code 0

end Sys2Proof.Machine
end

