-- ==== Sys2Proof/Machine/Scale.lean ====
section
/-!
DEFINITION. SC16 scales, conversion to A16 and L8, narrowing to I1 to I8, and packed rows (R204, R206, R210, R217, R219, R225).
-/
namespace Sys2Proof.Machine

/-! ### SC16 (R204, R205) -/

/-- A well-formed SC16 code (R204). -/
def scGood (c : Nat) : Bool := c == 0 || (decide (128 ≤ c) && decide (c < 255 * 128))

/-- The value of a well-formed code; the zero scale is 0 (R204). -/
def scValue (c : Nat) : Frac := if c = 0 then fracOf 0 else codeValue 7 c

/-- Largest code: 255 x 2^120. -/
def scMax : Nat := 0x7F7F

/-- ceil_sc16 of a positive value: code, and whether it was clamped (R205). -/
def ceilSc16 (x : Frac) : Nat × Bool :=
  if fle x (fracPow 1 (-126)) then (128, false)
  else
    let c := roundCode fceil 7 x
    if scMax < c then (scMax, true) else (c, false)

/-- near_sc16 of a positive value: code, and whether the nearest value fell outside the SC16 range and was clamped to it (R205; at
both ends, log entry 43). -/
def nearSc16 (x : Frac) : Nat × Bool :=
  let c := roundCode rneInt 7 x
  if scMax < c then (scMax, true) else if c < 128 then (128, true) else (c, false)

/-- The code of s x 2^j. -/
def scShift (c j : Nat) : Nat := c + 128 * j

/-! ### Conversions with recomputation (R210, R219) -/

/-- What a conversion gives: codes, scale, passes beyond the first, saturation and whether it met a non-finite element (R210 to
R212). -/
structure Conv where
  codes : List Int
  scale : Nat
  passes : Nat
  saturated : Bool
  nonfinite : Bool
deriving DecidableEq, Repr

/-- Code of a non-finite element (R210). -/
def oddCode (limit : Int) (x : F32) : Int := if isNan x then 0 else if neg32 x then -limit else limit

/-- Codes of a row under a scale. -/
def codesAt (limit : Int) (row : List F32) (s : Nat) : List Int :=
  let v := scValue s
  row.map fun x => if isFin x then rneInt (fdiv (val32 x) v) else oddCode limit x

/-- Every code of a finite element lies within the limit. -/
def codesFit (limit : Int) (row : List F32) (codes : List Int) : Bool :=
  (row.zip codes).all fun p => !isFin p.1 || (decide (-limit ≤ p.2) && decide (p.2 ≤ limit))

/-- The passes j, j + 1, ... 3 of R210. -/
def convPasses (limit : Int) (row : List F32) (s0 : Nat) : Nat → Nat → Conv
  | 0, j =>
    let s := scShift s0 (j - 1)
    { codes := (codesAt limit row s).map fun q => max (-limit) (min limit q), scale := s, passes := j - 1, saturated := true,
      nonfinite := row.any fun x => !isFin x }
  | n + 1, j =>
    let s := scShift s0 j
    let q := codesAt limit row s
    let odd := row.any fun x => !isFin x
    if codesFit limit row q then { codes := q, scale := s, passes := j, saturated := odd, nonfinite := odd }
    else convPasses limit row s0 n (j + 1)

/-- Conversion under the zero scale: no non-zero finite element (R210). -/
def convZero (limit : Int) (row : List F32) : Conv :=
  let odd := row.any fun x => !isFin x
  { codes := row.map fun x => if isFin x then 0 else oddCode limit x, scale := 0, passes := 0, saturated := odd, nonfinite := odd }

/-- Largest finite magnitude of a list. -/
def maxFinite (l : List F32) : Nat := l.foldl (fun m x => if isFin x then max m (mag32 x) else m) 0

/-- Largest finite magnitude of the lowest 256-element block with a non-zero finite element; 0 when there is none. -/
def firstBlockMax (row : List F32) : Nat := (((pieces 256 row).map maxFinite).find? (· != 0)).getD 0

/-- Conversion of a token row to A16 (R210). -/
def toA16 (row : List F32) : Conv :=
  let m := firstBlockMax row
  if m = 0 then convZero 32767 row
  else convPasses 32767 row (ceilSc16 (fdiv (codeValue 23 m) (fracOf 32767))).1 4 0

/-- The L8 scale s0 of a row with history `h`; none for the zero scale (R219). -/
def l8Start (h : F32) (row : List F32) : Option Nat :=
  let m := if h = 0 then firstBlockMax row else mag32 h
  if m = 0 then none else some (ceilSc16 (fdiv (codeValue 23 m) (fracOf 127))).1

/-- One L8 block under the row's s0 (R219). -/
def toL8 (s0 : Option Nat) (block : List F32) : Conv :=
  match s0 with
  | none => convZero 127 block
  | some s => convPasses 127 block s 4 0

/-- Decoded L8 value rne32(q x s) (R217). -/
def ofL8 (q : Int) (s : Nat) : F32 := rne32 (fmul (fracOf q) (scValue s))

/-! ### Narrowing (R225) -/

/-- One element of the source of a narrowing: class and exact value. -/
inductive NVal where
  | fin (v : Frac)
  | inf (neg : Bool)
  | nan
deriving DecidableEq, Repr

/-- A binary32 element. -/
def nv32 (a : F32) : NVal := if isNan a then .nan else if isInf a then .inf (neg32 a) else .fin (val32 a)
/-- An X48 element. -/
def nv48 (a : BitVec 48) : NVal := if nanX48 a then .nan else if infX48 a then .inf (negX48 a) else .fin (valX48 a)

/-- Finite magnitudes of a column. -/
def finiteMags (col : List NVal) : List Frac := col.filterMap fun v => match v with
  | .fin x => some (fabs x)
  | _ => none

/-- What narrowing a column gives. -/
structure Narrow where
  codes : List Int
  scale : Nat
  saturated : Bool
  nonfinite : Bool
deriving DecidableEq, Repr

/-- Narrow a column to width w (R225). I1 codes are +1 and -1. -/
def narrowCol (w : Nat) (col : List NVal) : Narrow :=
  let mags := finiteMags col
  let odd := col.any fun v => match v with
    | .fin _ => false
    | _ => true
  let any := mags.any fun x => !fzero x
  if w = 1 then
    let mean := fdiv (mags.foldl fadd (fracOf 0)) (fracOf (max 1 mags.length : Nat))
    let s := if any then nearSc16 mean else (0, false)
    { codes := col.map fun v => match v with
        | .fin x => if x.num < 0 then -1 else 1
        | .inf n => if n then -1 else 1
        | .nan => 1
      scale := s.1, saturated := odd || s.2, nonfinite := odd }
  else
    let limit : Int := 2 ^ (w - 1) - 1
    let m := mags.foldl (fun a b => if flt a b then b else a) (fracOf 0)
    let s := if any then ceilSc16 (fdiv m (fracOf limit)) else (0, false)
    { codes := col.map fun v => match v with
        | .fin x => if any then max (-limit) (min limit (rneInt (fdiv x (scValue s.1)))) else 0
        | .inf n => if n then -limit else limit
        | .nan => 0
      scale := s.1, saturated := odd || s.2, nonfinite := odd }

/-! ### Packed rows (R206, R207) -/

/-- Bytes of a packed row of N elements of w bits (R206). -/
def rowBytes (n w : Nat) : Nat := (n * w + 7) / 8

/-- Stored code of an element: for I1 the bit, else two's complement (R206). -/
def codeBits (w : Nat) (q : Int) : Nat := if w = 1 then (if q < 0 then 0 else 1) else (q % (2 ^ w : Int)).toNat

/-- Element of a stored code (R206). -/
def bitsCode (w : Nat) (b : Nat) : Int :=
  if w = 1 then (if b = 0 then -1 else 1) else if b < 2 ^ (w - 1) then b else (b : Int) - 2 ^ w

/-- Pack the elements of one row (R206). -/
def packRow (w : Nat) (l : List Int) : List Byte :=
  leBytes (rowBytes l.length w) ((l.foldl (fun (acc : Nat × Nat) q => (acc.1 + 1, acc.2 + codeBits w q * 2 ^ (w * acc.1))) (0, 0)).2)

/-- Unpack n elements of a row (R206). -/
def unpackRow (w n : Nat) (bytes : List Byte) : List Int :=
  let v := leNat bytes
  (List.range n).map fun i => bitsCode w (field v (w * i) w)

/-- Bits to bytes, bit i in bit i mod 8 of byte i / 8 (R207). -/
def bitBytes (l : List Bool) : List Byte :=
  (pieces 8 l).map fun p => BitVec.ofNat 8 (leBits p)
where
  /-- The number whose bits are listed from the lowest. -/
  leBits : List Bool → Nat
    | [] => 0
    | b :: t => (if b then 1 else 0) + 2 * leBits t

/-- Hamming distance of two sketches of equal length (R207). -/
def hamming (a b : List Byte) : Nat := (a.zip b).foldl (fun n p => n + popcount (p.1 ^^^ p.2)) 0

end Sys2Proof.Machine
end

