-- ==== Sys2Proof/Machine/OpShape.lean ====
section
/-!
DEFINITION. What each descriptor reads and writes, its field and shape limits, and its nominal cost, all from the descriptor and the
plan alone (R172 to R174, R228 to R231, R236 to R239, R255, R264, R270, R274, R279 to R281, R472).
-/
namespace Sys2Proof.Machine

/-! ### Fields -/

/-- A dimension's value with the step's row count (R279). -/
def dimVal (rows : Nat) : Dim → Nat
  | .val n => n.toNat
  | .rows n => rows * n.toNat

/-- Field of `n` bytes of PARAM at descriptor byte `o` (104 to 127). -/
def dpar (d : Desc) (o n : Nat) : Nat := leAt d.param (o - 104) n

/-- The PARAM bytes from descriptor byte `o` on are zero (R279). -/
def paramEnds (d : Desc) (o : Nat) : Bool := allZero (d.param.drop (o - 104))

/-- Ceiling of a quotient. -/
def cquo (a b : Nat) : Nat := (a + b - 1) / b

/-- Sketch width B of its code (R280). -/
def sketchBits (code : Nat) : Nat := if code = 0 then 256 else if code = 1 then 512 else 1024

/-- The space of an operand (R274). -/
inductive Space where
  | none | slot | scratch | plan
deriving DecidableEq, Repr

/-- The space of a reference. -/
def spaceOf : ORef → Space
  | .none => .none
  | .slot _ _ => .slot
  | .scratch _ => .scratch
  | .plan _ => .plan

/-- A reference `off` bytes further on. -/
def refAdd (r : ORef) (off : Nat) : ORef :=
  match r with
  | .none => .none
  | .slot s o => .slot s (o + BitVec.ofNat 40 off)
  | .scratch o => .scratch (o + BitVec.ofNat 19 off)
  | .plan o => .plan (o + BitVec.ofNat 40 off)

/-- Operand `i` of a descriptor. -/
def operand (d : Desc) (i : Nat) : ORef := [d.o0, d.o1, d.o2, d.o3, d.o4, d.o5, d.o6, d.o7].getD i .none

/-- A use of an operand: bytes [off, off + len) from the reference, read or written. -/
structure Use where
  ref : ORef
  off : Nat
  len : Nat
  out : Bool
deriving DecidableEq, Repr

/-- What the descriptor alone fixes: its uses, and its nominal cost in pips. -/
structure Shape where
  uses : List Use
  cost : Nat
deriving DecidableEq, Repr

/-! ### Nominal cost terms (R174, R255) -/

/-- Weight-mode product (R174). -/
def productCost (half : Bool) (m k n w : Nat) : Nat :=
  if half then cquo m 8 * cquo n 4 * (32 * k * w) else cquo m 8 * cquo n 8 * (64 * k * w)

/-- H1 compare (R174). -/
def compareCost (half : Bool) (q s b : Nat) : Nat :=
  if half then cquo q 8 * cquo s 4 * (32 * b / 16) else cquo q 8 * cquo s 8 * (64 * b / 16)

/-- P of R253: the least power of two at or above k, at least 64. -/
def netWidth (k : Nat) : Nat := max 64 (if k ≤ 1 then 1 else 2 ^ (Nat.log2 (k - 1) + 1))

/-- TOPK's cost (R255). -/
def topkCost (n k : Nat) : Nat :=
  let p := netWidth k
  let l := Nat.log2 p
  let b := cquo n p
  if n = 0 then 0
  else 256 * cquo (b * (p / 2) * l * (l + 1) / 2 + (b - 1) * (p + p / 2 * l)) 64 + 128 * cquo n 64

/-- SELECT's cost (R255). -/
def selectCost (i k : Nat) : Nat :=
  let p := netWidth k
  let l := Nat.log2 p
  256 * cquo ((i - 1) * (p + p / 2 * l)) 64 + 128 * cquo (i * k) 64

/-- c_k of R246. -/
def convertCost (kind : Nat) : Nat := if kind = 0 ∨ kind = 2 then 2 else 1

/-! ### Terms of a predicate (R266, R267) -/

/-- A term (R266). -/
structure Term where
  off : Nat
  type : Nat
  op : Nat
  len : Nat
  negate : Bool
  a : Nat
  b : Nat
  /-- the operand bytes A and B as they stand -/
  bytes : List Byte
deriving DecidableEq, Repr

/-- Read a term of 24 bytes; none when a zero field is not zero. -/
def readTerm (l : List Byte) : Option Term :=
  if leAt l 6 2 ≠ 0 ∨ 1 < leAt l 5 1 then none
  else some { off := leAt l 0 2, type := leAt l 2 1, op := leAt l 3 1, len := leAt l 4 1, negate := (leAt l 5 1).testBit 0,
              a := leAt l 8 8, b := leAt l 16 8, bytes := bytesAt l 8 16 }

/-- Bytes of a term's field. -/
def fieldBytes (t : Term) : Nat :=
  match t.type with
  | 0 => 1 | 1 => 2 | 2 => 4 | 3 => 8 | 4 => 4 | 5 => 8 | 6 => 4 | _ => t.len

/-- A term that admission accepts: OP suits TYPE, the field lies in the record (R266). -/
def termGood (reclen : Nat) (t : Term) : Bool :=
  decide (t.type ≤ 7) && decide (t.op ≤ 0xA) && decide (t.off + fieldBytes t ≤ reclen) &&
    (t.type != 7 || (decide (1 ≤ t.len) && decide (t.len ≤ 16))) &&
    (t.op != 0xA || t.type == 7) && ((t.op != 8 && t.op != 9) || decide (t.type ≤ 3)) && (t.op != 6 || t.type != 7) &&
    (t.op != 7 || (decide (1 ≤ t.b) && decide (t.b ≤ 65536)))

/-- Read `n` terms; none when one is malformed. -/
def readTerms (reclen : Nat) (l : List Byte) (n : Nat) : Option (List Term) :=
  (List.range n).mapM fun i => (readTerm (bytesAt l (24 * i) 24)).bind fun t => if termGood reclen t then some t else none

/-- T of R270: each IN term counts as 5. -/
def termWeight (l : List Term) : Nat := l.foldl (fun n t => n + if t.op = 7 then 5 else 1) 0

/-- FILTER's cost (R270). -/
def filterCost (count t : Nat) : Nat := 64 * cquo count 64 * (t + 1)

/-! ### Shapes by operation (R280) -/

/-- Only the listed operands are used; every other one is of space 0. -/
def onlyOperands (d : Desc) (l : List Nat) : Bool := (List.range 8).all fun i => l.contains i || operand d i == .none

/-- Core stores: the space that engines and the vector unit use. -/
def inScratch (d : Desc) (l : List Nat) : Bool := l.all fun i => spaceOf (operand d i) == .scratch
/-- Core stores or slots. -/
def inStore (d : Desc) (l : List Nat) : Bool :=
  l.all fun i => spaceOf (operand d i) == .scratch || spaceOf (operand d i) == .slot
/-- The operand is absent or in scratch. -/
def optScratch (d : Desc) (i : Nat) : Bool := operand d i == .none || spaceOf (operand d i) == .scratch
/-- The operand is absent, in scratch or in a slot. -/
def optStore (d : Desc) (i : Nat) : Bool := operand d i == .none || spaceOf (operand d i) == .scratch || spaceOf (operand d i) == .slot

/-- A use of operand `i`. -/
def rd (d : Desc) (i len : Nat) : Use := { ref := operand d i, off := 0, len, out := false }
/-- A write of operand `i`. -/
def wr (d : Desc) (i len : Nat) : Use := { ref := operand d i, off := 0, len, out := true }
/-- A use of an optional operand. -/
def rdOpt (d : Desc) (i len : Nat) : List Use := if operand d i = .none then [] else [rd d i len]

/-- Start of the scales behind a tensor's data: the next 4 KiB boundary (A16 and R206). -/
def scalesAt (len : Nat) : Nat := cquo len 4096 * 4096

/-- Bytes in row-group layout (R175). -/
def rowGroupBytes (m k : Nat) : Nat := cquo m 8 * (16 * k)
/-- Bytes in plane layout (R175). -/
def planeBytes (k n w : Nat) : Nat := cquo n 8 * (k * w)
/-- Bytes in slice layout (R175). -/
def sliceBytes (s b : Nat) : Nat := cquo s 8 * b

/-- A width I1 to I8. -/
def widthGood (w : Nat) : Bool := decide (1 ≤ w) && decide (w ≤ 8)

def shapeMatmul (d : Desc) (m k n : Nat) : Option Shape :=
  let w := d.fmt.toNat % 16
  let o := d.fmt.toNat / 16 % 4
  let acts := if d.kind = 0xFF then true else (unary32 d.kind.toNat).isSome
  if widthGood w && decide (o ≤ 2) && acts && decide (m ≤ 2 ^ 20) && decide (n ≤ 2 ^ 20) && decide (k ≤ 2 ^ 24) && paramEnds d 104 &&
      inScratch d [0, 1, 2, 3, 6] && optScratch d 4 && optScratch d 5 && onlyOperands d [0, 1, 2, 3, 4, 5, 6, 7] &&
      (if o = 2 then inScratch d [7] else operand d 7 == .none) then
    let t := cquo m 8 * cquo n 8
    let x := (if d.o4 = .none then 0 else 1) + (if d.kind = 0xFF then 0 else ewCost d.kind.toNat) + (if d.o5 = .none then 0 else 1) +
      (if o = 0 then 0 else 2)
    some
      { uses := [rd d 0 (rowGroupBytes m k), rd d 1 (2 * m), rd d 2 (planeBytes k n w), rd d 3 (2 * n)] ++ rdOpt d 4 (4 * n) ++
          rdOpt d 5 (4 * m * n) ++
          (if o = 0 then [wr d 6 (4 * m * n)]
           else if o = 1 then [wr d 6 (scalesAt (2 * m * n) + 2 * m)]
           else [wr d 6 (rowGroupBytes m n), wr d 7 (2 * m)])
        cost := if m = 0 ∨ n = 0 then 0 else productCost d.half m k n w + 64 * t * x }
  else none

def shapeHamming (d : Desc) (q s : Nat) : Option Shape :=
  let b := sketchBits (d.fmt.toNat % 4)
  if decide (d.fmt.toNat % 4 ≤ 2) && decide (q ≤ 2 ^ 20) && decide (s ≤ 2 ^ 20) && paramEnds d 104 &&
      inScratch d [0, 2, 6] && onlyOperands d [0, 2, 6] then
    some { uses := [rd d 0 (sliceBytes q b), rd d 2 (sliceBytes s b), wr d 6 (4 * q * s)], cost := compareCost d.half q s b }
  else none

def shapeEwArray (d : Desc) (m k : Nat) : Option Shape :=
  let w := d.fmt.toNat % 16
  if widthGood w && paramEnds d 104 && inScratch d [0, 1, 2, 3, 6] &&
      onlyOperands d [0, 1, 2, 3, 6] then
    some { uses := [rd d 0 (rowGroupBytes m k), rd d 1 (2 * m), rd d 2 (k * w), rd d 3 2, wr d 6 (4 * m * k)], cost := 64 * (m * k) }
  else none

def shapeSketch (d : Desc) (m : Nat) : Option Shape :=
  let b := sketchBits (d.fmt.toNat % 4)
  if decide (d.fmt.toNat % 4 ≤ 2) && decide (d.kind.toNat ≤ 1) && paramEnds d 104 &&
      inScratch d [0, 6] && optScratch d 1 && onlyOperands d [0, 1, 6] then
    some { uses := [rd d 0 (4 * m * b)] ++ rdOpt d 1 (4 * b) ++ [wr d 6 (if d.kind = 0 then m * (b / 8) else sliceBytes m b)]
           cost := 128 * cquo (m * b) 64 }
  else none

/-- Elements of an operand in one of the four forms of R240. -/
def formCount (form r c : Nat) : Nat := if form = 0 then r * c else if form = 1 then c else if form = 2 then r else 1

def shapeEw (d : Desc) (r c : Nat) : Option Shape :=
  let k := d.kind.toNat
  let n := ewArity k
  if decide (k ≤ 0x14) && decide (r * c ≤ 2 ^ 26) && paramEnds d 104 &&
      inScratch d [0, 6] && (if 2 ≤ n then inScratch d [1] else operand d 1 == .none) &&
      (if n = 3 then inScratch d [2] else operand d 2 == .none) && onlyOperands d [0, 1, 2, 6] then
    some { uses := [rd d 0 (4 * r * c)] ++ rdOpt d 1 (4 * formCount (d.fmt.toNat % 4) r c) ++
             rdOpt d 2 (4 * formCount (d.fmt.toNat / 4 % 4) r c) ++ [wr d 6 (4 * r * c)]
           cost := 64 * ewCost k * cquo (r * c) 64 }
  else none

def shapeNorm (d : Desc) (r c : Nat) : Option Shape :=
  if decide (d.kind.toNat ≤ 1) && decide (1 ≤ c) && decide (c ≤ 65536) && paramEnds d 108 &&
      inScratch d [0, 1, 6] && (if d.kind = 1 then inScratch d [2] else operand d 2 == .none) &&
      onlyOperands d [0, 1, 2, 6] then
    some { uses := [rd d 0 (4 * r * c), rd d 1 (4 * c)] ++ rdOpt d 2 (4 * c) ++ [wr d 6 (4 * r * c)]
           cost := 64 * (if d.kind = 0 then 6 else 8) * cquo (r * c) 64 }
  else none

def shapeSoftmax (d : Desc) (r c : Nat) : Option Shape :=
  if decide (d.kind.toNat ≤ 1) && decide (1 ≤ c) && decide (c ≤ 65536) && paramEnds d 112 && (d.kind == 1 || dpar d 108 4 == 0) && inScratch d [0, 6] &&
      (if d.kind = 0 then inScratch d [1] else operand d 1 == .none) && onlyOperands d [0, 1, 6] then
    some { uses := [rd d 0 (4 * r * c)] ++ rdOpt d 1 (r * c) ++ [wr d 6 (4 * r * c)], cost := 640 * cquo (r * c) 64 }
  else none

def shapeReduce (d : Desc) (r n : Nat) : Option Shape :=
  let limit := if d.kind = 4 ∨ d.kind = 5 then 2 ^ 32 - 1 else 2 ^ 32
  if decide (d.kind.toNat ≤ 6) && decide (n ≤ limit) && paramEnds d 104 &&
      inScratch d [0, 6] && onlyOperands d [0, 6] then
    some { uses := [rd d 0 (4 * r * n), wr d 6 (4 * r)], cost := 128 * cquo (r * n) 64 }
  else none

def shapeConvert (d : Desc) (r c : Nat) : Option Shape :=
  let k := d.kind.toNat
  let w := d.fmt.toNat % 16
  let e := r * c
  let fmtGood := (k != 2 && k != 3 || widthGood w) && (k == 2 || !d.fmt.getLsbD 4)
  let uses : List Use :=
    if k = 0 then [rd d 0 (4 * e), wr d 6 (2 * e), wr d 7 (2 * r)]
    else if k = 1 then [rd d 0 (2 * e), rd d 1 (2 * r), wr d 6 (4 * e)]
    else if k = 2 then [rd d 0 ((if d.fmt.getLsbD 4 then 6 else 4) * e), wr d 6 (r * rowBytes c w), wr d 7 (2 * c)]
    else if k = 3 then [rd d 0 (r * rowBytes c w), rd d 1 (2 * c), wr d 6 (4 * e)]
    else if k = 4 then [rd d 0 (4 * e), wr d 6 (6 * e)]
    else if k = 5 then [rd d 0 (6 * e), wr d 6 (4 * e)]
    else [rd d 0 (6 * e), rd d 1 (4 * e), wr d 6 (6 * e)]
  let used := if k = 0 ∨ k = 2 then [0, 6, 7] else if k = 4 ∨ k = 5 then [0, 6] else [0, 1, 6]
  if decide (k ≤ 6) && fmtGood && decide (e ≤ 2 ^ 32) && paramEnds d 104 && inScratch d used &&
      onlyOperands d used && (k != 6 || d.o6 == d.o0) then
    some { uses, cost := 64 * convertCost k * cquo e 64 }
  else none

def shapeMove (d : Desc) (len : Nat) : Option Shape :=
  if paramEnds d 104 && inStore d [0, 6] &&
      onlyOperands d [0, 6] then
    some { uses := [rd d 0 len, wr d 6 len], cost := 0 }
  else none

/-- ROWLEN of the move operations (R247). -/
def moveRow (n : Nat) : Bool := n % 4 == 0 && decide (4 ≤ n) && decide (n ≤ 2 ^ 20)

def shapeIndexed (d : Desc) (e rowlen rows : Nat) : Option Shape :=
  if moveRow rowlen && paramEnds d 104 && inStore d [0, 1, 6] &&
      onlyOperands d [0, 1, 6] then
    if d.op = 0x21 then some { uses := [rd d 0 (rows * rowlen), rd d 1 (4 * e), wr d 6 (e * rowlen)], cost := 0 }
    else
      some { uses := [rd d 0 (e * rowlen), rd d 1 (4 * e), wr d 6 (rows * rowlen)] ++ (if d.op = 0x23 then [rd d 6 (rows * rowlen)] else [])
             cost := if d.op = 0x23 ∧ rows ≠ 0 then 64 * cquo (e * rowlen) 256 else 0 }
  else none

def shapeRelayout (d : Desc) (r c : Nat) : Option Shape :=
  let k := d.kind.toNat
  let w := d.fmt.toNat % 16
  let b := sketchBits (d.fmt.toNat % 4)
  let fmtGood := if k ≤ 1 then true else if k ≤ 3 then widthGood w else decide (d.fmt.toNat % 4 ≤ 2)
  let uses : List Use :=
    if k = 0 then [rd d 0 (2 * r * c), rd d 1 (2 * r), wr d 6 (rowGroupBytes r c), wr d 7 (2 * (cquo r 8 * 8))]
    else if k = 1 then [rd d 0 (rowGroupBytes r c), rd d 1 (2 * r), wr d 6 (2 * r * c), wr d 7 (2 * r)]
    else if k = 2 then [rd d 0 (r * rowBytes c w), rd d 1 (2 * c), wr d 6 (planeBytes r c w), wr d 7 (2 * (cquo c 8 * 8))]
    else if k = 3 then [rd d 0 (planeBytes r c w), rd d 1 (2 * c), wr d 6 (r * rowBytes c w), wr d 7 (2 * c)]
    else if k = 4 then [rd d 0 (r * (b / 8)), wr d 6 (sliceBytes r b)]
    else [rd d 0 (sliceBytes r b), wr d 6 (r * (b / 8))]
  let used := if k ≤ 3 then [0, 1, 6, 7] else [0, 6]
  if decide (k ≤ 5) && fmtGood && paramEnds d 104 && inStore d used && onlyOperands d used then
    some { uses, cost := 0 }
  else none

def shapeTranspose (d : Desc) (r c ss ds : Nat) : Option Shape :=
  let z := d.fmt.toNat
  if (z == 1 || z == 2 || z == 4) && ss % z == 0 && ds % z == 0 && decide (c * z ≤ ss) && decide (r * z ≤ ds) &&
      paramEnds d 104 && inStore d [0, 6] && onlyOperands d [0, 6] then
    some { uses := [rd d 0 (if r = 0 ∨ c = 0 then 0 else (r - 1) * ss + c * z), wr d 6 (if r = 0 ∨ c = 0 then 0 else (c - 1) * ds + r * z)]
           cost := 0 }
  else none

/-- ROWLEN of selection payloads (R254). -/
def payloadRow (n : Nat) : Bool := n % 8 == 0 && decide (n ≤ 4096)

/-- Bytes of a selection result (R254). -/
def listBytes (k rowlen : Nat) : Nat := 32 + k * (16 + rowlen)

def shapeTopk (d : Desc) (n k rowlen rows : Nat) : Option Shape :=
  if decide (d.kind.toNat ≤ 2) && decide (n ≤ 65536) && decide (1 ≤ k) && decide (k ≤ 1024) && payloadRow rowlen &&
      paramEnds d 104 && inScratch d [0, 6] && (if rowlen = 0 then optStore d 2 else inStore d [2]) && onlyOperands d [0, 2, 6] then
    some { uses := [rd d 0 (16 * n)] ++ rdOpt d 2 (rows * rowlen) ++ [wr d 6 (listBytes k rowlen)], cost := topkCost n k }
  else none

/-- The reference that 8 bytes spell (R274). -/
def readRef (v : Nat) : Option ORef :=
  match v / 2 ^ 62 with
  | 0 => if v = 0 then some .none else none
  | 1 => if field v 40 10 = 0 then some (.slot (BitVec.ofNat 12 (v / 2 ^ 50)) (BitVec.ofNat 40 v)) else none
  | 2 => if field v 19 43 = 0 then some (.scratch (BitVec.ofNat 19 v)) else none
  | _ => if field v 40 22 = 0 then some (.plan (BitVec.ofNat 40 v)) else none

/-- The input references of a SELECT, read from the plan (R280). -/
def selectInputs (params : List Byte) (d : Desc) (i : Nat) : Option (List ORef) :=
  match d.o0 with
  | .plan o => if o.toNat + 8 * i ≤ params.length then (List.range i).mapM fun j => readRef (leAt params (o.toNat + 8 * j) 8) else none
  | _ => none

def shapeSelect (params : List Byte) (colls : Nat) (d : Desc) (i k rowlen : Nat) : Option Shape :=
  let coll := dpar d 104 4
  match selectInputs params d i with
  | none => none
  | some l =>
    if decide (d.kind.toNat ≤ 2) && decide (2 ≤ i) && decide (i ≤ 65536) && decide (1 ≤ k) && decide (k ≤ 1024) &&
        payloadRow rowlen && paramEnds d 108 && (coll == 0xFFFFFFFF || decide (coll < colls)) && inStore d [6] &&
        onlyOperands d [0, 6] && l.all (fun r => spaceOf r == .scratch || spaceOf r == .slot) then
      some { uses := [rd d 0 (8 * i)] ++ l.map (fun r => { ref := r, off := 0, len := listBytes k rowlen, out := false }) ++
               [wr d 6 (listBytes k rowlen)]
             cost := selectCost i k }
    else none

def shapeReduceAll (colls : Nat) (d : Desc) (r c : Nat) : Option Shape :=
  if decide (d.kind.toNat ≤ 1) && decide (d.fmt.toNat ≤ 1) && paramEnds d 108 &&
      decide (dpar d 104 4 < colls) && inStore d [0, 6] && onlyOperands d [0, 6] then
    some { uses := [rd d 0 (4 * r * c), wr d 6 (4 * r * c)], cost := (if d.fmt = 0 then 64 else 256) * cquo (r * c) 64 }
  else none

def shapeGatherAll (ranks : List Nat) (d : Desc) (n : Nat) : Option Shape :=
  match ranks[dpar d 104 4]? with
  | none => none
  | some p =>
    if decide (d.fmt.toNat ≤ 1) && paramEnds d 108 &&
        inStore d [0, 6] && onlyOperands d [0, 6] then
      some { uses := [rd d 0 (4 * n), wr d 6 (4 * n * p)], cost := if d.fmt = 0 then 0 else 192 * cquo (n * p) 64 }
    else none

/-- Terms in each group of a FILTER or SCAN (R280): groups 1 to 4, each of 1 to 16 terms, none beyond. -/
def groupSizes (groups : Nat) (sizes : List Nat) : Option (List Nat) :=
  if decide (1 ≤ groups) && decide (groups ≤ 4) &&
      ((List.range 4).all fun g => if g < groups then decide (1 ≤ sizes.getD g 0) && decide (sizes.getD g 0 ≤ 16) else sizes.getD g 0 == 0)
  then some (sizes.take groups) else none

/-- The groups of terms of a FILTER or SCAN, read from the plan. -/
def filterTerms (params : List Byte) (d : Desc) (reclen : Nat) : Option (List (List Term)) :=
  match d.o1, groupSizes (dpar d 104 1) [dpar d 105 1, dpar d 106 1, dpar d 107 1, dpar d 108 1] with
  | .plan o, some sizes =>
    let n := sizes.foldl (· + ·) 0
    if o.toNat + 24 * n ≤ params.length then
      (readTerms reclen (bytesAt params o.toNat (24 * n)) n).map fun l =>
        (sizes.foldl (fun (acc : List (List Term) × List Term) k => (acc.1 ++ [acc.2.take k], acc.2.drop k)) ([], l)).1
    else none
  | _, _ => none

/-- The output fields of a SCAN: (offset, length), read from the plan (R269). -/
def scanFields (params : List Byte) (d : Desc) (reclen : Nat) : Option (List (Nat × Nat)) :=
  let f := dpar d 109 1
  match d.o2 with
  | .plan o =>
    if 1 ≤ f ∧ f ≤ 8 ∧ o.toNat + 4 * f ≤ params.length then
      (List.range f).mapM fun i =>
        let e := bytesAt params (o.toNat + 4 * i) 4
        let off := leAt e 0 2
        let len := leAt e 2 1
        if leAt e 3 1 = 0 ∧ 1 ≤ len ∧ len ≤ 64 ∧ off + len ≤ reclen then some (off, len) else none
    else none
  | _ => none

def shapeFilter (params : List Byte) (d : Desc) (first count reclen limit : Nat) : Option Shape :=
  match filterTerms params d reclen with
  | none => none
  | some groups =>
    let fields := if d.op = 0x41 then scanFields params d reclen else some []
    match fields with
    | none => none
    | some fs =>
      let w := if d.op = 0x41 then fs.foldl (fun n f => n + f.2) 0 else 8
      if reclen % 8 == 0 && decide (8 ≤ reclen) && decide (reclen ≤ 4096) && decide (count ≤ 2 ^ 32) &&
          paramEnds d (if d.op = 0x41 then 110 else 109) && inStore d [0] && optStore d 6 &&
          (if d.op = 0x41 then inStore d [7] else optStore d 7) &&
          onlyOperands d (if d.op = 0x41 then [0, 1, 2, 6, 7] else [0, 1, 6, 7]) then
        some
          { uses := [{ ref := d.o0, off := first * reclen, len := count * reclen, out := false },
                     rd d 1 (24 * (groups.foldl (fun n g => n + g.length) 0))] ++
              (if d.op = 0x41 then [rd d 2 (4 * fs.length)] else []) ++
              (if d.o6 = .none then [] else [wr d 6 (cquo count 8)]) ++ (if d.o7 = .none then [] else [wr d 7 (16 + w * limit)])
            cost := if count = 0 then 0
              else filterCost count (termWeight groups.flatten) + (if d.op = 0x41 then 64 * cquo limit 64 * fs.length else 0) }
      else none

/-- EMIT reads one token for each row (R303). -/
def shapeEmit (rows : Nat) (d : Desc) : Option Shape :=
  if paramEnds d 104 && inScratch d [0] && onlyOperands d [0] then
    some { uses := [rd d 0 (4 * rows)], cost := 0 }
  else none

/-- The slot of a reference with offset zero. -/
def slotZero : ORef → Option Nat
  | .slot s o => if o = 0 then some s.toNat else none
  | _ => none

/-- The codes of the tensor descriptors that need a parameter block: T_CREATE, T_MOVE, T_DROP and T_SEAL (R142, R281). -/
def needsBlock (op : Byte) : Bool := op == 0x60 || op == 0x62 || op == 0x63 || op == 0x66

/-- Tensor descriptors name their tensor by a slot with offset zero (R281). Their reach is that of the tensor (R472). -/
def shapeTensor (params : List Byte) (d : Desc) : Option Shape :=
  if paramEnds d 104 && (slotZero d.o0).isSome &&
      (if d.op = 0x67 then (slotZero d.o1).isSome else d.o1 == .none) && onlyOperands d [0, 1, 2] &&
      (match d.o2 with
        | .plan o => decide (o.toNat + 92 ≤ params.length)
        | .none => !needsBlock d.op
        | _ => false) then
    some { uses := match d.o2 with
             | .plan _ => [rd d 2 92]
             | _ => []
           cost := 0 }
  else none

/-- The shape of a descriptor: none for a reserved code or a field outside its range (R228, R279 to R281). `ranks` lists P of each
collective of the plan, `rows` is the step's row count. -/
def shapeOf (params : List Byte) (ranks : List Nat) (rows : Nat) (d : Desc) : Option Shape :=
  let a := dimVal rows d.dim0
  let b := dimVal rows d.dim1
  let c := dimVal rows d.dim2
  let e := dimVal rows d.dim3
  match d.op.toNat with
  | 0x01 => shapeMatmul d a b c
  | 0x02 => shapeHamming d a b
  | 0x03 => shapeEwArray d a b
  | 0x04 => shapeSketch d a
  | 0x10 => shapeEw d a b
  | 0x11 => shapeNorm d a b
  | 0x12 => shapeSoftmax d a b
  | 0x13 => shapeReduce d a b
  | 0x14 => shapeConvert d a b
  | 0x20 => shapeMove d a
  | 0x21 => shapeIndexed d a b c
  | 0x22 => shapeIndexed d a b c
  | 0x23 => shapeIndexed d a b c
  | 0x24 => shapeRelayout d a b
  | 0x25 => shapeTranspose d a b c e
  | 0x30 => shapeTopk d a b c e
  | 0x31 => shapeSelect params ranks.length d a b c
  | 0x38 => shapeReduceAll ranks.length d a b
  | 0x39 => shapeGatherAll ranks d a
  | 0x40 => shapeFilter params d a b c e
  | 0x41 => shapeFilter params d a b c e
  | 0x50 => if onlyOperands d [] && paramEnds d 104 then some { uses := [], cost := 0 } else none
  | 0x58 => shapeEmit rows d
  | 0x60 => shapeTensor params d
  | 0x61 => shapeTensor params d
  | 0x62 => shapeTensor params d
  | 0x63 => shapeTensor params d
  | 0x64 => shapeTensor params d
  | 0x65 => shapeTensor params d
  | 0x66 => shapeTensor params d
  | 0x67 => shapeTensor params d
  | 0x68 => shapeTensor params d
  | _ => none

end Sys2Proof.Machine
end

