-- ==== Sys2Proof/Machine/Crypto.lean ====
section
/-!
DEFINITION. The algorithms the manual names by their standards: SHA-384 (FIPS 180-4), HMAC and HKDF (RFC 2104, RFC 5869), ECDSA on
brainpoolP384r1 (RFC 5639, RFC 6979), AES-256 (FIPS 197), XTS (IEEE 1619) and AES key wrap (SP 800-38F) (R360, R417, R418, R428,
R430 to R432).
-/
namespace Sys2Proof.Machine

/-! ### SHA-384 -/

/-- The largest `r` below 2^`bits` with `r ^ k ≤ n`, found bit by bit from the top. -/
def rootFloor (k n : Nat) : Nat → Nat
  | 0 => 0
  | bits + 1 =>
    let r := 2 * rootFloor k (n / 2 ^ k) bits
    if (r + 1) ^ k ≤ n then r + 1 else r

/-- The first 64 bits of the fractional part of the `k`-th root of a number below 512. -/
def rootFraction (k p : Nat) : Word := BitVec.ofNat 64 (rootFloor k (p * 2 ^ (64 * k)) 70)

/-- The first 80 primes, the last of them 409. -/
def shaPrimes : List Nat := ((List.range 410).drop 2).filter fun p => ((List.range 21).drop 2).all fun q => p % q != 0 || p == q

/-- Round constants: from the cube roots of the first 80 primes (FIPS 180-4, 4.2.3). -/
def shaConstants : List Word := shaPrimes.map (rootFraction 3)

/-- Initial value of SHA-384: from the square roots of the 9th to 16th primes (FIPS 180-4, 5.3.4), as the words a to d and e to h. -/
def shaStart : List Word × List Word :=
  let l := ((shaPrimes.drop 8).take 8).map (rootFraction 2)
  (l.take 4, l.drop 4)

/-- XOR of a word rotated right by each of the distances. -/
def mixTurns (x : Word) (l : List Nat) : Word := l.foldl (fun s n => s ^^^ x.rotateRight n) 0

/-- The message schedule from its first 16 words, newest first: word t comes from those 2, 7, 15 and 16 places before it (FIPS 180-4,
6.4.2). -/
def shaSchedule (first : List Word) : List Word :=
  (List.range 64).foldl (fun w _ =>
    let back (k : Nat) : Word := w.getD (k - 1) 0
    ((mixTurns (back 2) [19, 61] ^^^ (back 2 >>> 6)) + back 7 + (mixTurns (back 15) [1, 8] ^^^ (back 15 >>> 7)) + back 16) :: w) first

/-- One round. The working words b, c, d and f, g, h are the a and e of earlier rounds, so each half of the state is a short history, newest
first. -/
def shaRound (s : List Word × List Word) (kw : Word) : List Word × List Word :=
  let x (i : Nat) : Word := s.1.getD i 0
  let y (i : Nat) : Word := s.2.getD i 0
  let pick : Word := y 2 ^^^ (y 0 &&& (y 1 ^^^ y 2))
  let most : Word := (x 0 &&& x 1) ||| (x 2 &&& (x 0 ||| x 1))
  let t : Word := y 3 + mixTurns (y 0) [14, 18, 41] + pick + kw
  ((t + mixTurns (x 0) [28, 34, 39] + most) :: s.1.take 3, (x 3 + t) :: s.2.take 3)

/-- One 128-byte block is added to the state. -/
def shaBlock (s : List Word × List Word) (block : List Byte) : List Word × List Word :=
  let first := (pieces 8 block).foldl (fun l b => BitVec.ofNat 64 (beNat b) :: l) []
  let o := (shaConstants.zip (shaSchedule first).reverse).foldl (fun s e => shaRound s (e.1 + e.2)) s
  (List.zipWith (· + ·) s.1 o.1, List.zipWith (· + ·) s.2 o.2)

/-- The message with its padding. -/
def shaPad (m : List Byte) : List Byte :=
  m ++ [0x80] ++ zeros ((239 - m.length % 128) % 128) ++ beBytes 16 (8 * m.length)

/-- SHA-384 (FIPS 180-4): 48 bytes. -/
def sha384 (m : List Byte) : List Byte :=
  let r := (pieces 128 (shaPad m)).foldl shaBlock shaStart
  ((r.1 ++ r.2).take 6).flatMap fun w => beBytes 8 w.toNat

/-! ### Tables -/

/-- The AES substitution table (FIPS 197), 32 entries a row, entry 0 in the lowest byte. -/
def sboxRows : List Nat :=
  [0xc072a49cafa2d4adf04759fa7dc982ca76abd7fe2b670130c56f6bf27b777c63,
   0x75b227ebe28012079a059618c323c7041531d871f1e5a534ccf73f362693fdb7,
   0xcf584c4a39becb6a5bb1fc20ed00d153842fe329b3d63b52a05a6e1b1a2c8309,
   0xd2f3ff1021dab6bcf5389d928f40a351a89f3c507f02f94585334d43fbaaefd0,
   0xdb0b5ede14b8ee4688902a22dc4f816073195d643d7ea7c41744975fec130ccd,
   0x08ae7a65eaf4566ca94ed58d6d37c8e779e4959162acd3c25c2406490a3a32e0,
   0x9e1dc186b95735610ef6034866b53e708a8bbd4b1f74dde8c6b4a61c2e2578ba,
   0x16bb54b00f2d99416842e6bf0d89a18cdf2855cee9871e9b948ed9691198f8e1]

/-- The inverse AES substitution table (FIPS 197). -/
def invSboxRows : List Nat :=
  [0xcbe9dec444438e3487ff2f9b8239e37cfbd7f3819ea340bf38a53630d56a0952,
   0x25d18b6d49a25b76b224d92866a12e084ec3fa420b954cee3d23c2a632947b54,
   0x849d8da75746155edab9edfd5048706c92b6655dcc5ca4d41698688664f6f872,
   0x6b8a130103bdafc1020f3fca8f1e2cd00645b3b80558e4f70ad3bc8c00abd890,
   0x6edf751ce837f9e28535ade72274ac9673e6b4f0cecff297eadc674f4111913a,
   0xf45acd78fec0db9a2079d2c64b3e56fc1bbe18aa0e62b76f89c5291d711af147,
   0xef9cc9939f7ae52d0d4ab519a97f51605fec8027591012b131c7078833a8dd1f,
   0x7d0c2155631469e126d677ba7e042b17619953833cbbebc8b0f52aae4d3be0a0]

/-- The prime of brainpoolP384r1 (RFC 5639). -/
def curveP : Nat :=
  0x8cb91e82a3386d280f5d6f7e50e641df152f7109ed5456b412b1da197fb71123acd3a729901d1a71874700133107ec53

/-- Coefficient A of brainpoolP384r1. -/
def curveA : Nat :=
  0x7bc382c63d8c150c3c72080ace05afa0c2bea28e4fb22787139165efba91f90f8aa5814a503ad4eb04a8c7dd22ce2826

/-- Coefficient B of brainpoolP384r1. -/
def curveB : Nat :=
  0x4a8c7dd22ce28268b39b55416f0447c2fb77de107dcd2a62e880ea53eeb62d57cb4390295dbc9943ab78696fa504c11

/-- The order n of the base point. -/
def curveN : Nat :=
  0x8cb91e82a3386d280f5d6f7e50e641df152f7109ed5456b31f166e6cac0425a7cf3ab6af6b7fc3103b883202e9046565

/-- The base point G, x. -/
def curveGx : Nat :=
  0x1d1c64f068cf45ffa2a63a81b7c13f6b8847a3e77ef14fe3db7fcafe0cbd10e8e826e03436d646aaef87b2e247d4af1e

/-- The base point G, y. -/
def curveGy : Nat :=
  0x8abe1d7520f9c2a45cb1eb8e95cfd55262b70b29feec5864e19c054ff99129280e4646217791811142820341263c5315

/-! ### HMAC and HKDF -/

/-- HMAC-SHA-384 (RFC 2104). -/
def hmac384 (key msg : List Byte) : List Byte :=
  let k := fitBytes 128 (if 128 < key.length then sha384 key else key)
  sha384 (k.map (· ^^^ 0x5C) ++ sha384 (k.map (· ^^^ 0x36) ++ msg))

/-- HKDF output blocks from `i` on (RFC 5869). -/
def hkdfExpand (prk info : List Byte) : Nat → Nat → List Byte → List Byte
  | 0, _, _ => []
  | n + 1, i, prev =>
    let t := hmac384 prk (prev ++ info ++ [BitVec.ofNat 8 i])
    t ++ hkdfExpand prk info n (i + 1) t

/-- HKDF-SHA-384 with an empty salt (RFC 5869). -/
def hkdf384 (ikm info : List Byte) (len : Nat) : List Byte :=
  (hkdfExpand (hmac384 (zeros 48) ikm) info ((len + 47) / 48) 1 []).take len

/-- ASCII text as bytes. -/
def ascii (s : String) : List Byte := s.toList.map fun c => BitVec.ofNat 8 c.toNat

/-! ### The curve -/

/-- Power modulo `m` by the low `n` bits of the exponent, from the highest. -/
def powMod (m b e : Nat) : Nat → Nat
  | 0 => 1 % m
  | n + 1 =>
    let r := powMod m b (e / 2) n
    let s := r * r % m
    if e % 2 = 1 then s * b % m else s

/-- Inverse modulo a prime of at most 384 bits. -/
def invMod (p a : Nat) : Nat := powMod p (a % p) (p - 2) 384

/-- Subtraction modulo `p`. -/
def subMod (p a b : Nat) : Nat := (a + p - b % p) % p

/-- A point of the curve; none is the point at infinity. -/
abbrev Point := Option (Nat × Nat)

/-- Sum of two points. -/
def pointAdd : Point → Point → Point
  | none, q => q
  | p, none => p
  | some (x1, y1), some (x2, y2) =>
    if x1 = x2 ∧ (y1 + y2) % curveP = 0 then none
    else
      let l :=
        if x1 = x2 then (3 * x1 * x1 + curveA) * invMod curveP (2 * y1) % curveP
        else subMod curveP y2 y1 * invMod curveP (subMod curveP x2 x1) % curveP
      let x3 := subMod curveP (subMod curveP (l * l % curveP) x1) x2
      some (x3, subMod curveP (l * subMod curveP x1 x3 % curveP) y1)

/-- Scalar multiple by the low `n` bits of `k`. -/
def pointMul (p : Point) (k : Nat) : Nat → Point
  | 0 => none
  | n + 1 =>
    let q := pointMul p (k / 2) n
    let d := pointAdd q q
    if k % 2 = 1 then pointAdd d p else d

/-- The base point. -/
def basePoint : Point := some (curveGx, curveGy)

/-- A point other than infinity that satisfies the curve equation. -/
def onCurve (x y : Nat) : Bool :=
  decide (x < curveP) && decide (y < curveP) && y * y % curveP == (x * x * x + curveA * x + curveB) % curveP

/-- ECDSA verification of a 48-byte digest (R418). -/
def ecdsaVerify (key : Nat × Nat) (digest : List Byte) (r s : Nat) : Bool :=
  if r = 0 ∨ curveN ≤ r ∨ s = 0 ∨ curveN ≤ s ∨ onCurve key.1 key.2 = false then false
  else
    let w := invMod curveN s
    let u1 := beNat digest * w % curveN
    let u2 := r * w % curveN
    match pointAdd (pointMul basePoint u1 384) (pointMul (some key) u2 384) with
    | some (x, _) => x % curveN == r
    | none => false

/-- The K and V update of RFC 6979 section 3.2. -/
def rfc6979Update (kv : List Byte × List Byte) (b : Byte) (seed : List Byte) : List Byte × List Byte :=
  let k := hmac384 kv.1 (kv.2 ++ [b] ++ seed)
  (k, hmac384 k kv.2)

/-- The first candidate k in 1 to n - 1 (RFC 6979); `fuel` candidates are tried. -/
def rfc6979Pick : Nat → List Byte × List Byte → Nat
  | 0, _ => 1
  | fuel + 1, kv =>
    let v := hmac384 kv.1 kv.2
    let k := beNat v
    if 1 ≤ k ∧ k < curveN then k else rfc6979Pick fuel (rfc6979Update (kv.1, v) 0 [])

/-- ECDSA signature r then s, 96 bytes, of a message with private key d and the k of RFC 6979 (R430). -/
@[irreducible] def ecdsaSign (d : Nat) (msg : List Byte) : List Byte :=
  let h := sha384 msg
  let seed := beBytes 48 d ++ beBytes 48 (beNat h % curveN)
  let kv := rfc6979Update (rfc6979Update (zeros 48, List.replicate 48 1) 0 seed) 1 seed
  let k := rfc6979Pick 64 (kv.1, kv.2)
  match pointMul basePoint k 384 with
  | some (x, _) =>
    let r := x % curveN
    beBytes 48 r ++ beBytes 48 (invMod curveN k * (beNat h + r * d) % curveN)
  | none => zeros 96

/-! ### AES-256 -/

/-- A table entry. -/
def sboxAt (rows : List Nat) (b : Byte) : Byte := BitVec.ofNat 8 (rows.getD (b.toNat / 32) 0 >>> (8 * (b.toNat % 32)))

/-- SubBytes of one byte. -/
def subByte (b : Byte) : Byte := sboxAt sboxRows b
/-- The inverse. -/
def invSubByte (b : Byte) : Byte := sboxAt invSboxRows b

/-- Doubling in the field of AES. -/
def xtime (a : Byte) : Byte := if a.getLsbD 7 then (a <<< 1) ^^^ 0x1B else a <<< 1

/-- XOR of two byte strings. -/
def xorBytes (a b : List Byte) : List Byte := List.zipWith (· ^^^ ·) a b

/-- Key schedule words, newest first: `n` more from word `i` on. -/
def keyWords : Nat → Nat → Byte → List (List Byte) → List (List Byte)
  | 0, _, _, w => w
  | n + 1, i, rcon, w =>
    let t := w.headD []
    let t := if i % 8 = 0 then xorBytes ((t.drop 1 ++ t.take 1).map subByte) [rcon, 0, 0, 0]
      else if i % 8 = 4 then t.map subByte else t
    keyWords n (i + 1) (if i % 8 = 0 then xtime rcon else rcon) (xorBytes (w.getD 7 []) t :: w)

/-- The 15 round keys of a 32-byte key. -/
def roundKeys (key : List Byte) : List (List Byte) :=
  let w := (keyWords 52 8 1 (pieces 4 key).reverse).reverse
  (List.range 15).map fun r => ((w.drop (4 * r)).take 4).flatten

/-- ShiftRows: byte r + 4c comes from column c + r. -/
def shiftRows (s : List Byte) : List Byte := (List.range 16).map fun i => s.getD ((i + 4 * (i % 4)) % 16) 0
/-- The inverse. -/
def invShiftRows (s : List Byte) : List Byte := (List.range 16).map fun i => s.getD ((i + 16 - 4 * (i % 4)) % 16) 0

/-- MixColumns of one column. -/
def mixColumn : List Byte → List Byte
  | [a, b, c, d] =>
    let t := a ^^^ b ^^^ c ^^^ d
    [a ^^^ t ^^^ xtime (a ^^^ b), b ^^^ t ^^^ xtime (b ^^^ c), c ^^^ t ^^^ xtime (c ^^^ d), d ^^^ t ^^^ xtime (d ^^^ a)]
  | l => l

/-- The inverse of one column. -/
def invMixColumn : List Byte → List Byte
  | [a, b, c, d] =>
    let u := xtime (xtime (a ^^^ c))
    let v := xtime (xtime (b ^^^ d))
    mixColumn [a ^^^ u, b ^^^ v, c ^^^ u, d ^^^ v]
  | l => l

/-- AES-256 of one 16-byte block with expanded keys. -/
def aesEncrypt (keys : List (List Byte)) (block : List Byte) : List Byte :=
  let s := xorBytes block (keys.headD [])
  let s := ((keys.drop 1).take 13).foldl (fun s k =>
    xorBytes ((pieces 4 (shiftRows (s.map subByte))).flatMap mixColumn) k) s
  xorBytes (shiftRows (s.map subByte)) (keys.getD 14 [])

/-- The inverse cipher. -/
def aesDecrypt (keys : List (List Byte)) (block : List Byte) : List Byte :=
  let s := (invShiftRows (xorBytes block (keys.getD 14 []))).map invSubByte
  let s := (((keys.drop 1).take 13).reverse).foldl (fun s k =>
    (invShiftRows ((pieces 4 (xorBytes s k)).flatMap invMixColumn)).map invSubByte) s
  xorBytes s (keys.headD [])

/-! ### XTS -/

/-- Multiply a 16-byte tweak by α of GF(2^128), little-endian. -/
def tweakNext (t : List Byte) : List Byte :=
  let v := leNat t
  leBytes 16 (if v < 2 ^ 127 then 2 * v else (2 * v - 2 ^ 128) ^^^ 0x87)

/-- The blocks of a data unit under a running tweak. -/
def xtsBlocks (f : List Byte → List Byte) : List (List Byte) → List Byte → List Byte
  | [], _ => []
  | b :: rest, t => xorBytes (f (xorBytes b t)) t ++ xtsBlocks f rest (tweakNext t)

/-- AES-256-XTS of a data unit of whole blocks: 64-byte key, 128-bit tweak (R360). -/
def xtsEncrypt (key : List Byte) (tweak : Nat) (data : List Byte) : List Byte :=
  xtsBlocks (aesEncrypt (roundKeys (key.take 32))) (pieces 16 data) (aesEncrypt (roundKeys (key.drop 32)) (leBytes 16 tweak))

/-- The inverse. -/
def xtsDecrypt (key : List Byte) (tweak : Nat) (data : List Byte) : List Byte :=
  xtsBlocks (aesDecrypt (roundKeys (key.take 32))) (pieces 16 data) (aesEncrypt (roundKeys (key.drop 32)) (leBytes 16 tweak))

/-! ### Key wrap -/

/-- The initial value of key wrap (SP 800-38F). -/
def kwInit : List Byte := List.replicate 8 0xA6

/-- One pass of wrapping over the semiblocks; `t` counts the steps. -/
def kwPass (keys : List (List Byte)) : List (List Byte) → List Byte → Nat → List Byte × List (List Byte)
  | [], a, _ => (a, [])
  | r :: rest, a, t =>
    let b := aesEncrypt keys (a ++ r)
    let o := kwPass keys rest (xorBytes (b.take 8) (beBytes 8 t)) (t + 1)
    (o.1, b.drop 8 :: o.2)

/-- AES key wrap (SP 800-38F, KW). -/
def keyWrap (kek plain : List Byte) : List Byte :=
  let r := pieces 8 plain
  let o := (List.range 6).foldl (fun (o : List Byte × List (List Byte)) j =>
    kwPass (roundKeys kek) o.2 o.1 (r.length * j + 1)) (kwInit, r)
  o.1 ++ o.2.flatten

/-- One pass of unwrapping, from the last semiblock; `l` is in reverse order. -/
def kwBack (keys : List (List Byte)) : List (List Byte) → List Byte → Nat → List Byte × List (List Byte)
  | [], a, _ => (a, [])
  | r :: rest, a, t =>
    let b := aesDecrypt keys (xorBytes a (beBytes 8 t) ++ r)
    let o := kwBack keys rest (b.take 8) (t - 1)
    (o.1, b.drop 8 :: o.2)

/-- AES key unwrap: the plain key, or none when the check fails. -/
def keyUnwrap (kek wrapped : List Byte) : Option (List Byte) :=
  let r := (pieces 8 (wrapped.drop 8)).reverse
  let n := r.length
  let o := (List.range 6).foldl (fun (o : List Byte × List (List Byte)) j =>
    kwBack (roundKeys kek) o.2 o.1 (n * (6 - j))) (wrapped.take 8, r)
  if o.1 = kwInit then some o.2.reverse.flatten else none

end Sys2Proof.Machine
end

