-- ==== Sys2Proof/Config.lean ====
section
/-!
DEFINITION. What one JXV6-307T part fixes for good (factory contents, secrets, ROM keys) and the values the manual leaves open.
Every constant here is opaque: no proof can see its value, so a statement holds for every part.
-/
namespace Sys2Proof.Config

/-- A value the manual leaves open, one fresh draw per index (log entry 2). -/
opaque freeValue : Nat → BitVec 64
/-- Byte `i` of the 128 KiB calibration row, written by the factory and locked (R400; log entry 4). -/
opaque calRow : Nat → BitVec 8
/-- The recovery loader's image bytes, factory-written and locked (R399, R416; log entry 4). -/
opaque loaderImage : List (BitVec 8)
/-- The 32-byte secret of the physically unclonable function (R428; log entry 4). -/
opaque pufSecret : List (BitVec 8)
/-- The boot ROM's two public signing keys as (x, y) (R418 check 0x03; log entry 4). -/
opaque signKey : Nat → Nat × Nat
/-- Public key of this part's certificate as (x, y); the X.509 parse of R429 is taken as its result (log entry 5). -/
opaque certKey : Nat × Nat
/-- Length of the DER certificate without its zero padding (R415 CERT_READ; log entry 5). -/
opaque certLength : Nat
/-- The random bit generator's output for the n-th 512-bit namespace key (R431; log entry 6). -/
opaque drawKey : Nat → List (BitVec 8)
/-- Result of an R297 race between a host command and a running job, per draw (log entry 2). -/
opaque raceByte : Nat → BitVec 8

end Sys2Proof.Config
end

