-- ==== Sys2Proof/Machine/Ecc.lean ====
section
/-!
DEFINITION. Words with check bits: the Hsiao (72,64) code, the two markers, classification, correction, narrow writes, and the
byte view of a store (R380 to R390).
-/
namespace Sys2Proof.Machine

/-! ### The code (R380) -/

/-- The 8-bit values of weight `w`, in ascending order. -/
def weightValues (w : Nat) : List Byte :=
  ((List.range 256).map (BitVec.ofNat 8)).filter fun b => popcount b == w

/-- The columns of data bits 0 to 63 (R380). -/
def dataColumns : List Byte :=
  [0x07, 0x0B, 0x0D, 0x0E, 0x13, 0x15, 0x16, 0x19, 0x1A, 0x1C, 0x23, 0x25, 0x26, 0x29, 0x2A, 0x2C, 0x31, 0x32, 0x34, 0x38,
   0x43, 0x45, 0x46, 0x49, 0x4A, 0x4C, 0x51, 0x52, 0x54, 0x58, 0x61, 0x62, 0x64, 0x68, 0x70, 0x83, 0x85, 0x86, 0x89, 0x8A,
   0x8C, 0x91, 0x92, 0x94, 0x98, 0xA1, 0xA2, 0xA4, 0xA8, 0xB0, 0xC1, 0xC2, 0xC4, 0xC8, 0xD0, 0xE0,
   0x1F, 0x2F, 0x37, 0x3B, 0x3D, 0x3E, 0x4F, 0x57]

/-- The column of data bit `i` (R380). -/
def dataColumn (i : Nat) : Byte := dataColumns.getD i 0

/-- The check bits of a word: the XOR of the columns of its set data bits (R380). -/
def checkBits (d : Word) : Byte :=
  (List.range 64).foldl (fun c i => if d.getLsbD i then c ^^^ dataColumn i else c) 0

/-- A word with its check bits. -/
def goodWord (d : Word) : MemWord := { data := d, check := checkBits d }

/-- The syndrome of a stored word (R380). -/
def syndrome (w : MemWord) : Byte := w.check ^^^ checkBits w.data

/-! ### Markers and classes (R381, R382) -/

/-- Data of the unwritten marker (R381). -/
def unwrittenData : Word := 0x4E574E574E574E57
/-- Data of the poisoned marker (R381). -/
def poisonedData : Word := 0x5545554555455545

/-- The unwritten marker (R381). -/
def unwrittenWord : MemWord := { data := unwrittenData, check := checkBits unwrittenData ^^^ 0xFF }
/-- The poisoned marker (R381). -/
def poisonedWord : MemWord := { data := poisonedData, check := checkBits poisonedData ^^^ 0xFF }

/-- The class of a stored word (R382); a correctable word comes with its corrected data. -/
inductive WordClass where
  | clean
  | correctable (data : Word)
  | unwritten
  | poisoned
  | uncorrectable
deriving DecidableEq, Repr

/-- Classification by syndrome and data alone (R382). -/
def classify (w : MemWord) : WordClass :=
  let s := syndrome w
  if s = 0 then .clean
  else match indexOf? (· == s) dataColumns with
    | some i => .correctable (w.data ^^^ (1#64 <<< i))
    | none =>
      if popcount s = 1 then .correctable w.data
      else if s = 0xFF then
        if w.data = unwrittenData then .unwritten else if w.data = poisonedData then .poisoned else .uncorrectable
      else .uncorrectable

/-! ### Stores -/

/-- What an unlisted word of a store holds (R387, R143). -/
def fillWord (s : Store) : MemWord := if s.zeroed then goodWord 0 else unwrittenWord

/-- The stored word at `n`. -/
def Store.word (s : Store) (n : Nat) : MemWord := tget (fillWord s) n s.words

/-- Write a stored word; a word equal to the fill is not listed. -/
def Store.put (s : Store) (n : Nat) (w : MemWord) : Store :=
  { s with words := if w = fillWord s then tdel n s.words else tset n w s.words }

/-- A freshly allocated store (R387). -/
def freshStore (zeroed : Bool) : Store := { zeroed, words := [] }

/-- The canonical form of a store: word numbers rise, and no listed word equals the fill. -/
def Store.wf (s : Store) : Bool := keysRise s.words && s.words.all fun e => e.2 != fillWord s

/-- Byte `i` of a word. -/
def wordByte (d : Word) (i : Nat) : Byte := (d >>> (8 * i)).truncate 8

/-- Replace byte `i` of a word. -/
def setWordByte (d : Word) (i : Nat) (b : Byte) : Word :=
  (d &&& ~~~(0xFF#64 <<< (8 * i))) ||| (b.zeroExtend 64 <<< (8 * i))

/-- What a read of some bytes of one word gives: data, or the condition it reports (R382). -/
inductive WordRead where
  | data (d : Word)
  | notWritten
  | uncorrectable
deriving DecidableEq, Repr

/-- The read outcome of a class (R382). -/
def readClass (w : MemWord) : WordRead :=
  match classify w with
  | .clean => .data w.data
  | .correctable d => .data d
  | .unwritten => .notWritten
  | .poisoned => .uncorrectable
  | .uncorrectable => .uncorrectable

/-- What the access that finds a word does to it: a correctable word is written back, an uncorrectable one is poisoned
(R384, R385). -/
def treated (w : MemWord) : MemWord :=
  match classify w with
  | .correctable d => goodWord d
  | .uncorrectable => poisonedWord
  | _ => w

/-- Merge bytes into a word: `new` gives the byte to write at each place, or none (R389, R390). The second component says that
the write reports UNCORRECTABLE. -/
def mergeWord (w : MemWord) (new : Nat → Option Byte) : MemWord × Bool :=
  let put (d : Word) := (List.range 8).foldl (fun d i => match new i with
    | some b => setWordByte d i b
    | none => d) d
  match classify w with
  | .clean => (goodWord (put w.data), false)
  | .correctable d => (goodWord (put d), false)
  | .unwritten => (goodWord (put 0), false)
  | .poisoned => (poisonedWord, true)
  | .uncorrectable => (poisonedWord, true)

/-- Outcome of a byte-range access to a store (R232, R382, R470). -/
structure Access1 where
  /-- bytes read, or the store after a write stands in `store` -/
  bytes : List Byte
  store : Store
  /-- offset of the first failing byte with UNCORRECTABLE -/
  uncorr : Option Nat
  /-- offset of the first failing byte with NOT_WRITTEN -/
  unwritten : Option Nat
  /-- correctable words met -/
  corrected : List Nat
  /-- uncorrectable words met and poisoned -/
  poisoned : List Nat
  /-- narrow writes into poisoned or uncorrectable words -/
  discarded : Nat
deriving DecidableEq, Repr

/-- Read word `n`, of which the bytes that lie in [off, off + len) are used. Data of a failing word reads as zero. -/
def readWord (off len n : Nat) (a : Access1) : Access1 :=
  let w := a.store.word n
  let first := max off (8 * n)
  let last := min (off + len) (8 * n + 8)
  let cut (d : Word) := (span (first - 8 * n) (last - first)).map (wordByte d)
  let st := if treated w = w then a.store else a.store.put n (treated w)
  let a := { a with store := st }
  let a := match classify w with
    | .correctable _ => { a with corrected := a.corrected ++ [n] }
    | .uncorrectable => { a with poisoned := a.poisoned ++ [n] }
    | _ => a
  match readClass w with
    | .data d => { a with bytes := a.bytes ++ cut d }
    | .notWritten => { a with bytes := a.bytes ++ cut 0, unwritten := a.unwritten.orElse fun _ => some first }
    | .uncorrectable => { a with bytes := a.bytes ++ cut 0, uncorr := a.uncorr.orElse fun _ => some first }

/-- Read the words `n`, `n + 1`, ... (`k` of them). -/
def readWords (off len : Nat) : Nat → Nat → Access1 → Access1
  | _, 0, a => a
  | n, k + 1, a => readWords off len (n + 1) k (readWord off len n a)

/-- Number of words that bytes [off, off + len) touch. -/
def wordCount (off len : Nat) : Nat := if len = 0 then 0 else (off + len - 1) / 8 - off / 8 + 1

/-- Read `len` bytes at `off` from a store (R382 to R385, R388). -/
def readStore (s : Store) (off len : Nat) : Access1 :=
  readWords off len (off / 8) (wordCount off len)
    { bytes := [], store := s, uncorr := none, unwritten := none, corrected := [], poisoned := [], discarded := 0 }

/-- Write word `n` from bytes at `off` on: a fully covered word is replaced, a partly covered one merged (R389, R390). -/
def writeWord (off : Nat) (data : List Byte) (n : Nat) (a : Access1) : Access1 :=
  let first := max off (8 * n)
  let last := min (off + data.length) (8 * n + 8)
  if first = 8 * n ∧ last = 8 * n + 8 then
    { a with store := a.store.put n (goodWord (BitVec.ofNat 64 (leNat (bytesAt data (8 * n - off) 8)))) }
  else
    let w := a.store.word n
    let r := mergeWord w fun i => if first ≤ 8 * n + i ∧ 8 * n + i < last then data[8 * n + i - off]? else none
    let a := { a with store := a.store.put n r.1 }
    let a := if r.2 then { a with uncorr := a.uncorr.orElse fun _ => some first, discarded := a.discarded + 1 } else a
    match classify w with
      | .correctable _ => { a with corrected := a.corrected ++ [n] }
      | .uncorrectable => { a with poisoned := a.poisoned ++ [n] }
      | _ => a

/-- Write the words `n`, `n + 1`, ... (`k` of them). -/
def writeWords (off : Nat) (data : List Byte) : Nat → Nat → Access1 → Access1
  | _, 0, a => a
  | n, k + 1, a => writeWords off data (n + 1) k (writeWord off data n a)

/-- Write bytes at `off` into a store (R389, R390). -/
def writeStore (s : Store) (off : Nat) (data : List Byte) : Access1 :=
  writeWords off data (off / 8) (wordCount off data.length)
    { bytes := [], store := s, uncorr := none, unwritten := none, corrected := [], poisoned := [], discarded := 0 }

/-- Words of the lines that an access touches and that it does not use: a correctable one is written back, an uncorrectable one is
poisoned; both are counted, and nothing is reported (R383). `line` is the line's width in words. -/
def treatLines (line off len : Nat) (a : Access1) : Access1 :=
  if len = 0 then a
  else
    let lo := off / 8 / line * line
    let hi := ((off + len - 1) / 8 / line + 1) * line
    (a.store.words.filter fun e => decide (lo ≤ e.1) && decide (e.1 < hi) && (decide (e.1 < off / 8) || decide ((off + len - 1) / 8 < e.1))).foldl
      (fun a e => match classify e.2 with
        | .correctable d => { a with store := a.store.put e.1 (goodWord d), corrected := a.corrected ++ [e.1] }
        | .uncorrectable => { a with store := a.store.put e.1 poisonedWord, poisoned := a.poisoned ++ [e.1] }
        | _ => a) a

/-- A store holding the given bytes from offset 0 on, word by word; the tail of the last word is zero. -/
def storeOf (bytes : List Byte) : Store :=
  (writeStore (freshStore false) 0 bytes).store

/-- Poison the words [n, n + k) (R168, R385). -/
def poisonWords : Nat → Nat → Store → Store
  | _, 0, s => s
  | n, k + 1, s => poisonWords (n + 1) k (s.put n poisonedWord)

/-- Copy the words [n, n + k) of a source as a motion does: unwritten markers and damage are carried (R168, R387). -/
def copyWords (src : Store) : Nat → Nat → Store → Store
  | _, 0, s => s
  | n, k + 1, s => copyWords src (n + 1) k (s.put n (treated (src.word n)))

end Sys2Proof.Machine
end

