-- ==== Sys2Proof/Machine/Ops.lean ====
section
/-!
DEFINITION. Operations that every chapter uses: time, events, ledger records, notices, the route lookup, sending blocks through
streams and ports, and ending a command with its completion record.
-/
namespace Sys2Proof.Machine

/-! ### One chapter's state at a time -/

def onPower (f : Power → Power) (m : Sys) : Sys := { m with power := f m.power }
def onFabric (f : Fabric → Fabric) (m : Sys) : Sys := { m with fabric := f m.fabric }
def onTask (f : Task → Task) (m : Sys) : Sys := { m with task := f m.task }
def onRange (f : Range → Range) (m : Sys) : Sys := { m with range := f m.range }
def onCores (f : Tab Core → Tab Core) (m : Sys) : Sys := { m with cores := f m.cores }
def onJobs (f : Jobs → Jobs) (m : Sys) : Sys := { m with jobs := f m.jobs }
def onSearch (f : Search → Search) (m : Sys) : Sys := { m with search := f m.search }
def onFlash (f : Flash → Flash) (m : Sys) : Sys := { m with flash := f m.flash }
def onIntegrity (f : Integrity → Integrity) (m : Sys) : Sys := { m with integrity := f m.integrity }
def onBoot (f : Boot → Boot) (m : Sys) : Sys := { m with boot := f m.boot }
def onHealth (f : Health → Health) (m : Sys) : Sys := { m with health := f m.health }

/-- Carry out `f` for each element in order. -/
def forEach {α : Type} (l : List α) (f : α → Sys → Sys) (m : Sys) : Sys := l.foldl (fun m a => f a m) m

/-- Carry out `f` where `c` holds. -/
def onlyIf (c : Bool) (f : Sys → Sys) (m : Sys) : Sys := if c then f m else m

/-- The outcome of a meaning: the module changed, the queue as it was. -/
def done (s : State) (f : Sys → Sys) : Host.Outcome State Fault Refusal := .next { s with sys := f s.sys }

/-! ### Free values (log entry 2) -/

/-- The next free value and the module with the draw counted. -/
def draw (m : Sys) : Word × Sys :=
  (Config.freeValue m.health.draws, onHealth (fun h => { h with draws := h.draws + 1 }) m)

/-- Free bytes for contents that the manual leaves open (log entry 2). -/
def openBytes (n : Nat) (m : Sys) : List Byte × Sys :=
  ((List.range n).map fun i => Config.raceByte (m.health.draws * 2 ^ 41 + i), onHealth (fun h => { h with draws := h.draws + 1 }) m)

/-! ### Time and identity -/

/-- Turns in 1 µs times 16, so that 62.5 turns stay exact: a time in µs as turns, rounded up. -/
def usTurns (us : Nat) : Nat := (us * 1000 + 15) / 16
/-- Turns in one millisecond (R436). -/
def msTurns : Nat := 62500
/-- Turns in one second. -/
def secTurns : Nat := 62500000

/-- EVT.TURN.COUNT (R435). -/
def now (m : Sys) : Nat := m.health.turn.toNat

/-- The module's fabric address (R75). -/
def ownAddr (m : Sys) : Addr := m.fabric.group ++ m.fabric.member

/-- Bytes of the calibration row (R400). -/
def calBytes (o n : Nat) : List Byte := (span o n).map Config.calRow

/-- The module identity of FAB.IDENT (R92, R400). -/
def identity : Word := BitVec.ofNat 64 (leNat (calBytes 8 8))

/-- The module runs: no power-fail event has been taken and it is not off (R34, R40). -/
def live (m : Sys) : Bool := m.power.run == .on

/-- A hold-up sequence runs (R34). -/
def inHoldup (m : Sys) : Bool :=
  m.power.run == .holdPrograms || m.power.run == .holdFlush || m.power.run == .holdLedger

/-- Act only while the module runs (R34, R40). -/
def whileLive (f : Sys → Sys) (m : Sys) : Sys := if live m then f m else m

/-- STAGE is SERVING (R409). -/
def stageServing : BitVec 4 := 0x5
/-- STAGE while the recovery loader runs (R427). -/
def stageLoader : BitVec 4 := 0x8
/-- STAGE of a halted start (R410). -/
def stageHalted : BitVec 4 := 0xF

/-! ### Lifetime totals and events (R436, R437, R455) -/

/-- Raise lifetime total `i` (R455). -/
def addTotal (i k : Nat) : Sys → Sys :=
  onHealth fun h => { h with totals := tupd 0 i (fun v => min (v + k) (2 ^ 64 - 1)) h.totals }

/-- Set lifetime total `i` (R455). -/
def setTotal (i v : Nat) : Sys → Sys := onHealth fun h => { h with totals := tset i v h.totals }

/-- A lifetime total (R455). -/
def total (i : Nat) (m : Sys) : Nat := tget 0 i m.health.totals

/-- Powered seconds in the life of the part (R451, R455 total 0). -/
def poweredSecs (m : Sys) : Nat := total 0 m + now m / secTurns

/-- Count an event of the precedence list as taken; `pos` is its position less one (R437, R455). -/
def takeEvent (pos : Nat) (m : Sys) : Sys :=
  let m := onHealth (fun h => { h with counts := tupd 0 pos satInc h.counts, inTurn := h.inTurn ++ [pos] }) m
  if pos ≤ 6 then addTotal (pos + 2) 1 m else m

/-- An event at a position: taken and acted on while the module runs; sampled and counted, without action, during a hold-up
sequence (R439); nothing once the module is off. -/
def asEvent (pos : Nat) (f : Sys → Sys) (m : Sys) : Sys :=
  if live m then f (takeEvent pos m) else if inHoldup m then takeEvent pos m else m

/-! ### Bits that clear by writing 1 (R9, R10) -/

/-- Address of FAB.PORT_STATUS of a port (R92). -/
def portStatusAddr (p : Nat) : Nat := 0x01000100 + 8 * p
/-- Address of MAP.STATUS (R379). -/
def mapStatusAddr : Nat := 0x02000000
/-- Address of CORE.FAULT of a core (R200). -/
def coreFaultAddr (n : Nat) : Nat := 0x10000008 + 0x10000 * n

/-- Note that the module set a W1C bit of a register in this turn (R10). -/
def noteSet (a bit : Nat) : Sys → Sys := onHealth fun h => { h with setNow := h.setNow ++ [(a, bit)] }

/-- The module set this W1C bit in the present turn, so that a write of 1 does not clear it (R10). -/
def setInTurn (a bit : Nat) (m : Sys) : Bool := m.health.setNow.contains (a, bit)

/-! ### Ledger records and notices (R443 to R453) -/

/-- Hand a record to the ledger; it is appended within 1 s (R451, R452). The header's TIME is that of the cause. -/
def ledgerRec (type : Byte) (keep : Bool) (body : List Byte) (m : Sys) : Sys :=
  onHealth (fun h => { h with pendingRecs := h.pendingRecs ++ [{ type, keep, body := leBytes 4 (poweredSecs m) ++ body }] }) m

/-- An EVENT record for a position of the list and a source, at most one in 1 s (R452). -/
def eventRec (position source : Nat) (detail : List Byte) (m : Sys) : Sys :=
  let key := position * 2 ^ 32 + source
  match tfind key m.health.eventRecs with
  | some (t, folded) =>
    if now m < t + secTurns then onHealth (fun h => { h with eventRecs := tset key (t, folded + 1) h.eventRecs }) m
    else
      ledgerRec 0x06 false ([BitVec.ofNat 8 position] ++ leBytes 2 (min folded 65535) ++ [0] ++ fitBytes 32 detail)
        (onHealth (fun h => { h with eventRecs := tset key (now m, 0) h.eventRecs }) m)
  | none =>
    ledgerRec 0x06 false ([BitVec.ofNat 8 position] ++ zeros 3 ++ fitBytes 32 detail)
      (onHealth (fun h => { h with eventRecs := tset key (now m, 0) h.eventRecs }) m)

/-- The codes that write a HEALTH_SIGN record, whether notified or not (R452). -/
def healthSign (code : Nat) : Bool := (0x09 ≤ code && code ≤ 0x0D) || code == 0x16 || code == 0x18 || code == 0x19

/-- Queue a notice: coalesced with a pending one or with the code's 10 ms, lost when 64 are pending (R445). -/
def queueNotice (code sev : Nat) (detail : List Byte) (m : Sys) : Sys :=
  let h := m.health
  let c : Byte := BitVec.ofNat 8 code
  if h.notices.any (·.code == c) then
    onHealth (fun h => { h with notices := h.notices.map fun n => if n.code = c then { n with coalesced := n.coalesced + 1 } else n }) m
  else if (match tfind code h.lastSent with
      | some t => decide (now m < t + 10 * msTurns)
      | none => false) then
    onHealth (fun h => { h with folded := tupd 0 code (· + 1) h.folded }) m
  else if 64 ≤ h.notices.length then onHealth (fun h => { h with lost := satInc h.lost, lostBefore := true }) m
  else
    onHealth (fun h => { h with
      notices := h.notices ++ [{ code := c, sev := BitVec.ofNat 8 sev, detail, turn := now m, coalesced := tget 0 code h.folded }],
      folded := tdel code h.folded }) m

/-- Raise a notice (R443): a HEALTH_SIGN record where R452 asks for one, and a pending notice if the code is enabled. No notice
is raised once the power-fail event is taken (R447). -/
def notice (code sev : Nat) (detail : List Byte) (m : Sys) : Sys :=
  let m := onlyIf (healthSign code) (ledgerRec 0x0A false (leBytes 2 code ++ zeros 2 ++ fitBytes 32 detail)) m
  if live m && m.health.enable && m.health.mask.getLsbD code then queueNotice code sev detail m else m

/-! ### Ports and routes -/

/-- Port `p`. -/
def portOf (m : Sys) (p : Nat) : Port := tget portReset p m.fabric.ports

/-- Change port `p`. -/
def onPort (p : Nat) (f : Port → Port) : Sys → Sys := onFabric fun x => { x with ports := tupd portReset p f x.ports }

/-- The active host port (R72). -/
def activeHost (m : Sys) : Option Nat := (List.range 8).find? fun p => (portOf m p).hostActive

/-- Put a block into a port's egress queue (R51). -/
def toPort (p : Nat) (b : Block) : Sys → Sys := onPort p fun x => { x with egress := x.egress ++ [b] }

/-- The route entry for an address (R80). -/
def routeOf (dst : Addr) (m : Sys) : Route :=
  let g : BitVec 10 := dst.extractLsb' 6 10
  if g = m.fabric.group then tget routeReset (dst.extractLsb' 0 6).toNat m.fabric.mbr else tget routeReset g.toNat m.fabric.grp

/-- Count a discarded block (R65, R74, R80, R83). -/
def badBlock : Sys → Sys := onFabric fun x => { x with badBlock := satInc x.badBlock }

/-! ### Link-state graph (R76, R81, R84) -/

/-- The ports of this module that take part in routing, with the identity of the module there. -/
def ownNeighbours (m : Sys) : List (Nat × Nat) :=
  ((List.range 8).filter fun p => (portOf m p).routed && !(portOf m p).host).map fun p => (p, (portOf m p).peerId.toNat)

/-- The ports and neighbours of any module, from the link state. -/
def neighbours (m : Sys) (id : Nat) : List (Nat × Nat) :=
  if id = identity.toNat then ownNeighbours m
  else match tfind id m.fabric.links with
    | some l => l.neighbours.map fun e => (e.1.toNat, e.2.toNat)
    | none => []

/-- Breadth-first distances: (identity, hops). `fuel` bounds the depth. -/
def bfs (m : Sys) : Nat → Nat → List Nat → Tab Nat → Tab Nat
  | 0, _, _, seen => seen
  | fuel + 1, d, frontier, seen =>
    let next := ((frontier.flatMap fun i => (neighbours m i).map (·.2)).filter fun i => (tfind i seen).isNone).eraseDups
    if next.isEmpty then seen else bfs m fuel (d + 1) next (next.foldl (fun s i => tset i (d + 1) s) seen)

/-- Hops from a module to every module it reaches. -/
def distances (m : Sys) (id : Nat) : Tab Nat := bfs m (m.fabric.links.length + 1) 0 [id] [(id, 0)]

/-- The link by which a module hangs in the breadth-first tree of a source: its lowest-numbered port on a minimal path there, and the
neighbour at that port (R84). -/
def parentLink (m : Sys) (dist : Tab Nat) (id : Nat) : Option (Nat × Nat) :=
  match tfind id dist with
  | some (d + 1) => minBy (fun (a b : Nat × Nat) => decide (a.1 < b.1)) ((neighbours m id).filter fun x => tfind x.2 dist == some d)
  | _ => none

/-- The ports on which this module forwards a broadcast that comes from module `source` (R84): those whose far end is the port by which
the neighbour hangs in the tree. -/
def childPorts (m : Sys) (source : Nat) : List Nat :=
  let dist := distances m source
  ((ownNeighbours m).filter fun e =>
    parentLink m dist e.2 == some ((portOf m e.1).peerPort.toNat, identity.toNat)).map (·.1)

/-- The identity of the module that holds an address, from the link state. -/
def identityAt (m : Sys) (a : Addr) : Option Nat :=
  if a = ownAddr m ∧ m.fabric.assigned then some identity.toNat
  else (m.fabric.links.find? fun e => e.2.addr == some a).map (·.1)

/-- The address of a lease's peer as it is now: leases are bound to identity (R87). -/
def leaseAddr (m : Sys) (l : Lease) : Addr := ((tfind l.peer.toNat m.fabric.links).bind (·.addr)).getD l.peerAddr

/-! ### Streams (R66 to R70) -/

/-- Sequence number `a` is at or below `b`, modulo 65,536. -/
def seqUpTo (a b : BitVec 16) : Bool := decide ((b - a).toNat < 32768)

/-- The stream of a block: its destination and virtual channel; for a broadcast one stream for each scope, whatever the channel (R66,
R70). -/
def streamKey (b : Block) : StreamKey :=
  if b.bcast = 0 then { dst := b.dst, vc := b.vc, bcast := 0 }
  else { dst := if b.bcast = 1 then b.dst &&& 0xFFC0 else 0, vc := 0, bcast := b.bcast }

/-- The transmit stream of a key. -/
def txOf (m : Sys) (k : StreamKey) : TxStream :=
  match m.fabric.tx.find? (·.1 == k) with
  | some e => e.2
  | none => txReset

/-- A transmit stream of the key is open. -/
def txOpen (m : Sys) (k : StreamKey) : Bool := m.fabric.tx.any (·.1 == k)

/-- Store the transmit stream of a key. -/
def setTx (k : StreamKey) (t : TxStream) : Sys → Sys := onFabric fun x =>
  { x with tx := if x.tx.any (·.1 == k) then x.tx.map fun e => if e.1 = k then (k, t) else e else x.tx ++ [(k, t)] }

/-- The transmit streams, and the receive streams, that a module holds at most (R68). -/
def maxStreams : Nat := 4096

/-- A stream idle since a turn may be closed (R68). -/
def idleLong (m : Sys) (used : Nat) : Bool := decide (used + 10 * msTurns ≤ now m)

/-- A transmit stream that may be closed: fully acknowledged and idle for 10 ms (R68). -/
def txIdle (m : Sys) (e : StreamKey × TxStream) : Bool :=
  e.2.unacked.isEmpty && !(m.fabric.waiting.any fun b => streamKey b == e.1) && idleLong m e.2.used

/-- A stream can be open: it is, or a place for it is free or held by one that may be closed (R68). -/
def txPlace (m : Sys) (k : StreamKey) : Bool :=
  txOpen m k || decide (m.fabric.tx.length < maxStreams) || m.fabric.tx.any (txIdle m)

/-- Where a new stream needs a place, one that may be closed is closed (R68). -/
def makePlace (k : StreamKey) (m : Sys) : Sys :=
  if txOpen m k || decide (m.fabric.tx.length < maxStreams) then m
  else match m.fabric.tx.find? (txIdle m) with
    | some e => onFabric (fun x => { x with tx := x.tx.filter fun d => d.1 != e.1 }) m
    | none => m

/-- Bytes of one virtual channel's share of the replay store in use (R69). -/
def shareUse (m : Sys) (vc : BitVec 2) : Nat :=
  m.fabric.tx.foldl (fun n e => (e.2.unacked.filter fun b => b.vc == vc).foldl (fun n b => n + 32 + b.body.length) n) 0

/-- One virtual channel's share of the replay store: 64 MiB (R69). -/
def shareSize : Nat := 64 * 2 ^ 20

/-- The share of a VC cannot hold a block of this body length (R69). -/
def shareFull (m : Sys) (vc : BitVec 2) (len : Nat) : Bool := shareSize < shareUse m vc + 32 + len

/-- The addresses that a broadcast stream reaches: the modules of its scope that the link state connects to this one (R64, R84). -/
def receivers (m : Sys) (k : StreamKey) : List Addr :=
  let dist := distances m identity.toNat
  (m.fabric.links.filter fun e => e.1 != identity.toNat && (tfind e.1 dist).isSome &&
    (k.bcast == 2 || e.2.group == k.dst.extractLsb' 6 10)).filterMap (·.2.addr)

/-- Send a numbered block towards its destination: by the routes, or on the tree's child ports for a broadcast; a block that
meets an entry that is not valid is discarded and counted (R80, R84). -/
def launch (b : Block) (m : Sys) : Sys :=
  if b.bcast = 0 then
    let r := routeOf b.dst m
    if r.valid && !r.isLocal then toPort r.port.toNat b m else badBlock m
  else forEach (childPorts m identity.toNat) (fun p => toPort p b) m

/-- Number a block in its stream, keep it for replay and send it (R66, R67). A broadcast is kept while some receiver is to acknowledge
it, and its stream opens anew once it may be closed, for its receivers may have closed it (R68). -/
def sendNow (b : Block) (m : Sys) : Sys :=
  let k := streamKey b
  let m := makePlace k m
  let old := txOf m k
  let t := if k.bcast != 0 && old.unacked.isEmpty && idleLong m old.used then txReset else old
  let b := sealBlock { b with seq := t.next, opens := t.reopen }
  let kept := b.bcast == 0 || !(receivers m k).isEmpty
  launch b (setTx k { t with
    next := t.next + 1, unacked := if kept then t.unacked ++ [b] else t.unacked, reopen := false, used := now m } m)

/-- Send waiting blocks in their order: one that meets a full window, or no place for its stream, holds the later ones of its stream; one
that the share cannot hold holds every later one of its virtual channel (R66, R68, R69). Answers the blocks that still wait. -/
def sendWaiting : List Block → List (BitVec 2) → List StreamKey → Sys → List Block × Sys
  | [], _, _, m => ([], m)
  | b :: rest, vcs, keys, m =>
    let k := streamKey b
    let keep (r : List Block × Sys) : List Block × Sys := (b :: r.1, r.2)
    if vcs.contains b.vc || keys.contains k then keep (sendWaiting rest vcs keys m)
    else if !txPlace m k || decide (1024 ≤ (txOf m k).unacked.length) then keep (sendWaiting rest vcs (k :: keys) m)
    else if shareFull m b.vc b.body.length then keep (sendWaiting rest (b.vc :: vcs) keys m)
    else sendWaiting rest vcs keys (sendNow b m)

/-- Send what may go of the waiting blocks. -/
def drainBlocks (m : Sys) : Sys :=
  let r := sendWaiting m.fabric.waiting [] [] m
  onFabric (fun x => { x with waiting := r.1 }) r.2

/-- Send a block in its stream, or let it wait for its window or for replay space, behind those that wait already (R66, R69). -/
def sendBlock (b : Block) (m : Sys) : Sys := drainBlocks (onFabric (fun x => { x with waiting := x.waiting ++ [b] }) m)

/-- The TAG by which an E2E_ACK names the stream it is about: 0 for a unicast stream, and the scope with the group for a broadcast one,
which the fields of R64 do not tell apart (DESIGN CHOICE, log entry 26). -/
def ackTag (k : StreamKey) : BitVec 32 := if k.bcast = 0 then 0 else k.dst ++ k.bcast.zeroExtend 16

/-- An end-to-end acknowledgement, sent outside every stream (R66, R69). -/
def sendAck (dst : Addr) (vc : BitVec 2) (seq : BitVec 16) (nak : Bool) (tag : BitVec 32) (m : Sys) : Sys :=
  launch (sealBlock { newBlock (ownAddr m) dst kE2eAck with
    ackSeq := seq, ackVc := vc, ackValid := true, tag, body := leBytes 1 (flagAt nak 0) ++ zeros 3 }) m

/-- Send a block out of the active host port; without one it waits at the rook (R72, R74). -/
def toHost (b : Block) (m : Sys) : Sys :=
  match activeHost m with
  | some p => toPort p (sealBlock b) m
  | none => onFabric (fun x => { x with hostWait := x.hostWait ++ [b] }) m

/-- Send a block that belongs to a host endpoint to the rook, or out of the host port when this module is that rook (R74, R105). -/
def toRook (rook : Addr) (b : Block) (m : Sys) : Sys :=
  if rook = ownAddr m then toHost b m else sendBlock b m

/-! ### Endpoints and commands -/

/-- Endpoint `e`. -/
def epOf (m : Sys) (e : Nat) : Endpoint := tget endpointReset e m.task.eps

/-- Change endpoint `e`. -/
def onEp (e : Nat) (f : Endpoint → Endpoint) : Sys → Sys := onTask fun t => { t with eps := tupd endpointReset e f t.eps }

/-- The HELD task register of a command. -/
def heldOf (m : Sys) (ep reg : Nat) : Option Held := tfind reg (epOf m ep).held

/-- Change the phase of a HELD task register. -/
def setPhase (ep reg : Nat) (p : Phase) : Sys → Sys := onEp ep fun e =>
  { e with held := e.held.map fun h => if h.1 = reg then (reg, { h.2 with phase := p }) else h }

/-- Two commands are one and the same: rook, endpoint, register and epoch. -/
def sameCmd (a b : Cmd) : Bool := a.rook == b.rook && a.ep == b.ep && a.reg == b.reg && a.epoch == b.epoch

/-- Forget a command at this module: it is no longer running or held as a relay, and its snapshot goes. -/
def dropCmd (c : Cmd) (m : Sys) : Sys :=
  onSearch (fun s => { s with seen := s.seen.filter fun e => !sameCmd c e.1 }) (onTask (fun t =>
    { t with running := t.running.filter fun d => !sameCmd c d, relayed := t.relayed.filter fun d => !sameCmd c d }) m)

/-- The COMPLETION block of a command (R106). -/
def completionBlock (m : Sys) (c : Cmd) (record : List Byte) : Block :=
  { newBlock (ownAddr m) c.rook kCompletion with
    host := true, ep := c.ep, tag := c.tag.zeroExtend 32, body := record }

/-- The command still has a record to come: its register at this rook is HELD by it, or it is held here as a relay (R103, R123). -/
def hasRecord (m : Sys) (c : Cmd) : Bool :=
  if c.rook = ownAddr m then ((heldOf m c.ep.toNat c.reg.toNat).map fun h => sameCmd h.cmd c && h.phase != .recordSent).getD false
  else m.task.relayed.any (sameCmd c)

/-- End a command with its completion record (R106, R107, R109). After the power-fail event no record is sent (R125), nor for a command
that a fabric reset or a hand-over has ended (R123, R124). -/
def complete (c : Cmd) (e : Ending) (m : Sys) : Sys :=
  let due := live m && hasRecord m c
  let m := dropCmd c m
  if !due then m
  else
    let m := takeEvent 8 m
    let b := completionBlock m c (recordBytes (ownAddr m) c e)
    if c.rook = ownAddr m then toHost b (setPhase c.ep.toNat c.reg.toNat .recordSent m)
    else sendBlock b (onTask (fun t => { t with ended := t.ended ++ [c] }) m)

/-- End a command with a status and nothing else. -/
def endWith (c : Cmd) (status : Byte) : Sys → Sys := complete c (ending status)

/-- The pieces of a transfer of `len` bytes whose first byte lies at `at_`: (offset in the transfer, length), cut at the 4 KiB boundaries
(R105, R116). -/
def transferPieces (at_ len : Nat) : List (Nat × Nat) :=
  let a := at_ % 4096
  if len = 0 then []
  else (List.range ((a + len + 4095) / 4096)).map fun i => (4096 * i - a, min (a + len) (4096 * (i + 1)) - max a (4096 * i))

/-- Where the bytes of a command's transfer lie: at the tensor offset for READ and WRITE, else nowhere. -/
def transferAt (c : Cmd) : Nat := if c.opcode = 0x01 ∨ c.opcode = 0x02 then c.tensor.toNat % 4096 else 0

/-- Data for the host buffer, in TENSOR_READ_RESP blocks of up to 4,096 bytes in ascending order (R105). -/
def sendData (c : Cmd) (bytes : List Byte) (m : Sys) : Sys :=
  forEach (transferPieces (transferAt c) bytes.length) (fun p m =>
    toRook c.rook { newBlock (ownAddr m) c.rook kTensorReadResp with
      host := true, ep := c.ep, tag := c.tag.zeroExtend 32, target := c.hostAddr + BitVec.ofNat 64 p.1,
      body := fitBytes ((p.2 + 3) / 4 * 4) (bytesAt bytes p.1 p.2) } m) m

/-- Deliver bytes to the host buffer and end DONE with RESULT_LEN and RESULT. -/
def deliver (c : Cmd) (bytes result : List Byte) (m : Sys) : Sys :=
  complete c { doneWith result with len := bytes.length } (sendData c bytes m)

/-- A search-family command (R316). -/
def searchFamily (c : Cmd) : Bool := decide (0x20 ≤ c.opcode.toNat) && decide (c.opcode.toNat ≤ 0x2F)

/-- A command is dispatched at this module: it is listed as running (R103), and a search command takes its snapshot, its index as the
registry held it at the end of the previous turn (R318). -/
def startCmd (c : Cmd) (m : Sys) : Sys :=
  let fresh := !m.task.running.any (sameCmd c)
  onSearch (fun s => { s with seen := if fresh && searchFamily c then s.seen ++ [(c, tfind (par c 32 2) s.prior)] else s.seen })
    (onTask (fun t => { t with running := if fresh then t.running ++ [c] else t.running }) m)

/-! ### Host-buffer fetches (R105) -/

/-- Ask for the next pieces of a fetch, at most 16 outstanding (R105); `n` pieces more may be asked for. -/
def askPieces (f : Fetch) : Nat → Sys → Fetch × Sys
  | 0, m => (f, m)
  | n + 1, m =>
    match f.todo with
    | [] => (f, m)
    | (o, l) :: rest =>
      let b := { newBlock (ownAddr m) f.cmd.rook kTensorRead with
        host := true, ep := f.cmd.ep, tag := f.cmd.tag.zeroExtend 32, target := f.cmd.hostAddr + BitVec.ofNat 64 o,
        body := leBytes 4 l }
      askPieces { f with todo := rest, asked := f.asked ++ [(o, l)] } n (toRook f.cmd.rook b m)

/-- Begin a fetch of LENGTH bytes from the host buffer (R105). -/
def beginFetch (c : Cmd) (m : Sys) : Sys :=
  let fresh : Fetch :=
    { cmd := c, todo := transferPieces (transferAt c) c.length.toNat, asked := [], blocked := [], bad := none, conds := 0, badUnits := [],
      taken := 0 }
  let r := askPieces fresh 16
    (startCmd c m)
  onTask (fun t => { t with fetches := t.fetches ++ [r.1] }) r.2

end Sys2Proof.Machine
end

