-- ==== Sys2Proof/Machine/Tensors.lean ====
section
/-!
DEFINITION. The tensor range: lookup and checks (R129 to R131, R141), byte access with correction, damage and copies (R137, R151,
R166 to R168, R382 to R390), space in the tiers (R132 to R135, R162) and eviction (R158 to R161).
-/
namespace Sys2Proof.Machine

/-! ### Addresses (R129, R130) -/

/-- Tensor number of a tensor-range address (R129). -/
def tnumOf (a : Word) : Nat := a.toNat / 2 ^ 40
/-- Byte offset of a tensor-range address (R129). -/
def offsetOf (a : Word) : Nat := a.toNat % 2 ^ 40
/-- A tensor-range address (R129). -/
def tensorAddr (n off : Nat) : Word := BitVec.ofNat 64 (n * 2 ^ 40 + off)

/-- A number that the host and plans may use (R130). -/
def userNumber (n : Nat) : Bool := 1 ≤ n && n ≤ 0xFFFEFF

/-- The table entry of a number in use. -/
def tensorOf (m : Sys) (n : Nat) : Option Tensor := tfind n m.range.tensors

/-- Store a table entry. -/
def setTensor (n : Nat) (t : Tensor) : Sys → Sys := onRange fun r => { r with tensors := tset n t r.tensors }

/-- Change the table entry of a number in use. -/
def updTensor (n : Nat) (f : Tensor → Tensor) : Sys → Sys := onRange fun r =>
  { r with tensors := match tfind n r.tensors with
      | some t => tset n (f t) r.tensors
      | none => r.tensors }

/-- Bytes of a 16 KiB unit (R150, R128). -/
def unitSize : Nat := 16384

/-- Number of units of a size. -/
def unitCount (size : Nat) : Nat := (size + unitSize - 1) / unitSize

/-- Touch a tensor (R158). -/
def touch (n : Nat) (m : Sys) : Sys := updTensor n (fun t => { t with touched := now m }) m

/-! ### Core sets (R133) -/

/-- The cores of a set, ascending (R133). -/
def coreList : CoreSet → List Nat
  | .one c => [c.toNat]
  | .squares mask => ((List.range 256).filter fun s => mask.getLsbD s).flatMap fun s => span (16 * s) 16

/-- Bytes that a tensor of `size` bytes occupies in the `i`-th of `n` cores: whole granules of 4 KiB (R133). -/
def coreShare (size n i : Nat) : Nat :=
  let g := (size + 4095) / 4096
  if i < g then ((g - i - 1) / n + 1) * 4096 else 0

/-- Bytes of T1 or TN that a tensor occupies: whole granules of 4 KiB (R134; log entry 12). -/
def granuleBytes (size : Nat) : Nat := (size + 4095) / 4096 * 4096

/-- Core `n`. -/
def coreOf (m : Sys) (n : Nat) : Core := tget coreReset n m.cores

/-- Change core `n`. -/
def onCore (n : Nat) (f : Core → Core) : Sys → Sys := onCores (tupd coreReset n f)

/-- A core whose store counts towards T0 capacity (R196). -/
def coreIn (m : Sys) (n : Nat) : Bool := !(coreOf m n).coreOut && !(coreOf m n).squareOut

/-! ### Error counts (R384, R385, R391 to R393, R455) -/

/-- Stack `s`. -/
def stackOf (m : Sys) (s : Nat) : Stack := tget stackReset s m.integrity.stackTab

/-- Change stack `s`. -/
def onStack (s : Nat) (f : Stack → Stack) : Sys → Sys :=
  onIntegrity fun x => { x with stackTab := tupd stackReset s f x.stackTab }

/-- Where a word lies: stack or core, or neither (R133, R134). -/
inductive WordHome where
  | stack (s : Nat)
  | core (n : Nat)
  | elsewhere
deriving DecidableEq, Repr

/-- The stack or core that holds word `w` of a tensor at a place (R133, R134). -/
def wordHome (p : Place) (w : Nat) : WordHome :=
  let g := w / 512
  match p with
  | .t1 s => .stack ((s.toNat + g) % 12)
  | .t0 c =>
    let l := coreList c
    .core (l.getD (g % l.length) 0)
  | _ => .elsewhere

/-- Take a remap entry for a location of a stack or core store, or do what R393 says of a full table (R391 to R393). The
location goes to the failing-address list of the ledger either way. -/
def takeRemap (isCore : Bool) (unit addr : Nat) (m : Sys) : Sys :=
  let m := onHealth (fun h => { h with failAddrs := h.failAddrs ++ [(isCore, unit, addr)] })
    (ledgerRec 0x08 true ([if isCore then 1 else 0] ++ [0] ++ leBytes 2 unit ++ leBytes 8 addr) m)
  if isCore then
    if (coreOf m unit).remap.length < 8 then
      let m := onCore unit (fun c => { c with remap := c.remap ++ [addr] }) m
      onlyIf ((coreOf m unit).remap.length == 8) (notice 0x0C 1 ([1, 0] ++ leBytes 2 unit)) m
    else onCore unit (fun c => { c with removalDue := true }) m
  else if (stackOf m unit).remap.length < 64 then
    let m := onStack unit (fun s => { s with remap := s.remap ++ [addr] }) m
    onlyIf ((stackOf m unit).remap.length == 64) (notice 0x0C 1 ([0, 0] ++ leBytes 2 unit))
      (onStack unit (fun s => { s with remapFull := s.remap.length == 64 }) m)
  else onStack unit (fun s => { s with remapFull := true }) m

/-- The second read of R384 or R385: whether it fails again is a free value, and so is the location's physical address; a
failing location is remapped (log entry 2). -/
def secondRead (h : WordHome) (m : Sys) : Sys :=
  let (v, m) := draw m
  if v.getLsbD 0 then
    match h with
    | .stack s => takeRemap false s (v >>> 1).toNat m
    | .core n => takeRemap true n (v >>> 1).toNat m
    | .elsewhere => m
  else m

/-- Count a correctable word (R384). -/
def countCorrected (h : WordHome) (m : Sys) : Sys :=
  match h with
  | .stack s => secondRead h (addTotal 23 1 (onStack s (fun x => { x with corrected := satInc x.corrected }) m))
  | .core n => secondRead h (addTotal 25 1 (onCore n (fun c => { c with eccCorr := satInc c.eccCorr }) m))
  | .elsewhere => m

/-- Count an uncorrectable word (R385). A stack's line is remembered with its turn for the 64 lines of R397. -/
def countUncorrectable (h : WordHome) (line : Nat) (m : Sys) : Sys :=
  match h with
  | .stack s =>
    secondRead h (addTotal 24 1 (onStack s (fun x => { x with
      uncorr := satInc x.uncorr,
      badLines := (x.badLines.filter fun e => e.1 != line && decide (now m < e.2 + secTurns)) ++ [(line, now m)] }) m))
  | .core n => secondRead h (addTotal 26 1 (onCore n (fun c => { c with eccUncorr := satInc c.eccUncorr }) m))
  | .elsewhere => m

/-! ### Damage and loss (R167) -/

/-- A tensor becomes LOST: event, notice and record (R167, R443, R452). `cause` is DETAIL byte 28. -/
def loseTensor (n cause : Nat) (m : Sys) : Sys :=
  match tensorOf m n with
  | none => m
  | some t =>
    if t.state = .lost then m
    else
      let d := leBytes 4 n ++ leBytes 1 cause
      eventRec 5 n d (notice 0x02 2 d (setTensor n { t with state := .lost } m))

/-- Record a damaged unit of a tensor's home (R167): the uncorrectable data error event, DAMAGED, or LOST beyond 64 units. A unit
already recorded raises nothing again (log entry 13). -/
def damage (n unit : Nat) (err : Word) (m : Sys) : Sys :=
  match tensorOf m n with
  | none => m
  | some t =>
    if t.state = .lost ∨ t.damaged.contains unit = true then m
    else
      let m := takeEvent 4 m
      let t' := { t with damaged := insertBy (fun a b => decide (a < b)) unit t.damaged }
      if 64 < t'.damaged.length then loseTensor n 0 (setTensor n t' m)
      else
        let d := leBytes 4 n ++ leBytes 8 err.toNat
        let m := setTensor n { t' with state := .damaged } m
        if t.state = .damaged then m else eventRec 5 n d (notice 0x01 2 d m)

/-- Units of a tensor of `size` bytes at a place that lie, in whole or part, in given cores (R133, R196). -/
def unitMeets (size : Nat) (p : Place) (cores : List Nat) (u : Nat) : Bool := match p with
  | .t0 c =>
    let l := coreList c
    !cores.isEmpty && (List.range (min 4 (((size - u * unitSize) + 4095) / 4096))).any fun g => cores.contains (l.getD ((4 * u + g) % l.length) 0)
  | _ => false

/-- A whole damaged unit has been written: the unit is repaired, and a movable tensor without damaged units is LIVE again (R167). -/
def repairUnit (n unit : Nat) : Sys → Sys := updTensor n fun t =>
  let d := t.damaged.filter (· != unit)
  { t with damaged := d, state := if t.state = .damaged ∧ d.isEmpty ∧ !t.isSealed then .live else t.state }

/-! ### Sources and destinations of an access (R137, R151) -/

/-- A place that holds a tensor's bytes. -/
inductive Source where
  | home | copy1 | copy0 | dest
deriving DecidableEq, Repr

/-- The sources of a unit in order: for a movable tensor the one current location (R151); for a sealed tensor its T1 copy, its T0
copy, then its home (R137). -/
def sourcesOf (t : Tensor) (unit : Nat) : List Source :=
  if t.isSealed then
    (if t.copy1.isSome then [.copy1] else []) ++ (if t.copy0.isSome then [.copy0] else []) ++ [.home]
  else match t.motion with
    | some mo => if mo.started && decide (unit < mo.next) && !mo.window.contains unit then [.dest] else [.home]
    | none => [.home]

/-- The store of a source. -/
def storeAt (t : Tensor) : Source → Store
  | .home => t.store
  | .copy1 => (t.copy1.map (·.2)).getD (freshStore false)
  | .copy0 => (t.copy0.map (·.2)).getD (freshStore false)
  | .dest => (t.motion.map (·.store)).getD (freshStore false)

/-- Replace the store of a source. -/
def withStore (t : Tensor) (s : Store) : Source → Tensor
  | .home => { t with store := s }
  | .copy1 => { t with copy1 := t.copy1.map fun c => (c.1, s) }
  | .copy0 => { t with copy0 := t.copy0.map fun c => (c.1, s) }
  | .dest => { t with motion := t.motion.map fun mo => { mo with store := s } }

/-- The place of a source. -/
def placeAt (t : Tensor) : Source → Place
  | .home => t.place
  | .copy1 => match t.copy1 with
    | some c => .t1 c.1
    | none => .none
  | .copy0 => match t.copy0 with
    | some c => .t0 c.1
    | none => .none
  | .dest => (t.motion.map (·.dest)).getD .none

/-- The unit lies, at a source of it, in a core store that has been lost (R196). -/
def unitLost (t : Tensor) (s : Source) (u : Nat) : Bool := match s with
  | .home => unitMeets t.size t.place t.lostCores u
  | .dest => (t.motion.map fun mo => unitMeets t.size mo.dest mo.lostCores u).getD false
  | _ => false

/-- Drop the T1 copy (R155, R159). -/
def dropCopy1 (n : Nat) : Sys → Sys := updTensor n fun t => { t with copy1 := none }
/-- Drop the T0 copy. -/
def dropCopy0 (n : Nat) : Sys → Sys := updTensor n fun t => { t with copy0 := none }

/-! ### Sealed homes in flash (R348, R349, R360) -/

/-- The logical unit at unit offset `i` of a sealed tensor (R349). -/
def logicalUnit (t : Tensor) (i : Nat) : Option Nat := (t.chunks[i / 64]?).map fun c => 64 * c + i % 64

/-- The XTS tweak of a unit: CREATED and the unit offset (R360). -/
def unitTweak (t : Tensor) (i : Nat) : Nat := t.created.toNat * 2 ^ 64 + i

/-- Plaintext of the unit at offset `i` of a sealed home; none when it is not mapped, marked DAMAGED, or its key is gone. -/
def flashUnit (m : Sys) (t : Tensor) (i : Nat) : Option (List Byte) :=
  match logicalUnit t i with
  | none => none
  | some u =>
    match tfind u m.flash.map, tfind u m.flash.data, tfind t.ns.toNat m.flash.spaces with
    | some e, some d, some key => if e.damaged then none else some (xtsDecrypt key (unitTweak t i) d)
    | _, _, _ => none

/-! ### Leased memory at the borrower (R86; log entry 31) -/

/-- The places where a tensor holds space, with the destination of a motion that holds space. -/
def placesOf (t : Tensor) : List Place :=
  [t.place] ++ (match t.copy1 with
    | some c => [.t1 c.1]
    | none => []) ++
  (match t.copy0 with
    | some c => [.t0 c.1]
    | none => []) ++
  (match t.motion with
    | some mo => if mo.holds then [mo.dest] else []
    | none => [])

/-- The lease and byte offset that a TARGET names: [63:48] and [37:0], the other bits zero (R86). -/
def leaseTarget (a : Word) : Option (Nat × Nat) :=
  if wfield a 38 10 = 0 then some (wfield a 48 16, wfield a 0 38) else none

/-- The TARGET of a byte of leased memory (R86). -/
def leasedTarget (number off : Nat) : Word := word [place number 48 16, place off 0 38]

/-- The tensor of this module, and the offset in it, that a byte of the memory of a lender holds (R86). -/
def leasedAt (m : Sys) (lender : Addr) (a : Word) : Option (Nat × Nat) :=
  match leaseTarget a with
  | none => none
  | some (number, off) => m.range.tensors.findSome? fun e => (placesOf e.2).findSome? fun p => match p with
      | .tn l start =>
        match tfind l.toNat m.fabric.borrowed with
        | some x =>
          if x.number = number ∧ leaseAddr m x = lender ∧ start ≤ off ∧ off < start + granuleBytes e.2.size then some (e.1, off - start)
          else none
        | none => none
      | _ => none

/-- TAG of a read of leased memory: the writes that went before it (DESIGN CHOICE, log entry 14). -/
def leaseTag (l : Lease) : BitVec 32 := BitVec.ofNat 32 (0x01000000 + l.writes % 2 ^ 24)

/-- The 4-byte words of [off, off + len), cut into blocks of at most 4,096 bytes: (offset, length). -/
def leasePieces (off len : Nat) : List (Nat × Nat) :=
  let lo := off / 4 * 4
  let n := (off + len + 3) / 4 * 4 - lo
  (List.range ((n + 4095) / 4096)).map fun i => (lo + 4096 * i, min 4096 (n - 4096 * i))

/-- Act on the lease that a place lies in, with the byte where the place begins. -/
def onLease (p : Place) (f : Nat → Nat → Lease → Sys → Sys) (m : Sys) : Sys :=
  match p with
  | .tn h start => match tfind h.toNat m.fabric.borrowed with
    | some l => f h.toNat start l m
    | none => m
  | _ => m

/-- A read of a tensor in TN asks the lender for the bytes with TENSOR_READ blocks (R86). -/
def leaseFetch (p : Place) (off len : Nat) (m : Sys) : Sys :=
  onLease p (fun _ start l m => forEach (leasePieces off len) (fun e m =>
    sendBlock { newBlock (ownAddr m) (leaseAddr m l) kTensorRead with
      target := leasedTarget l.number (start + e.1), tag := leaseTag l, body := leBytes 4 e.2 } m) m) m

/-- A write to a tensor in TN goes to the lender in TENSOR_WRITE blocks, in whole 4-byte words of the store written (R64, R86). -/
def leaseStore (p : Place) (s : Store) (off len : Nat) (m : Sys) : Sys :=
  onLease p (fun h start l m => forEach (leasePieces off len) (fun e m =>
    sendBlock { newBlock (ownAddr m) (leaseAddr m l) kTensorWrite with
      target := leasedTarget l.number (start + e.1), tag := leaseTag l, body := (readStore s e.1 e.2).bytes }
      (onFabric (fun x => { x with borrowed := tupd l h (fun y => { y with writes := y.writes + 1 }) x.borrowed }) m)) m) m

/-! ### Reading (R137, R166, R382, R388) -/

/-- What a read of tensor bytes gave: the bytes, and the first failing offset of each condition (R470). -/
structure TRead where
  bytes : List Byte
  uncorr : Option Nat
  unwritten : Option Nat
deriving DecidableEq, Repr

/-- Count what an access to a tensor met (R384, R385); a line is known by tensor and place in it. -/
def countAccess (n : Nat) (p : Place) (a : Access1) (m : Sys) : Sys :=
  forEach a.poisoned (fun w => countUncorrectable (wordHome p w) (n * 2 ^ 40 + w / 8))
    (forEach a.corrected (fun w => countCorrected (wordHome p w)) m)

/-- Words of a line at a place: 64 bytes in T1, 256 bytes in a core store (R383). -/
def lineWords : Place → Nat
  | .t1 _ => 8
  | .t0 _ => 32
  | _ => 1

/-- Units of the words that an access poisoned without using them (R383). -/
def strayUnits (a b : Access1) : List Nat := ((b.poisoned.drop a.poisoned.length).map fun w => w * 8 / unitSize).eraseDups

/-- Damage in units of a tensor's home, each at its first byte (R167). -/
def damageStray (n : Nat) (l : List Nat) (m : Sys) : Sys := forEach l (fun u => damage n u (tensorAddr n (u * unitSize))) m

/-- A sealed copy has gone for an uncorrectable word (R166). -/
def lostCopy : Sys → Sys := onIntegrity fun x => { x with copyDrops := satInc x.copyDrops }

/-- Read bytes [off, off + len) of one unit from the first source that can serve them (R137, R166). -/
def readPiece (n off len : Nat) : List Source → Sys → TRead × Sys
  | [], m => ({ bytes := zeros len, uncorr := some off, unwritten := none }, m)
  | s :: rest, m =>
    match tensorOf m n with
    | none => ({ bytes := zeros len, uncorr := some off, unwritten := none }, m)
    | some t =>
      if t.place = .flash ∧ s = .home then
        let unit := off / unitSize
        if m.flash.badLookup.isSome && m.flash.badLookup == logicalUnit t unit then
          ({ bytes := zeros len, uncorr := some off, unwritten := none }, onFlash (fun x => { x with badLookup := none }) m)
        else
        match flashUnit m t unit with
        | some d =>
          if t.damaged.contains unit then ({ bytes := zeros len, uncorr := some off, unwritten := none }, m)
          else ({ bytes := bytesAt d (off % unitSize) len, uncorr := none, unwritten := none }, m)
        | none => ({ bytes := zeros len, uncorr := some off, unwritten := none }, damage n unit (tensorAddr n off) m)
      else
      let a0 := readStore (storeAt t s) off len
      let a := treatLines (lineWords (placeAt t s)) off len a0
      let m := leaseFetch (placeAt t s) off len (countAccess n (placeAt t s) a (setTensor n (withStore t a.store s) m))
      match s with
      | .copy1 =>
        let m := if a.poisoned.isEmpty && a.uncorr.isNone then m else lostCopy (dropCopy1 n m)
        if a.uncorr.isSome then readPiece n off len rest m
        else ({ bytes := a.bytes, uncorr := none, unwritten := a.unwritten }, m)
      | .copy0 =>
        let m := if a.poisoned.isEmpty && a.uncorr.isNone then m else lostCopy (dropCopy0 n m)
        if a.uncorr.isSome then readPiece n off len rest m
        else ({ bytes := a.bytes, uncorr := none, unwritten := a.unwritten }, m)
      | _ =>
        let unit := off / unitSize
        let bad := if t.damaged.contains unit then some (a.uncorr.getD off) else a.uncorr
        let m := match a.uncorr with
          | some o => damage n unit (tensorAddr n o) m
          | none => m
        ({ bytes := a.bytes, uncorr := bad, unwritten := a.unwritten }, damageStray n (strayUnits a0 a) m)

/-- Cut [off, off + len) at unit boundaries; `fuel` bounds the number of units. -/
def unitPieces : Nat → Nat → Nat → List (Nat × Nat)
  | 0, _, _ => []
  | fuel + 1, off, len =>
    if len = 0 then []
    else
      let l := min len (unitSize - off % unitSize)
      (off, l) :: unitPieces fuel (off + l) (len - l)

/-- The pieces of a range, one per unit. -/
def piecesOf (off len : Nat) : List (Nat × Nat) := unitPieces (unitCount len + 1) off len

/-- Read a range of a tensor; a LOST tensor gives UNCORRECTABLE (R141). A read that reports NOT_WRITTEN is counted (R388). -/
def readTensor (n off len : Nat) (m : Sys) : TRead × Sys :=
  match tensorOf m n with
  | none => ({ bytes := zeros len, uncorr := some off, unwritten := none }, m)
  | some t =>
    if t.state = .lost then ({ bytes := zeros len, uncorr := some off, unwritten := none }, touch n m)
    else
      let r := (piecesOf off len).foldl (fun (acc : TRead × Sys) p =>
        let t := (tensorOf acc.2 n).getD t
        let r := readPiece n p.1 p.2 (sourcesOf t (p.1 / unitSize)) acc.2
        ({ bytes := acc.1.bytes ++ r.1.bytes, uncorr := acc.1.uncorr.orElse fun _ => r.1.uncorr,
           unwritten := acc.1.unwritten.orElse fun _ => r.1.unwritten }, r.2))
        ({ bytes := [], uncorr := none, unwritten := none }, touch n m)
      if r.1.unwritten.isSome then
        (r.1, onIntegrity (fun x => { x with notWritten := satInc x.notWritten }) r.2)
      else r

/-- The status and failing address of a read's conditions (R14, R470). -/
def readEnding (n : Nat) (r : TRead) : Ending :=
  let conds := (if r.uncorr.isSome then condition stUncorrectable else 0) ||| (if r.unwritten.isSome then condition stNotWritten else 0)
  match r.uncorr, r.unwritten with
  | some o, _ => { failedAt stUncorrectable (tensorAddr n o) with conds }
  | none, some o => { failedAt stNotWritten (tensorAddr n o) with conds }
  | none, none => ending stDone

/-! ### Writing (R136, R151, R167, R390) -/

/-- Write bytes inside one unit of a movable tensor, at its current location. Gives the first offset that reports UNCORRECTABLE. A write
into a store that has been lost reports it and repairs nothing (R196; DESIGN CHOICE, log entry 13). -/
def writePiece (n off : Nat) (data : List Byte) (m : Sys) : Option Nat × Sys :=
  match tensorOf m n with
  | none => (some off, m)
  | some t =>
    let unit := off / unitSize
    let s := (sourcesOf t unit).headD .home
    if unitLost t s unit then (some off, m) else
    let a0 := writeStore (storeAt t s) off data
    let a := match placeAt t s with
      | .t1 _ => treatLines 8 off data.length a0
      | _ => a0
    let m := leaseStore (placeAt t s) a.store off data.length (countAccess n (placeAt t s) a (setTensor n (withStore t a.store s) m))
    let whole := off % unitSize == 0 && (data.length == unitSize || off + data.length == t.size)
    let m := match a.uncorr with
      | some o => damage n unit (tensorAddr n o) (onIntegrity (fun x => { x with mergeUncorr := satAdd x.mergeUncorr a.discarded }) m)
      | none => onlyIf (whole && t.damaged.contains unit) (repairUnit n unit) m
    (a.uncorr, damageStray n (strayUnits a0 a) m)

/-- Write a range of a movable tensor; gives the first offset that reports UNCORRECTABLE. -/
def writeTensor (n off : Nat) (data : List Byte) (m : Sys) : Option Nat × Sys :=
  match tensorOf m n with
  | none => (some off, m)
  | some t =>
    if t.state = .lost then (some off, m)
    else (piecesOf off data.length).foldl (fun (acc : Option Nat × Sys) p =>
      let r := writePiece n p.1 ((data.drop (p.1 - off)).take p.2) acc.2
      (acc.1.orElse fun _ => r.1, r.2)) (none, touch n m)

/-- The PHY of stack `s` retrains: accesses to the stack wait (R397). -/
def retrains (m : Sys) (s : Nat) : Bool := (stackOf m s).state == 3

/-- A stack that retrains holds some of the bytes [off, off + len) at a place (R134, R397). -/
def placeRetrains (m : Sys) (p : Place) (off len : Nat) : Bool := match p with
  | .t1 s => m.integrity.stackTab.any (·.2.state == 3) && len != 0 &&
      (span (off / 4096) ((off + len - 1) / 4096 + 1 - off / 4096)).any fun g => retrains m ((s.toNat + g) % 12)
  | _ => false

/-- An access to bytes [off, off + len) of a tensor waits for a stack that retrains (R397). -/
def stackWaits (m : Sys) (t : Tensor) (off len : Nat) : Bool :=
  (piecesOf off len).any fun p => placeRetrains m (placeAt t ((sourcesOf t (p.1 / unitSize)).headD .home)) p.1 p.2

/-- Some unit of the range is in the window of the tensor's motion (R151). -/
def inWindow (t : Tensor) (off len : Nat) : Bool :=
  match t.motion with
  | some mo => mo.started && (piecesOf off len).any fun p => mo.window.contains (p.1 / unitSize)
  | none => false

/-! ### Space in the tiers (R132 to R135, R168) -/

/-- Capacity of T1 for tensors: 304 GiB (R132). -/
def t1Capacity : Nat := 304 * 2 ^ 30
/-- Capacity of a core store for tensors: 480 KiB (R132). -/
def coreCapacity : Nat := 480 * 1024

/-- Bytes of T1 that a tensor holds. -/
def t1Held (t : Tensor) : Nat :=
  ((placesOf t).filter fun p => match p with
    | .t1 _ => true
    | _ => false).length * granuleBytes t.size

/-- Bytes of one core store that a tensor of `size` bytes takes at a place (R133), but for stores that it has lost (R196). -/
def coreBytes (core size : Nat) (lost : List Nat) (p : Place) : Nat := match p with
  | .t0 c =>
    let l := coreList c
    match indexOf? (· == core) l with
    | some i => if lost.contains core then 0 else coreShare size l.length i
    | none => 0
  | _ => 0

/-- Bytes of one core store that a tensor's home holds. -/
def homeShare (core : Nat) (t : Tensor) : Nat := coreBytes core t.size t.lostCores t.place

/-- Bytes of one core store that a tensor holds: its home, its copy, and the destination of a motion that holds space. -/
def coreHeld (core : Nat) (t : Tensor) : Nat :=
  homeShare core t +
  (match t.copy0 with
    | some c => coreBytes core t.size [] (.t0 c.1)
    | none => 0) +
  (match t.motion with
    | some mo => if mo.holds then coreBytes core t.size mo.lostCores mo.dest else 0
    | none => 0)

/-- Sum over the tensor table. -/
def sumTensors (f : Tensor → Nat) (m : Sys) : Nat := m.range.tensors.foldl (fun a e => a + f e.2) 0

/-- GiB lent to other modules (R86). -/
def lentGib (m : Sys) : Nat := m.fabric.lent.foldl (fun a e => a + e.2.gib) 0
/-- GiB borrowed from other modules (R86). -/
def borrowedGib (m : Sys) : Nat := m.fabric.borrowed.foldl (fun a e => a + e.2.gib) 0

/-- Free bytes of T1: not held by a tensor, copy or window, and not lent (R168). -/
def t1Free (m : Sys) : Nat := t1Capacity - sumTensors t1Held m - lentGib m * 2 ^ 30

/-- Bytes of each core store that the job holding the complex has reserved as scratch (R288). -/
def scratchHeld (m : Sys) : Nat := match m.jobs.job with
  | some j => if j.admitting then 0 else j.plan.tasksPerCore * j.plan.scratch
  | none => 0

/-- Free bytes of a core store. -/
def coreFree (m : Sys) (core : Nat) : Nat :=
  if coreIn m core then coreCapacity - sumTensors (coreHeld core) m - scratchHeld m else 0

/-- A tensor of `size` bytes fits in a core set now. -/
def fitsCores (m : Sys) (c : CoreSet) (size : Nat) : Bool :=
  let l := coreList c
  (List.range l.length).all fun i => coreShare size l.length i ≤ coreFree m (l.getD i 0)

/-- A tensor can lie in a core set at all (R133). -/
def coresCanHold (m : Sys) (c : CoreSet) (size : Nat) : Bool :=
  let l := coreList c
  (List.range l.length).all fun i => coreShare size l.length i ≤ (if coreIn m (l.getD i 0) then coreCapacity else 0)

/-- The ranges of a lease in use: (offset, bytes), ascending. -/
def leaseUse (m : Sys) (lease : Nat) : List (Nat × Nat) :=
  sortBy (fun a b => decide (a.1 < b.1)) (m.range.tensors.flatMap fun e =>
    (placesOf e.2).flatMap fun p => match p with
      | .tn l off => if l.toNat = lease then [(off, granuleBytes e.2.size)] else []
      | _ => [])

/-- The lowest gap of `need` bytes in a lease of `cap` bytes. -/
def firstGap (cap need : Nat) : Nat → List (Nat × Nat) → Option Nat
  | at_, [] => if at_ + need ≤ cap then some at_ else none
  | at_, (o, l) :: t => if at_ + need ≤ o then some at_ else firstGap cap need (max at_ (o + l)) t

/-- Room for a tensor in a lease held and not recalled (R135, R161). Where in it a tensor lies is the module's choice: one range, at the
lowest gap of the first lease that has one (DESIGN CHOICE, log entry 31). -/
def leaseRoom (m : Sys) (size : Nat) : Option Place :=
  if 256 * 2 ^ 30 < size then none
  else m.fabric.borrowed.findSome? fun e =>
    if e.2.recalled then none
    else (firstGap (e.2.gib * 2 ^ 30) (granuleBytes size) 0 (leaseUse m e.1)).map fun o => Place.tn (BitVec.ofNat 16 e.1) o

/-- A seal or append of the tensor is in progress. -/
def underSeal (m : Sys) (n : Nat) : Bool := m.flash.seals.any fun s => s.target.toNat == n || s.source.toNat == n

/-- A tensor counts as pinned: pin count, or in motion (R154). -/
def isPinned (t : Tensor) : Bool := t.pins != 0 || (match t.motion with
  | some mo => mo.started
  | none => false)

/-- Bytes of T1 held by pinned tensors and tensors in motion. -/
def t1Pinned (m : Sys) : Nat := sumTensors (fun t => if isPinned t then t1Held t else 0) m

/-- The 8 GiB rule (R162): with `extra` more bytes pinned, at least 8 GiB of T1 stay unpinned. -/
def pinAllowed (m : Sys) (extra : Nat) : Bool := t1Pinned m + extra + 8 * 2 ^ 30 ≤ t1Capacity

/-- The bytes of T1 that pinning this tensor would add. -/
def pinExtra (t : Tensor) : Nat := if isPinned t then 0 else t1Held t

/-- A starting stack of T1: the module's choice, a free value (R134; log entry 2). -/
def drawStart (m : Sys) : BitVec 4 × Sys :=
  let (v, m) := draw m
  (BitVec.ofNat 4 (v.toNat % 12), m)

/-! ### Eviction (R159, R160) -/

/-- Oldest touch first, then the lower number (R159). -/
def olderThan (a b : Nat × Tensor) : Bool := a.2.touched < b.2.touched || (a.2.touched == b.2.touched && a.1 < b.1)

/-- Neither pinned nor in motion. A tensor under a seal stays where it is until the seal ends (DESIGN CHOICE, log entry 16). -/
def evictable (m : Sys) (e : Nat × Tensor) : Bool := e.2.pins == 0 && e.2.motion.isNone && !underSeal m e.1

/-- The next order of request (R156). -/
def takeOrder (m : Sys) : Nat × Sys := (m.range.order, onRange (fun r => { r with order := r.order + 1 }) m)

/-- A request for space: its order, the tensor to be placed (0: scratch), whether leases may be asked for, and the tensors that its
selections skip since no grant came (R161). -/
structure Need where
  req : Nat
  tensor : Nat
  asks : Bool
  skipped : List TNum
deriving DecidableEq, Repr

/-- What the evictions that a request starts bear. -/
def Need.cause (r : Need) : Nat × Nat := (r.req, r.tensor)

/-- A motion that waits to start, of the module's own. -/
def newMotion (dest : Place) (prio order : Nat) : Motion :=
  { dest, copying := false, started := false, holds := true, next := 0, window := [], store := freshStore false, prio, order, req := order,
    cause := none, touches := false, asker := .engine, pin := false, lostCores := [] }

/-- Ask the engine for a motion (R156). -/
def requestMotion (n : Nat) (mo : Motion) : Sys → Sys := updTensor n fun t => { t with motion := some mo }

/-- An eviction is asked for (R156, R159, R455). -/
def demote (r : Need) (n : Nat) (dest : Place) (holds : Bool) (m : Sys) : Sys :=
  let (o, m) := takeOrder m
  onRange (fun x => { x with demoted := satInc x.demoted }) (addTotal 46 1
    (requestMotion n { newMotion dest 2 o with holds, req := r.req, cause := some r.cause } m))

/-- An eviction drops a copy (R159, R455). -/
def countDrop : Sys → Sys := fun m => onRange (fun r => { r with dropped := satInc r.dropped }) (addTotal 45 1 m)

/-- A motion is an eviction for a cause. -/
def evictsFor (cause : Nat × Nat) (mo : Motion) : Bool := mo.cause == some cause

/-- Bytes of T1 that the evictions of one selection are freeing (R159). -/
def t1FreeingFor (cause : Nat × Nat) (m : Sys) : Nat :=
  sumTensors (fun t => match t.place, t.motion with
    | .t1 _, some mo => if evictsFor cause mo then granuleBytes t.size else 0
    | _, _ => 0) m

/-- Bytes of T1 that waiting motions are to take out of its free space: what their own evictions do not free for them. -/
def t1Claims (m : Sys) : Nat :=
  m.range.tensors.foldl (fun a e => a + (match e.2.motion with
    | some mo => (match mo.dest with
      | .t1 _ => if mo.holds then 0 else granuleBytes e.2.size - t1FreeingFor (mo.req, e.1) m
      | _ => 0)
    | none => 0)) 0

/-- Free space of T1 that no motion is waiting for (R159, R163). -/
def t1Spare (m : Sys) : Nat := t1Free m - t1Claims m

/-! ### Leases for evictions (R161) -/

/-- A lease request for a tensor is outstanding (R161). -/
def leaseAwaited (m : Sys) (n : Nat) : Bool := m.fabric.leaseAsks.any (·.tensor == n)

/-- Ask the first module of a list that has an address; the others stay to be asked. False: there is none (R161; log entry 8). -/
def askLenders (n gib : Nat) : List Word → Sys → Bool × Sys
  | [], m => (false, m)
  | id :: rest, m =>
    match (tfind id.toNat m.fabric.links).bind (·.addr) with
    | some a =>
      (true, sendBlock { newBlock (ownAddr m) a kLeaseReq with body := leBytes 8 identity.toNat ++ leBytes 4 gib }
        (onFabric (fun x => { x with leaseAsks := x.leaseAsks ++ [{ tensor := n, gib, asked := id, rest }] }) m))
    | none => askLenders n gib rest m

/-- The lease request of R161 for a tensor: whole GiB, modules at one hop, then two, lowest identity first. False: no grant can come. -/
def askLease (n size : Nat) (m : Sys) : Bool × Sys :=
  let gib := (size + 2 ^ 30 - 1) / 2 ^ 30
  let asked := m.fabric.leaseAsks.foldl (fun a x => a + x.gib) 0
  if leaseAwaited m n then (true, m)
  else if 256 * 2 ^ 30 < size ∨ min 256 m.fabric.borrowMax.toNat < borrowedGib m + asked + gib then (false, m)
  else
    let dist := distances m identity.toNat
    let group := (m.fabric.links.filter fun e => e.2.group == m.fabric.group && e.2.addr.isSome).map (·.1)
    let near := (dist.filter fun e => e.2 == 1 && group.contains e.1).map (·.1)
    let far := (dist.filter fun e => e.2 == 2 && group.contains e.1).map (·.1)
    askLenders n gib ((near ++ far).map (BitVec.ofNat 64)) m

/-- No grant came for a tensor: the requests that wait skip it (R161). -/
def skipTensor (n : Nat) : Sys → Sys := onRange fun r => { r with
  waits := r.waits.map fun w => { w with skipped := w.skipped ++ [BitVec.ofNat 24 n] } }

/-! ### Selection (R159, R160) -/

/-- Selection over T1 (R159): candidates oldest first until free space and the space that this selection frees cover `need`. True: it
waits for a grant (R161). -/
def selectT1 (r : Need) (need : Nat) : List (Nat × Tensor) → Sys → Bool × Sys
  | [], m => (false, m)
  | (n, t) :: rest, m =>
    if need ≤ t1Spare m + t1FreeingFor r.cause m then (false, m)
    else if t.isSealed then selectT1 r need rest (countDrop (dropCopy1 n m))
    else match leaseRoom m t.size with
      | some p => selectT1 r need rest (demote r n p true m)
      | none =>
        if !r.asks || r.skipped.contains (BitVec.ofNat 24 n) then selectT1 r need rest m
        else match askLease n t.size m with
          | (true, m) => (true, m)
          | (false, m) => selectT1 r need rest m

/-- Candidates of T1: tensors with a T1 home or T1 copy, neither pinned nor in motion, oldest touch first (R159); the tensor that is
itself to be placed is none. -/
def t1Candidates (r : Need) (m : Sys) : List (Nat × Tensor) :=
  sortBy olderThan (m.range.tensors.filter fun e => evictable m e && e.1 != r.tensor && decide (0 < t1Held e.2))

/-- What a request for space finds (R160). -/
inductive Room where
  | now | wait | full
deriving DecidableEq, Repr

/-- A motion of the tensor moves its home away. -/
def movesOut (t : Tensor) : Bool := match t.motion with
  | some mo => !mo.copying
  | none => false

/-- In motion, or under a seal that is still to end. -/
def unsettled (m : Sys) (e : Nat × Tensor) : Bool := e.2.motion.isSome || underSeal m e.1

/-- Bytes of T1 that tensors in motion could give once their motions end: homes that move away, whatever pins them, and what a later
selection could take (R160). -/
def t1InMotion (m : Sys) : Nat :=
  m.range.tensors.foldl (fun a e => a +
    (if unsettled m e && e.2.pins == 0 then t1Held e.2
     else match e.2.place with
      | .t1 _ => if movesOut e.2 then granuleBytes e.2.size else 0
      | _ => 0)) 0

/-- The lender needs its memory: every lease granted and not yet recalled is recalled (R87; log entry 27). -/
def recallLent (m : Sys) : Sys :=
  forEach (m.fabric.lent.filter fun e => !e.2.recalled) (fun e m =>
    sendBlock { newBlock (ownAddr m) (leaseAddr m e.2) kLeaseRecall with body := leBytes 4 e.1 }
      (onFabric (fun x => { x with lent := tupd e.2 e.1 (fun l => { l with recalled := true }) x.lent }) m)) m

/-- Make room for `need` bytes in T1 (R159, R160). -/
def roomT1 (r : Need) (need : Nat) (m : Sys) : Room × Sys :=
  if !m.range.t1Ready then (.full, m)
  else
    let (asked, m) := selectT1 r need (t1Candidates r m) m
    if need ≤ t1Spare m then (.now, m)
    else if asked || decide (need ≤ t1Spare m + t1FreeingFor r.cause m) || decide (need ≤ t1Spare m + t1InMotion m) then (.wait, m)
    else (.full, recallLent m)

/-- Bytes of a core store that the evictions of one selection are freeing (R159). -/
def coreFreeingFor (cause : Nat × Nat) (m : Sys) (core : Nat) : Nat :=
  sumTensors (fun t => match t.motion with
    | some mo => if evictsFor cause mo then homeShare core t else 0
    | none => 0) m

/-- Bytes of a core store that tensors in motion could give once their motions end (R160). -/
def coreInMotion (m : Sys) (core : Nat) : Nat :=
  m.range.tensors.foldl (fun a e => a +
    (if unsettled m e && e.2.pins == 0 then coreHeld core e.2 else if movesOut e.2 then homeShare core e.2 else 0)) 0

/-- Selection over requested cores until there is enough (R159): copies are dropped, movable tensors move to T1, which makes room by
its own selection. True: it waits for a grant (R161). -/
def selectT0 (r : Need) (enough : Sys → Bool) : List (Nat × Tensor) → Sys → Bool × Sys
  | [], m => (false, m)
  | (n, t) :: rest, m =>
    if enough m then (false, m)
    else if t.isSealed then selectT0 r enough rest (countDrop (dropCopy0 n m))
    else
      let own : Need := { r with tensor := n }
      let size := granuleBytes t.size
      let (asked, m) := selectT1 own size (t1Candidates own m) m
      if size ≤ t1Spare m + t1FreeingFor own.cause m then
        let (s, m) := drawStart m
        selectT0 r enough rest (demote r n (.t1 s) (size ≤ t1Spare m) m)
      else if asked then (true, m)
      else selectT0 r enough rest m

/-- Candidates of a set of cores (R159). -/
def t0Candidates (r : Need) (l : List Nat) (m : Sys) : List (Nat × Tensor) :=
  sortBy olderThan (m.range.tensors.filter fun e => evictable m e && e.1 != r.tensor && l.any fun n => decide (0 < coreHeld n e.2))

/-- Make room in core stores, each with the bytes it is to give (R159, R160). -/
def roomCores (r : Need) (l : List (Nat × Nat)) (m : Sys) : Room × Sys :=
  let covered (more : Sys → Nat → Nat) (m : Sys) : Bool := l.all fun e => decide (e.2 ≤ coreFree m e.1 + more m e.1)
  let (asked, m) := selectT0 r (covered (coreFreeingFor r.cause)) (t0Candidates r (l.map (·.1)) m) m
  if covered (fun _ _ => 0) m then (.now, m)
  else if asked || covered (coreFreeingFor r.cause) m || covered coreInMotion m then (.wait, m)
  else (.full, m)

/-- Make room for a tensor in a core set (R159, R160). -/
def roomT0 (r : Need) (c : CoreSet) (size : Nat) (m : Sys) : Room × Sys :=
  if !coresCanHold m c size then (.full, m)
  else
    let l := coreList c
    roomCores r ((List.range l.length).map fun i => (l.getD i 0, coreShare size l.length i)) m

/-- Cores in service (R194). -/
def servingCores (m : Sys) : List Nat := (List.range 4096).filter (coreIn m)

/-- Make room for a job's scratch in every core store in service (R288). -/
def roomScratch (r : Need) (need : Nat) (m : Sys) : Room × Sys := roomCores r ((servingCores m).map fun n => (n, need)) m

/-- Make room in TN for the tensor of a request: held leases, else a lease request (R161). -/
def roomTN (r : Need) (size : Nat) (m : Sys) : Room × Sys :=
  match leaseRoom m size with
  | some _ => (.now, m)
  | none =>
    if !r.asks || r.skipped.contains (BitVec.ofNat 24 r.tensor) then (.full, m)
    else match askLease r.tensor size m with
      | (true, m) => (.wait, m)
      | (false, m) => (.full, m)

/-- Count a request ended FULL under R160. -/
def countFull : Sys → Sys := fun m => onRange (fun r => { r with full := satInc r.full }) (addTotal 47 1 m)

/-- Slots of the running job that bind a tensor (R276, R297). -/
def boundSlots (m : Sys) (n : Nat) : List Slot := match m.jobs.job with
  | some j => if j.admitting then [] else ((j.binds.zip j.plan.slots).filter fun e => tnumOf e.1 == n).map (·.2)
  | none => []

/-- A host write to the tensor races with the running job (R297). -/
def writeRaces (m : Sys) (n : Nat) : Bool := !(boundSlots m n).isEmpty
/-- A host read of the tensor races with the running job (R297). -/
def readRaces (m : Sys) (n : Nat) : Bool := (boundSlots m n).any fun s => s.access.getLsbD 1

/-- A number that a create may take: FREE, and not one of a sealed tensor whose deletion no flush carries yet (R144). -/
def isFree (m : Sys) (n : Nat) : Bool := (tensorOf m n).isNone && !m.range.deleting.any (·.2.toNat == n)

/-- Free everything that a number's tensor holds (R144). -/
def freeNumber (n : Nat) : Sys → Sys := onRange fun r => { r with tensors := tdel n r.tensors }

end Sys2Proof.Machine
end

