-- ==== Sys2Proof/Machine/Commands.lean ====
section
/-!
DEFINITION. How a command block is run, and the commands of "Task registers and command flow": NOP, READ, WRITE, POWER_STATE and
ABORT_TAG (R97 to R106, R117 to R121).
-/
namespace Sys2Proof.Machine

/-! ### Running a command -/

/-- The opcodes that the recovery loader executes (R427). -/
def loaderOpcodes : List Byte := [0x00, 0x60, 0x61, 0x62, 0x64, 0x65, 0x66, 0x68, 0x69, 0x6A]

/-- The assigned opcodes (R98, R142, R283, R309, R378, R415, R460). -/
def opcodeAssigned (o : Byte) : Bool :=
  [0x00, 0x01, 0x02, 0x08, 0x0A, 0x10, 0x11, 0x12, 0x18, 0x19, 0x20, 0x21, 0x22, 0x24, 0x25, 0x26, 0x27, 0x30, 0x31, 0x32, 0x33,
   0x34, 0x35, 0x36, 0x37, 0x38, 0x39, 0x50, 0x51, 0x52, 0x58, 0x59, 0x60, 0x61, 0x62, 0x63, 0x64, 0x65, 0x66, 0x68, 0x69, 0x6A,
   0x6C, 0x6D, 0x70, 0x71, 0x72, 0x73, 0x74].contains o.toNat

/-- Commands that change a tensor's contents or its place in the table (R128, R148). -/
def changesTensor (o : Byte) : Bool := o == 0x02 || o == 0x31 || o == 0x36 || o == 0x37 || o == 0x38

/-- Two ranges of a tensor touch one unit (R128); an empty range touches none. -/
def unitsMeet (a la b lb : Nat) : Bool :=
  decide (0 < la) && decide (0 < lb) && decide (a / unitSize ≤ (b + lb - 1) / unitSize) && decide (b / unitSize ≤ (a + la - 1) / unitSize)

/-- The commands that this module took before a command and that it has not ended, in submission order (R101, R128). -/
def earlierCmds (c : Cmd) (m : Sys) : List Cmd :=
  (if c.rook = ownAddr m then m.task.running.filter fun d => d.rook == c.rook else m.task.relayed).takeWhile fun d => !sameCmd d c

/-- The command has read its operand already, or its work is done: it waits for something else. -/
def pastRange (m : Sys) (d : Cmd) : Bool :=
  m.flash.bound.any (fun e => e.2.1 == .cmd d) || m.flash.seals.any (fun s => s.asker == .cmd d) ||
    m.search.snaps.any (fun e => sameCmd e.1 d) || m.search.shards.any (fun s => sameCmd s.cmd d) ||
    (m.jobs.job.map fun j => j.waiting.any (fun x => sameCmd x.cmd d) || j.ctxs.any fun e => sameCmd e.2.cmd d).getD false

/-- A command that has still to take effect touches units [off, off + len) of a tensor. -/
def willTouch (m : Sys) (d : Cmd) (n off len : Nat) : Bool :=
  if pastRange m d then false
  else if d.opcode = 0x01 ∨ d.opcode = 0x02 then
    tnumOf d.tensor == n && unitsMeet (offsetOf d.tensor) d.length.toNat off len
  else if d.opcode = 0x37 then tnumOf d.tensor == n || tnumOf (BitVec.ofNat 64 (par d 32 8)) == n
  else if changesTensor d.opcode ∨ d.opcode = 0x18 ∨ (0x24 ≤ d.opcode ∧ d.opcode ≤ 0x26) then tnumOf d.tensor == n
  else false

/-- Some earlier command touches a unit of the range and has not yet taken effect, where one of the two changes it; or a fetch writes it, or
a seal or append of the tensor is in progress (R128, R148). Then the command waits. -/
def unitsBusy (c : Cmd) (n off len : Nat) (m : Sys) : Bool :=
  (earlierCmds c m).any (fun d => (changesTensor d.opcode || changesTensor c.opcode) && willTouch m d n off len) ||
  m.task.fetches.any (fun f => !sameCmd f.cmd c && f.cmd.opcode == 0x02 && tnumOf f.cmd.tensor == n &&
    (decide (len = 0) ||
      (decide (offsetOf f.cmd.tensor / unitSize ≤ (off + len - 1) / unitSize) &&
       decide (off / unitSize ≤ (offsetOf f.cmd.tensor + f.cmd.length.toNat - 1) / unitSize)))) ||
  m.flash.seals.any (fun s => s.asker != .cmd c && (s.target.toNat == n || s.source.toNat == n))

/-- Some earlier command in progress touches a unit of the tensor (R148). -/
def tensorBusy (c : Cmd) (n : Nat) (m : Sys) : Bool :=
  let size := ((tensorOf m n).map (·.size)).getD 0
  unitsBusy c n 0 size m

/-- Run a command at this module: `f` is its own effect. Nothing runs once the power-fail event is taken (R125) or before SERVING
(R409); the recovery loader executes its own list and ends every other command BAD_COMMAND (R427); in P2 a command other than
POWER_STATE causes the exit to P1 and waits for it (R32, R121). -/
def asCommand (c : Cmd) (f : Sys → Sys) (m : Sys) : Sys :=
  if !live m then m
  else if m.boot.stage = stageLoader then
    if loaderOpcodes.contains c.opcode then f (startCmd c m) else endWith c stBadCommand m
  else if m.boot.stage ≠ stageServing then m
  else if m.power.current = 2 ∧ m.power.entry.isNone = true ∧ c.opcode ≠ 0x08 then
    onPower (fun p => { p with waitExit := p.waitExit ++ [c], exiting := true, inTransition := true, target := 1 }) (startCmd c m)
  else f (startCmd c m)

/-! ### NOP, READ, WRITE (R100) -/

/-- NOP completes DONE (R100). -/
def nopCmd (c : Cmd) (m : Sys) : Sys := complete c (ending stDone) m

/-- NOP (R100). -/
def execNop (c : Cmd) (s : State) : Host.Outcome State Fault Refusal := done s (asCommand c (nopCmd c))

/-- The tensor of a command that reaches bytes [off, off + len), or BAD_COMMAND (R99, R130, R131). -/
def reached (m : Sys) (c : Cmd) : Option Tensor :=
  let n := tnumOf c.tensor
  if !userNumber n then none
  else match tensorOf m n with
    | some t => if offsetOf c.tensor + c.length.toNat ≤ t.size then some t else none
    | none => none

/-- READ: LENGTH bytes of the tensor to the host buffer, then the record (R100, R105, R106). What a read that races with a running
job gives is free (R297; log entry 2). -/
def readCmd (c : Cmd) (m : Sys) : Sys :=
  let n := tnumOf c.tensor
  let off := offsetOf c.tensor
  let len := c.length.toNat
  if !userNumber n then endWith c stBadCommand m
  else match tensorOf m n with
    | none => endWith c stBadCommand m
    | some t =>
      if t.size < off + len then endWith c stBadCommand m
      else if t.state = .building then endWith c stBusy m
      else if len = 0 then endWith c stDone (touch n m)
      else if unitsBusy c n off len m || stackWaits m t off len then m
      else
        let r := readTensor n off len m
        let e := readEnding n r.1
        let b := if readRaces m n then openBytes len r.2 else (r.1.bytes, r.2)
        if e.status = stDone then deliver c b.1 [] b.2 else complete c e b.2

/-- READ (R100). -/
def execRead (c : Cmd) (s : State) : Host.Outcome State Fault Refusal := done s (asCommand c (readCmd c))

/-- WRITE: the bytes are fetched from the host buffer and written as they arrive (R100, R105); a sealed target changes nothing
and gives READ_ONLY. -/
def writeCmd (c : Cmd) (m : Sys) : Sys :=
  let n := tnumOf c.tensor
  let off := offsetOf c.tensor
  let len := c.length.toNat
  if !userNumber n then endWith c stBadCommand m
  else match tensorOf m n with
    | none => endWith c stBadCommand m
    | some t =>
      if t.size < off + len then endWith c stBadCommand m
      else if m.task.fetches.any (fun f => sameCmd f.cmd c) then m
      else if t.state = .lost then complete c (failedAt stUncorrectable c.tensor) m
      else if t.isSealed then endWith c stReadOnly m
      else if len = 0 then endWith c stDone (touch n m)
      else if unitsBusy c n off len m then m
      else beginFetch c m

/-- WRITE (R100). -/
def execWrite (c : Cmd) (s : State) : Host.Outcome State Fault Refusal := done s (asCommand c (writeCmd c))

/-! ### POWER_STATE (R119, R120, R163) -/

/-- The module is the rook of its group or lends T1, so P2 and P3 are refused (R33, R87). -/
def lowBlocked (m : Sys) : Bool := m.fabric.rook || !m.fabric.lent.isEmpty

/-- The tensor is on its way out of T0. -/
def leavesT0 (t : Tensor) : Bool := match t.motion with
  | some mo => !mo.copying && (match mo.dest with
    | .t0 _ => false
    | _ => true)
  | none => false

/-- The check of R163: every movable tensor with its home in T0 can be placed at once, in T1 after the selection of R159, or in TN, each
beside the space that those before it take. The module that the selections would leave is not kept, and no lease is asked for. -/
def t0Leaves (m : Sys) : Bool :=
  (m.range.tensors.foldl (fun (acc : Bool × Sys) e =>
    match e.2.place with
    | .t0 _ =>
      if e.2.isSealed || leavesT0 e.2 then acc
      else
        let size := granuleBytes e.2.size
        let (o, m) := takeOrder acc.2
        let r : Need := { req := o, tensor := e.1, asks := false, skipped := [] }
        let m' := (selectT1 r size (t1Candidates r m) m).2
        if size ≤ t1Spare m' + t1FreeingFor r.cause m' then
          (acc.1, requestMotion e.1 { newMotion (.t1 0) 1 o with holds := size ≤ t1Spare m' } m')
        else match leaseRoom m e.2.size with
          | some p => (acc.1, requestMotion e.1 (newMotion p 1 o) m)
          | none => (false, m)
    | _ => acc) (true, m)).1

/-- POWER_STATE (R119): the table of R119, the refusals of R33 and R163; an accepted entry begins with its first step (R469). -/
def powerStateCmd (c : Cmd) (m : Sys) : Sys :=
  let want : BitVec 2 := BitVec.ofNat 2 (par c 32 1)
  let p := m.power
  if want = 0 then endWith c stBadCommand m
  else if p.inTransition then endWith c stBusy m
  else if want = 1 then
    if p.current = 2 then
      onPower (fun p => { p with exiting := true, inTransition := true, target := 1, waitExit := p.waitExit ++ [c] }) m
    else endWith c stDone m
  else if p.current = 2 ∧ want = 2 then endWith c stDone m
  else if lowBlocked m then endWith c stBusy m
  else if want = 2 ∧ t0Leaves m = false then endWith c stBusy m
  else onPower (fun p => { p with
    inTransition := true, target := want, entry := some { target := want, cmd := c, step := .waitJobs, waitSeq := 0 } }) m

/-- POWER_STATE (R119). -/
def execPowerState (c : Cmd) (s : State) : Host.Outcome State Fault Refusal := done s (asCommand c (powerStateCmd c))

/-! ### ABORT_TAG (R117, R118) -/

/-- The oldest HELD command of an endpoint with a tag, accepted before place `before` (R117). -/
def abortTarget (e : Endpoint) (tag : BitVec 16) (before : Nat) : Option Held :=
  minBy (fun a b => decide (a.order < b.order))
    ((e.held.map (·.2)).filter fun h => h.cmd.tag == tag && decide (h.order < before))

/-- ABORT_TAG at the rook catches an undispatched command; at an executing module it catches a relayed command that has not
started, the oldest that was taken before it. A caught target ends ABORTED first (R117). -/
def abortTagCmd (c : Cmd) (m : Sys) : Sys :=
  let tag : BitVec 16 := BitVec.ofNat 16 (par c 32 2)
  if c.rook = ownAddr m then
    let e := epOf m c.ep.toNat
    let before := ((tfind c.reg.toNat e.held).map (·.order)).getD m.task.order
    match abortTarget e tag before with
    | some h =>
      if h.phase = .waiting ∧ h.cmd.opcode ≠ 0x0A then endWith c stAborted (endWith h.cmd stAborted m)
      else endWith c stAbortMissed m
    | none => endWith c stAbortMissed m
  else
    match (m.task.relayed.takeWhile fun d => !sameCmd d c).find? fun d => d.rook == c.rook && d.ep == c.ep && d.tag == tag with
    | some d =>
      if d.opcode ≠ 0x0A ∧ m.task.running.any (sameCmd d) = false then endWith c stAborted (endWith d stAborted m)
      else endWith c stAbortMissed m
    | none => endWith c stAbortMissed m

/-- ABORT_TAG (R117). -/
def execAbortTag (c : Cmd) (s : State) : Host.Outcome State Fault Refusal := done s (asCommand c (abortTagCmd c))

end Sys2Proof.Machine
end

