-- ==== Sys2Proof/Machine/FlashMedia.lean ====
section
/-!
DEFINITION. Flash state operations: chunks, blocks, page programs, journal and flush, the map image, read-only causes and the
derived figures of the MAP registers (R344 to R379).
-/
namespace Sys2Proof.Machine

/-! ### Figures (R344, R348, R353, R373) -/

/-- All chunks (R348). -/
def totalChunks : Nat := 292968750
/-- Dies of the array (R344). -/
def dieCount : Nat := 1536
/-- Blocks per die (R344). -/
def blockCount : Nat := 10176
/-- Blocks per die in the reserved map area (R356; log entry 15). -/
def reservedBlocks : Nat := 16
/-- Good blocks a die needs (R373). -/
def neededBlocks : Nat := 8012

/-- The die of a logical unit (R348). -/
def dieOf (u : Nat) : Nat := u % dieCount

/-- Key of a block in the block table. -/
def blockKey (die block : Nat) : Nat := die * 16384 + block

/-- A block; a listed block of the map area is in state RESERVED. -/
def blockOf (m : Sys) (die block : Nat) : FBlock :=
  tget (if block < reservedBlocks then { blockReset with state := .reserved, slc := true } else blockReset) (blockKey die block) m.flash.blocks

/-- Change a block. -/
def onBlock (die block : Nat) (f : FBlock → FBlock) (m : Sys) : Sys :=
  onFlash (fun x => { x with blocks := tset (blockKey die block) (f (blockOf m die block)) x.blocks }) m

/-- Die `d`. -/
def dieAt (m : Sys) (d : Nat) : Die := tget dieReset d m.flash.dies

/-- Change a die. -/
def onDie (d : Nat) (f : Die → Die) : Sys → Sys := onFlash fun x => { x with dies := tupd dieReset d f x.dies }

/-- Channel `c`. -/
def chanOf (m : Sys) (c : Nat) : Chan := tget chanReset c m.flash.chans

/-- Change a channel. -/
def onChan (c : Nat) (f : Chan → Chan) : Sys → Sys := onFlash fun x => { x with chans := tupd chanReset c f x.chans }

/-- Chunks held by sealed tensors and by seals in progress. -/
def heldChunks (m : Sys) : List Nat :=
  m.range.tensors.flatMap (fun e => e.2.chunks) ++ m.flash.seals.flatMap (·.chunks)

/-- Free chunks (R349): a freed chunk is free only once its record is flushed. -/
def freeChunks (m : Sys) : Nat := totalChunks - (heldChunks m).length - m.flash.freeing.length

/-- The SLC target in bytes (R353). -/
def slcTarget (m : Sys) : Nat := max 384000000000 (freeChunks m * 1048576 / 4)

/-- Bytes of data in SLC-mode blocks. -/
def slcFilled (m : Sys) : Nat := (m.flash.map.filter fun e => e.2.slc).length * unitSize

/-- Good blocks of a die (R373, R400). -/
def goodBlocks (m : Sys) (d : Nat) : Nat := leNat (calBytes (0x1000 + 2 * d) 2) - (dieAt m d).retired

/-- Spare of a die as a percentage of its spare at shipment (R373). -/
def sparePercent (m : Sys) (d : Nat) : Nat :=
  (goodBlocks m d - neededBlocks) * 100 / (leNat (calBytes (0x1000 + 2 * d) 2) - neededBlocks)

/-- The die with the lowest spare (R379 WORST_DIE). -/
def worstDie (m : Sys) : Nat :=
  (minBy (fun a b => decide (a.2 < b.2)) ((List.range dieCount).map fun d => (d, sparePercent m d))).elim 0 (·.1)

/-- MAP.WEAR.SPARE_LEFT (R373). -/
def spareLeft (m : Sys) : Nat := min 100 (sparePercent m (worstDie m))

/-- MAP.WEAR.WEAR_USED: mean wear units over all blocks, in % of 30,000 (R379). -/
def wearUsed (m : Sys) : Nat :=
  (m.flash.blocks.foldl (fun a e => a + e.2.wear) 0) * 100 / (30000 * dieCount * blockCount)

/-- MAP.WEAR.WEAR_MAX (R379). -/
def wearMax (m : Sys) : Nat := (m.flash.blocks.foldl (fun a e => max a e.2.wear) 0) * 100 / 30000

/-- MAP.STATUS.STATE: read-only while normal and a cause is set (R375, R379). -/
def mapStateCode (m : Sys) : Nat := if m.flash.mapState = 2 ∧ m.flash.roCause ≠ 0 then 3 else m.flash.mapState.toNat

/-! ### Read-only causes (R375) -/

/-- Any read-only cause is set (R375). -/
def readOnly (m : Sys) : Bool := m.flash.roCause != 0

/-- Cause STARTUP or HOLDUP is set (R376, R460). -/
def startupOrHoldup (m : Sys) : Bool := m.flash.roCause &&& 0x03 != 0

/-- Set or clear a cause; a change raises READ_ONLY (R375, R443). -/
def setCause (bit : Nat) (v : Bool) (m : Sys) : Sys :=
  let c := setBit m.flash.roCause bit v
  if c = m.flash.roCause then m
  else notice 0x0A 2 [c] (onFlash (fun x => { x with roCause := c }) m)

/-- Raise a sign of wear once (R374, R443). -/
def wearSign (sign : Nat) (m : Sys) : Sys :=
  if m.health.signs.getLsbD (sign - 1) then m
  else
    notice 0x0B 1 (leBytes 1 sign ++ leBytes 1 (spareLeft m) ++ leBytes 1 (wearUsed m) ++ leBytes 2 (worstDie m))
      (onHealth (fun h => { h with signs := setBit h.signs (sign - 1) true }) m)

/-! ### Journal (R357, R362) -/

/-- Take the next SEQ (R357). -/
def nextSeq (m : Sys) : Nat × Sys := (m.flash.seq + 1, onFlash (fun x => { x with seq := x.seq + 1 }) m)

/-- Make a journal record (R362). -/
def journal (r : JRec) (m : Sys) : Sys :=
  let (q, m) := nextSeq m
  onFlash (fun x => { x with journal := x.journal ++ [(q, r)] }) m

/-- Make a record of a change to a unit's map entry; its map page becomes dirty (R361, R362). -/
def journalMap (u : Nat) (e : Option MapEntry) (m : Sys) : Sys :=
  let m := journal (.map u e 0) (onFlash (fun x => { x with
    map := match e with
      | some v => tset u v x.map
      | none => tdel u x.map }) m)
  onFlash (fun x => { x with dirty := tset (u / 4096) x.seq x.dirty }) m

/-- A flush-bound command: it completes after a flush that carries its records (R359). -/
def bindFlush (a : Asker) (status : Byte) (result : List Byte) (m : Sys) : Sys :=
  onFlash (fun x => { x with bound := x.bound ++ [(x.seq, a, status, result)] }) m

/-- Outputs of index writes and merges that have not completed (R336, R341). -/
def partialOutputs (m : Sys) : List TNum :=
  m.search.writing.map (·.segment) ++ m.search.registry.flatMap fun e => match e.2.merge with
    | some g => g.newRoot :: (span g.newFirst.toNat g.pieces).map (BitVec.ofNat 24)
    | none => []

/-! ### Page tags (R357) -/

/-- Bytes 0 to 59 of a tag. -/
def tagBody (t : PageTag) : List Byte :=
  leBytes 8 t.seq ++ leBytes 5 t.unit ++ [t.kind, if t.commit then 1 else 0, 0] ++ leBytes 3 t.tensor.toNat ++ [0] ++
    leBytes 4 t.offset ++ leBytes 8 t.cmd ++ leBytes 8 (if t.commit then t.length else 0) ++ leBytes 2 t.ns.toNat ++
    [if t.commit && t.live then 1 else 0] ++ zeros 5 ++ leBytes 8 t.created.toNat ++ zeros 4

/-- The 64 bytes of a tag: the body and its TCRC. -/
def tagBytes (t : PageTag) : List Byte := tagBody t ++ crcBytes (tagBody t)

/-- The tag that bytes hold; none where they fail the check. -/
def readTag (l : List Byte) : Option PageTag :=
  let f (o n : Nat) : Nat := leNat (bytesAt l o n)
  if l.length ≠ 64 ∨ bytesAt l 60 4 ≠ crcBytes (l.take 60) then none
  else some { seq := f 0 8, unit := f 8 5, kind := BitVec.ofNat 8 (f 13 1), commit := (f 14 1).testBit 0, tensor := BitVec.ofNat 24 (f 16 3),
              offset := f 20 4, cmd := f 24 8, length := f 32 8, ns := BitVec.ofNat 16 (f 40 2), live := f 42 1 == 1,
              created := BitVec.ofNat 64 (f 48 8) }

/-- Key of a page in the table of tags. -/
def pageKey (die block page : Nat) : Nat := blockKey die block * 2048 + page

/-- The page of a program holds its tag, or fails its check (R357, R365). -/
def markPage (p : Program) (good : Bool) : Sys → Sys := onFlash fun x => { x with
  tags := tset (pageKey p.die p.block p.page) (if good then tagBytes p.tag else []) x.tags }

/-- The tags of a block go with its erase. -/
def eraseTags (d b : Nat) : Sys → Sys := onFlash fun x => { x with tags := x.tags.filter fun e => e.1 / 2048 != blockKey d b }

/-! ### Blocks (R353, R355, R356) -/

/-- Free blocks of a die: its good blocks less the map area's and those that are in use. -/
def freeBlocks (m : Sys) (d : Nat) : Nat :=
  goodBlocks m d - reservedBlocks - (m.flash.blocks.filter fun e => e.1 / 16384 == d && decide (reservedBlocks ≤ e.1 % 16384) &&
    e.2.state != .free && e.2.state != .retired).length

/-- Free blocks of a die among those it has listed: wear and number. -/
def listedFree (m : Sys) (d : Nat) : List (Nat × Nat) :=
  (m.flash.blocks.filter fun e => e.1 / 16384 == d && e.2.state == .free && decide (reservedBlocks ≤ e.1 % 16384)).map fun e =>
    (e.2.wear, e.1 % 16384)

/-- The first `n` free blocks that a die would open, in order: the fewest wear units first, and the lowest number among equals. Blocks that
the table does not list are erased, without wear (R355, R362). -/
def openOrder (m : Sys) (d n : Nat) : List Nat :=
  let fresh := ((span reservedBlocks (m.flash.blocks.length + n)).filter fun b =>
    decide (b < blockCount) && (tfind (blockKey d b) m.flash.blocks).isNone).map fun b => (0, b)
  ((sortBy (fun (a b : Nat × Nat) => decide (a.1 < b.1 ∨ (a.1 = b.1 ∧ a.2 < b.2))) (listedFree m d ++ fresh)).take n).map (·.2)

/-- The free block that a die opens next (R355). -/
def nextBlock (m : Sys) (d : Nat) : Option Nat := (openOrder m d 1).head?

/-- Pages of a block in its mode (R344). -/
def blockPages (slc : Bool) : Nat := if slc then 384 else 1536

/-- The open block of a mode on a die that has pages left. -/
def openBlock (m : Sys) (d : Nat) (slc : Bool) : Option Nat :=
  (m.flash.blocks.find? fun e => e.1 / 16384 == d && e.2.state == .opened && e.2.slc == slc && decide (e.2.wptr < blockPages slc)).map
    fun e => e.1 % 16384

/-- Blocks of a die in SLC mode, outside the map area: a block keeps its mode from one erase to the next (R344). -/
def slcBlocks (m : Sys) (d : Nat) : Nat :=
  (m.flash.blocks.filter fun e => e.1 / 16384 == d && e.2.slc && decide (reservedBlocks ≤ e.1 % 16384) &&
    e.2.state != .free && e.2.state != .retired).length

/-- Open a block of a mode on a die, if it may (R353, R355). -/
def openNew (d : Nat) (slc : Bool) (m : Sys) : Option (Nat × Sys) :=
  if slc && decide (40 ≤ slcBlocks m d) && decide (slcTarget m ≤ slcFilled m) then none
  else match nextBlock m d with
    | none => none
    | some b =>
      some (b, journal (.block d b .opened (blockOf m d b).wear)
        (onBlock d b (fun x => { x with state := .opened, slc, wptr := 0 }) m))

/-- Take the next page of a mode on a die: the block and page (R356). -/
def takePage (d : Nat) (slc : Bool) (m : Sys) : Option (Nat × Nat × Sys) :=
  let r := match openBlock m d slc with
    | some b => some (b, m)
    | none => openNew d slc m
  match r with
  | none => none
  | some (b, m) => some (b, (blockOf m d b).wptr, onBlock d b (fun x => { x with wptr := x.wptr + 1 }) m)

/-- An open block is FULL once every page is programmed (R356). -/
def fillBlock (d b : Nat) (m : Sys) : Sys :=
  let x := blockOf m d b
  if x.state = .opened ∧ blockPages x.slc ≤ x.wptr ∧ (m.flash.programs.any fun p => p.die == d && p.block == b) = false then
    journal (.block d b .full x.wear) (onBlock d b (fun x => { x with state := .full }) m)
  else m

/-- The first page of a block that is not programmed: its POINTER record (R362). -/
def pointerOf (m : Sys) (d b : Nat) : Nat :=
  (m.flash.programs.filter fun p => p.die == d && p.block == b).foldl (fun n p => min n p.page) (blockOf m d b).wptr

/-- A die has room in SLC-mode blocks for a page (R352). -/
def slcRoom (m : Sys) (d : Nat) : Bool := !(dieAt m d).out && (takePage d true m).isSome

/-- The class-3 critical action holds every program and erase (R38, R379). -/
def flashHold (m : Sys) : Bool := m.power.critActs.getLsbD 3

/-- A program waits to start (R373, R379). -/
def laterProgram (d : Nat) (slc : Bool) (tag : PageTag) : Sys → Sys :=
  onFlash fun x => { x with retries := x.retries ++ [{ die := d, block := 0, page := 0, slc, tag }] }

/-- Start the program of a page (R352, R357), which takes its SEQ; without a page, or under class 3's critical action, it waits. The first
page of seal data names itself as its command's first. -/
def startProgram (d : Nat) (slc : Bool) (tag : PageTag) (m : Sys) : Sys :=
  if flashHold m then laterProgram d slc tag m
  else match takePage d slc m with
    | none => laterProgram d slc tag m
    | some (b, p, m) =>
      let q := nextSeq m
      let tag := { tag with seq := q.1, cmd := if tag.kind = 0 ∧ tag.cmd = 0 then q.1 else tag.cmd }
      onDie d (fun x => { x with busy := true }) (onFlash (fun x => { x with
        programs := x.programs ++ [{ die := d, block := b, page := p, slc, tag }] }) q.2)

/-- Programs that waited start, where they now may (R373, R379). -/
def startRetries (m : Sys) : Sys :=
  forEach m.flash.retries (fun p => startProgram p.die p.slc p.tag) (onFlash (fun x => { x with retries := [] }) m)

/-- Map state as a complete flush makes it durable (R361, R362). Copies, motions, pins and touches are not part of it (R139). -/
def imageOf (m : Sys) : FlashImage :=
  { writing := partialOutputs m, seals := m.flash.seals, map := m.flash.map, blocks := m.flash.blocks,
    tensors := (m.range.tensors.filter fun e => e.2.isSealed).map fun e =>
      (e.1, { e.2 with copy1 := none, copy0 := none, pins := 0, motion := none, touched := 0, store := freshStore true })
    registry := m.search.registry,
    spaces := (m.flash.spaces.map (·.1)).filter fun n => !m.flash.keyDrops.any fun e => e.2.1 == n
    freeSeq := m.flash.freeSeq
    pointers := (m.flash.blocks.filter fun e => e.2.state == .opened).map fun e =>
      (e.1 / 16384, e.1 % 16384, pointerOf m (e.1 / 16384) (e.1 % 16384))
    reserves := (List.range dieCount).map fun d => (d, openOrder m d 8) }

/-- Retire a block (R373): it is never programmed again, and its valid pages are refreshed. -/
def retireBlock (d b : Nat) (m : Sys) : Sys :=
  if (blockOf m d b).state = .retired then m
  else
    let m := journal (.block d b .retired (blockOf m d b).wear) (onBlock d b (fun x => { x with state := .retired, refresh := true }) m)
    let m := onDie d (fun x => { x with retired := x.retired + 1 }) (addTotal 52 1 m)
    let m := wearSign 3 m
    let m := onlyIf (decide (spareLeft m < 10)) (wearSign 4) m
    if goodBlocks m d < neededBlocks then setCause 2 true (wearSign 5 m) else m

/-- A mapped unit's page is in a block. -/
def unitIn (e : Nat × MapEntry) (d b : Nat) : Bool := dieOf e.1 == d && e.2.block == b

/-- Valid units of a block. -/
def validUnits (m : Sys) (d b : Nat) : List Nat := (m.flash.map.filter fun e => unitIn e d b).map (·.1)

/-- A block holds a unit of the map, of the durable map, or of a command not yet committed. -/
def blockInUse (m : Sys) (d b : Nat) : Bool :=
  m.flash.map.any (fun e => unitIn e d b) || m.flash.image.map.any (fun e => unitIn e d b) ||
    m.flash.seals.any (fun s => s.placed.any fun e => unitIn e d b) || m.flash.programs.any fun p => p.die == d && p.block == b

/-- Blocks without a valid unit go to ERASE_PENDING once the records that emptied them are flushed (R356). -/
def emptyBlocks (m : Sys) : Sys :=
  forEach (m.flash.blocks.filter fun e => e.2.state == .source || e.2.state == .full) (fun e m =>
    let d := e.1 / 16384
    let b := e.1 % 16384
    if !blockInUse m d b then
      journal (.block d b .erasePending e.2.wear) (onBlock d b (fun x => { x with state := .erasePending }) m)
    else m) m

/-! ### Chunks (R349) -/

/-- The lowest free chunk at or above the pointer, wrapping; `fuel` exceeds the number of used chunks. -/
def freeFrom (used : List Nat) : Nat → Nat → Option Nat
  | 0, _ => none
  | n + 1, p => if used.contains (p % totalChunks) then freeFrom used n (p + 1) else some (p % totalChunks)

/-- Take `n` chunks from the rotating pointer (R349). -/
def takeChunks : Nat → List Nat → Nat → List Nat → List Nat × Nat
  | 0, _, ptr, acc => (acc, ptr)
  | n + 1, used, ptr, acc =>
    match freeFrom used (used.length + 1) ptr with
    | none => (acc, ptr)
    | some c => takeChunks n (c :: used) ((c + 1) % totalChunks) (acc ++ [c])

/-- Chunks that cover a length (R349). -/
def chunksFor (len : Nat) : Nat := (len + 1048575) / 1048576

/-- Release the flash of a sealed tensor: its units are unmapped and its chunks become free with the flush of their record
(R144, R349, R362). -/
def releaseChunks (chunks : List Nat) (m : Sys) : Sys :=
  if chunks.isEmpty then m
  else
    let m := journal (.free chunks) m
    onFlash (fun x => { x with
      freeing := x.freeing ++ chunks,
      freeSeq := chunks.foldl (fun t c => (List.range 64).foldl (fun t i => tset (64 * c + i) x.seq t) t) x.freeSeq,
      dirty := (x.map.filter fun e => chunks.contains (e.1 / 64)).foldl (fun t e => tset (e.1 / 4096) x.seq t) x.dirty,
      map := x.map.filter fun e => !chunks.contains (e.1 / 64),
      owner := x.owner.filter fun e => !chunks.contains (e.1 / 64) }) m

/-- The home tier of a sealed tensor: T2 while a unit lies in an SLC-mode block, T3 when none does, none without units (R354). -/
def sealedTier (m : Sys) (t : Tensor) : Nat :=
  let mine := m.flash.map.filter fun e => t.chunks.contains (e.1 / 64)
  if mine.isEmpty then 0xF else if mine.any fun e => e.2.slc then 2 else 3

/-- Tier code of a place (R132). -/
def tierCode (m : Sys) (t : Tensor) (p : Place) : Nat :=
  match p with
  | .none => 0xF
  | .t0 _ => 0
  | .t1 _ => 1
  | .tn _ _ => 4
  | .flash => sealedTier m t

end Sys2Proof.Machine
end

