-- ==== Sys2Proof/Machine/JobState.lean ====
section
/-!
DEFINITION. The running job's record: conditions, tasks and descriptors in progress, and the end of an operation that a command or
a tensor descriptor asked for (R281, R291, R294).
-/
namespace Sys2Proof.Machine

/-- Change the job that holds the complex. -/
def onJob (f : Job → Job) : Sys → Sys := onJobs fun j => { j with job := j.job.map f }

/-- A task of the present step that has not begun. -/
def taskFresh : TaskRun :=
  { phase := .waiting, queued := 0, issued := [], ran := [], waits := [], done := [], charged := [], scratch := freshStore false, replaced := 0,
    failed := false, stopped := none }

/-- A task of the running job. -/
def taskAt (j : Job) (t : Nat) : TaskRun := tget taskFresh t j.tasks

/-- Change a task of the running job. -/
def onTaskRun (t : Nat) (f : TaskRun → TaskRun) : Sys → Sys := onJob fun j => { j with tasks := tupd taskFresh t f j.tasks }

/-! ### Engines and the sequencer's queue (R179, R182, R189) -/

/-- Engine `e` of a core. -/
def engineOf (c : Core) (e : Nat) : Engine := tget engineReset e c.engines

/-- Half `h` of a core, 0 to 15: 2e is the left half of engine e, 2e + 1 the right (R200). -/
def halfOf (c : Core) (h : Nat) : Half := if h % 2 = 0 then (engineOf c (h / 2)).left else (engineOf c (h / 2)).right

/-- Change a half of a core. -/
def onHalf (h : Nat) (f : Half → Half) (c : Core) : Core :=
  { c with engines := tupd engineReset (h / 2) (fun e => if h % 2 = 0 then { e with left := f e.left } else { e with right := f e.right }) c.engines }

/-- Halves of a core that a task holds. -/
def halvesOf (c : Core) (t : Nat) : List Nat := (List.range 16).filter fun h => ((halfOf c h).holder.map (·.1)) == some t

/-- A half gives up what it holds: partial accumulators are discarded, and the next tile begins at zero (R172, R179). -/
def freeHalf (x : Half) : Half := { x with holder := none, active := halfReset.active, shadow := halfReset.shadow, idle := 0 }

/-- The lanes of a drain register that a half fills become busy or free (R179, R182). -/
def setLanes (h : Nat) (busy : Bool) (c : Core) : Core :=
  { c with drains := tupd drainReset (h / 2) (fun d => if h % 2 = 0 then { d with leftBusy := busy } else { d with rightBusy := busy }) c.drains }

/-- The core on which a task is placed. -/
def coreOfTask (x : TaskRun) : Nat := match x.phase with
  | .placed c => c.toNat
  | _ => 0

/-- A task no longer holds engines, drain registers or places in its sequencer's queue. -/
def releaseTask (t : Nat) (m : Sys) : Sys :=
  match m.jobs.job with
  | none => m
  | some j => match (taskAt j t).phase with
    | .placed n => onCore n.toNat (fun c =>
        (halvesOf c t).foldl (fun c h => setLanes h false (onHalf h freeHalf c)) { c with queue := c.queue.filter fun e => e.1 != t }) m
    | _ => m

/-- The job begins to stop (R294). A cause that is already there stands, but a budget expiry gives way to any (R308), and a queue reset or
fabric reset that finds the job still stopping is what ends it (R113, R123). -/
def stopJob (cause : StopCause) : Sys → Sys := onJob fun j =>
  { j with stopping := match j.stopping, cause with
      | none, c => some c
      | some .budget, c => some c
      | some .condition, .flushed => some .flushed
      | some .fabricReset, _ => some .fabricReset
      | some _, .fabricReset => some .fabricReset
      | some c, _ => some c }

/-- Halves that a placed task holds. -/
def heldHalves (t : Nat) (m : Sys) : List Nat := match m.jobs.job.map fun j => (taskAt j t).phase with
  | some (.placed n) => halvesOf (coreOf m n.toNat) t
  | _ => []

/-- A task ends before its last descriptor. -/
def endTask (t : Nat) (m : Sys) : Sys :=
  releaseTask t (onTaskRun t (fun x => { x with failed := true, stopped := some (now m, heldHalves t m) }) m)

/-- A condition of a task stops the job (R291): the task ends, the condition and the failing address are recorded. The first task whose
condition stops the job is its FAULT_TASK (R285). -/
def failTask (t : Nat) (conds : BitVec 16) (err : Word) (m : Sys) : Sys :=
  stopJob .condition (endTask t (onJob (fun j =>
    { j with
      conds := j.conds ||| conds,
      errAddr := mergeErr j.conds conds j.errAddr err,
      faultTask := if j.stopping.isNone || j.stopping == some .budget then BitVec.ofNat 32 t else j.faultTask }) m))

/-- A condition that lets the task continue (R291). -/
def markJob (conds : BitVec 16) : Sys → Sys := onJob fun j => { j with conds := j.conds ||| conds }

/-- The conditions that the end of a tensor descriptor with this status sets for the job (R281). -/
def descCondition (status : Byte) : BitVec 16 :=
  if status = stBadCommand ∨ status = stBusy then condDescRefused else condition status

/-- The operation of a descriptor ends: DONE lets the task continue, any other status stops the job (R281); FLUSHED, which has no
condition bit, ends it FLUSHED, unless it is the job's own stop that ended the operation (R147, R294). -/
def descEnds (t d : Nat) (e : Ending) (m : Sys) : Sys :=
  let m := onTaskRun t (fun x => { x with waits := x.waits.filter (· != d) }) m
  if e.status = stDone then onTaskRun t (fun x => { x with ran := x.ran ++ [d] }) m
  else if e.status = stFlushed then
    endTask t (onlyIf (((m.jobs.job.map (·.stopping.isNone)).getD false)) (stopJob .flushed) m)
  else failTask t (descCondition e.status) e.err m

/-- The operation of whoever asked ends with an outcome. -/
def endAsk (a : Asker) (e : Ending) (m : Sys) : Sys :=
  match a with
  | .cmd c => complete c e m
  | .desc t d => descEnds t.toNat d e m
  | .prefetch _ _ => if e.status = stFull then onRange (fun r => { r with prefetchLost := satInc r.prefetchLost }) (addTotal 29 1 m) else m
  | .engine => m

/-- The number is held for a CREATE slot of the running job (R288). -/
def slotNumber (j : Job) (i : Nat) : Nat := tnumOf (j.binds.getD i 0)

/-- CREATE slots of a plan. -/
def createSlots (p : Plan) : List Nat :=
  (List.range p.slots.length).filter fun i => ((p.slots.getD i ⟨0, 0, 0, 0, 0, 0⟩).flags).getLsbD 0

/-- A tensor number that the running job holds for a CREATE slot (R288). -/
def heldForJob (m : Sys) (n : Nat) : Bool :=
  match m.jobs.job with
  | some j => (createSlots j.plan).any fun i => slotNumber j i == n
  | none => false

/-- A tensor that the plan of the admitted job names: the plan itself, the binding table, or a bound tensor (R144). -/
def namedByJob (m : Sys) (n : Nat) : Bool :=
  match m.jobs.job with
  | some j => j.binds.any (fun a => tnumOf a == n) || leAt j.cmd.param 0 8 / 2 ^ 40 == n || leAt j.cmd.param 8 8 / 2 ^ 40 == n
  | none => false

/-- Count a stall turn for the module and the running job (R165). -/
def stallTurn (m : Sys) : Sys :=
  onJob (fun j => { j with stall := j.stall + 1 }) (onRange (fun r => { r with stallTurns := satInc r.stallTurns }) (addTotal 28 1 m))

end Sys2Proof.Machine
end

