-- ==== Sys2Proof/Machine/TensorCmd.lean ====
section
/-!
DEFINITION. Tensor commands and the operations that tensor descriptors share with them: create, delete, move, drop, pin, unpin,
seal, append, close and query (R142 to R149, R153 to R155, R160, R162).
-/
namespace Sys2Proof.Machine

/-! ### Parameters (R142) -/

/-- Field of `n` bytes at command-block offset `o` of a parameter block. -/
def prm (p : List Byte) (o n : Nat) : Nat := leAt p (o - 32) n

/-- TIER, byte 41. -/
def tierOf (p : List Byte) : Nat := prm p 41 1
/-- A FLAGS bit, byte 42. -/
def flagOf (p : List Byte) (i : Nat) : Bool := (prm p 42 1).testBit i
/-- NAMESPACE, bytes 44 to 45. -/
def nsOf (p : List Byte) : Nat := prm p 44 2

/-- The core set that ONE_CORE, SQUARES and CORE name; none for an empty one (R142). -/
def coresAsked (p : List Byte) : Option CoreSet :=
  if flagOf p 2 then some (.one (BitVec.ofNat 12 (prm p 80 2)))
  else
    let mask : BitVec 256 := BitVec.ofNat 256 (leNat (bytesAt p 16 32))
    if mask = 0 then none else some (.squares mask)

/-- A set that stands where the tier is not T0 and the core set is ignored. -/
def noCores : CoreSet := .one 0

/-- The tensor number that a command names with offset zero, if it is one that the host may use (R130, R142). -/
def namedTensor (a : Word) : Option Nat := if offsetOf a = 0 ∧ userNumber (tnumOf a) = true then some (tnumOf a) else none

/-- Moves on entry to P2 no longer wait for room. -/
def endEntryWaits : Sys → Sys := onRange fun r => { r with waits := r.waits.filter fun w => w.ask != .entry }

/-- A request goes on waiting (R154, R160, R161). -/
def waitFor (w : SpaceWait) : Sys → Sys := onRange fun r => { r with waits := r.waits ++ [w] }

/-! ### TENSOR_CREATE (R143) -/

/-- Add a movable tensor with its home at a place. -/
def addMovable (n size : Nat) (p : Place) (zero pin : Bool) (m : Sys) : Sys :=
  let (q, m) := nextSeq m
  setTensor n
    { isSealed := false, state := .live, size, appended := 0, place := p, store := freshStore zero, copy1 := none, copy0 := none,
      pins := if pin then 1 else 0, ns := 0, touched := now m, damaged := [], motion := none, chunks := [],
      created := BitVec.ofNat 64 q, lostCores := [] } m

/-- What a request for space finds: the place and the module after eviction, or that it waits or that no room can be made. -/
inductive Found where
  | at (p : Place)
  | wait
  | full
deriving DecidableEq, Repr

/-- A place in T1. -/
def foundT1 (r : Need) (size : Nat) (m : Sys) : Found × Sys :=
  match roomT1 r (granuleBytes size) m with
  | (.now, m) =>
    let (s, m) := drawStart m
    (.at (.t1 s), m)
  | (.wait, m) => (.wait, m)
  | (.full, m) => (.full, m)

/-- A place in TN. -/
def foundTN (r : Need) (size : Nat) (m : Sys) : Found × Sys :=
  match leaseRoom m size with
  | some p => (.at p, m)
  | none => match roomTN r size m with
    | (.full, m) => (.full, m)
    | (_, m) => (.wait, m)

/-- A place in a core set. -/
def foundT0 (r : Need) (c : CoreSet) (size : Nat) (m : Sys) : Found × Sys :=
  match roomT0 r c size m with
  | (.now, m) => (.at (.t0 c), m)
  | (.wait, m) => (.wait, m)
  | (.full, m) => (.full, m)

/-- A place in a tier after eviction; with 0xF, T1 if it can hold the tensor and otherwise TN (R143, R159, R160). -/
def findPlace (r : Need) (tier : Nat) (c : CoreSet) (size : Nat) (m : Sys) : Found × Sys :=
  if tier = 0 then foundT0 r c size m
  else if tier = 1 then foundT1 r size m
  else if tier = 4 then foundTN r size m
  else match foundT1 r size m with
    | (.full, m) => foundTN r size m
    | x => x

/-- The request that a record of waiting stands for. -/
def SpaceWait.need (w : SpaceWait) : Need := { req := w.order, tensor := w.tensor.toNat, asks := true, skipped := w.skipped }

/-- A record of waiting, of a request new at dispatch: its order is taken now (R156). -/
def newWait (a : Asker) (n : Nat) (ask : SpaceAsk) (m : Sys) : SpaceWait × Sys :=
  let (o, m) := takeOrder m
  ({ asker := a, tensor := BitVec.ofNat 24 n, ask, order := o, skipped := [], due := false }, m)

/-- Bytes of T1 at a place. -/
def t1Bytes (p : Place) (size : Nat) : Nat := match p with
  | .t1 _ => granuleBytes size
  | _ => 0

/-- Create a movable tensor, as `w` asks: room, the 8 GiB rule, then the table entry (R143, R160, R162). -/
def createMovable (w : SpaceWait) (size tier : Nat) (zero pin : Bool) (c : CoreSet) (m : Sys) : Sys :=
  let n := w.tensor.toNat
  if !isFree m n then endAsk w.asker (ending stBadCommand) m
  else match findPlace w.need tier c size m with
    | (.at p, m') =>
      if pin && !pinAllowed m' (t1Bytes p size) then endAsk w.asker (ending stFull) m
      else endAsk w.asker (ending stDone) (addMovable n size p zero pin m')
    | (.wait, m') => waitFor w m'
    | (.full, m') => endAsk w.asker (ending stFull) (countFull m')

/-- An existing namespace: one with a key, and not deleted by an NS_DELETE that waits for its flush (R378, R432). -/
def nsExists (m : Sys) (ns : Nat) : Bool := (tfind ns m.flash.spaces).isSome && !m.flash.keyDrops.any fun e => e.2.1 == ns

/-- Create a sealed tensor in state BUILDING (R143); flush-bound (R359). -/
def createSealed (a : Asker) (n size ns : Nat) (m : Sys) : Sys :=
  let (q, m) := nextSeq m
  let m := setTensor n
    { isSealed := true, state := .building, size, appended := 0, place := .none, store := freshStore true, copy1 := none, copy0 := none,
      pins := 0, ns := BitVec.ofNat 16 ns, touched := now m, damaged := [], motion := none, chunks := [], created := BitVec.ofNat 64 q, lostCores := [] } m
  bindFlush a stDone [] (journal (.tensor (BitVec.ofNat 24 n)) m)

/-- Tensors of a registered index: root, components and segments (R309, R312). -/
def indexNumbers (x : Index) : List TNum := x.root :: (x.parts ++ x.segments.map (·.tensor) ++ x.old)

/-- A tensor is part of a registered index (R312, R378). -/
def inIndex (m : Sys) (n : Nat) : Bool := m.search.registry.any fun e => (indexNumbers e.2).any fun t => t.toNat == n

/-- A number that a running merge holds (R333). -/
def heldForMerge (m : Sys) (n : Nat) : Bool := m.search.registry.any fun e => match e.2.merge with
  | some g => n == g.newRoot.toNat || (decide (g.newFirst.toNat ≤ n) && decide (n < g.newFirst.toNat + g.pieces))
  | none => false

/-- The number is held for a CREATE slot and the asker is not a descriptor of that job (R288). -/
def heldBack (a : Asker) (n : Nat) (m : Sys) : Bool :=
  heldForMerge m n || (heldForJob m n && (match a with
    | .desc _ _ => false
    | _ => true))

/-- TENSOR_CREATE of a movable tensor at its dispatch. -/
def createNow (a : Asker) (n size tier : Nat) (zero pin : Bool) (c : CoreSet) (m : Sys) : Sys :=
  let (w, m) := newWait a n (.create size tier zero pin c) m
  createMovable w size tier zero pin c m

/-- TENSOR_CREATE's effect (R143). -/
def createOp (a : Asker) (n : Nat) (p : List Byte) (m : Sys) : Sys :=
  let size := prm p 32 8
  let cls := prm p 40 1
  let tier := tierOf p
  let zero := flagOf p 0
  let pin := flagOf p 1
  if isFree m n = false ∨ size = 0 ∨ 2 ^ 40 < size ∨ 1 < cls then endAsk a (ending stBadCommand) m
  else if cls = 1 then
    if tier ≠ 0xF ∨ zero = true ∨ pin = true ∨ nsExists m (nsOf p) = false then endAsk a (ending stBadCommand) m
    else if heldBack a n m then endAsk a (ending stBusy) m
    else if readOnly m then endAsk a (ending stReadOnly) m
    else createSealed a n size (nsOf p) m
  else if tier ≠ 0 ∧ tier ≠ 1 ∧ tier ≠ 4 ∧ tier ≠ 0xF then endAsk a (ending stBadCommand) m
  else if tier = 0 then
    match coresAsked p with
    | none => endAsk a (ending stBadCommand) m
    | some c =>
      if heldBack a n m then endAsk a (ending stBusy) m else createNow a n size tier zero pin c m
  else if heldBack a n m then endAsk a (ending stBusy) m
  else createNow a n size tier zero pin noCores m

/-! ### Pins (R162) -/

/-- A pin count rises by 1. -/
def raisePin (n : Nat) : Sys → Sys := updTensor n fun t => { t with pins := satInc t.pins }
/-- A pin count falls by 1. -/
def lowerPin (n : Nat) : Sys → Sys := updTensor n fun t => { t with pins := t.pins - 1 }

/-- TENSOR_PIN's effect (R162). -/
def pinOp (a : Asker) (n : Nat) (m : Sys) : Sys :=
  match tensorOf m n with
  | none => endAsk a (ending stBadCommand) m
  | some t =>
    if t.pins = 0xFFFF then endAsk a (ending stBadCommand) m
    else if !pinAllowed m (pinExtra t) then endAsk a (ending stFull) m
    else endAsk a (ending stDone) (raisePin n m)

/-- TENSOR_UNPIN's effect (R162). -/
def unpinOp (a : Asker) (n : Nat) (m : Sys) : Sys :=
  match tensorOf m n with
  | none => endAsk a (ending stBadCommand) m
  | some t => if t.pins = 0 then endAsk a (ending stBadCommand) m else endAsk a (ending stDone) (lowerPin n m)

/-! ### TENSOR_MOVE (R153 to R156) -/

/-- The home or copy asked for is already in place (R154, R155). -/
def inPlace (t : Tensor) (tier : Nat) (c : CoreSet) : Bool :=
  if t.isSealed then
    if tier = 1 then t.copy1.isSome else (match t.copy0 with
      | some x => x.1 == c
      | none => false)
  else match t.place with
    | .t0 x => tier == 0 && x == c
    | .t1 _ => tier == 1
    | .tn _ _ => tier == 4
    | _ => false

/-- The priority class of a request (R156). -/
def askPriority : Asker → Nat
  | .prefetch _ _ => 4
  | _ => 3

/-- The request itself: done at once, waiting for a motion, a seal or space, or handed to the migration engine (R154, R160; log entry 16). -/
def moveOp (w : SpaceWait) (tier : Nat) (pin : Bool) (c : CoreSet) (m : Sys) : Sys :=
  let n := w.tensor.toNat
  let a := w.asker
  match tensorOf m n with
  | none => endAsk a (ending stBadCommand) m
  | some t =>
    if 1 < tier ∧ (tier ≠ 4 ∨ t.isSealed = true) then endAsk a (ending stBadCommand) m
    else if t.state = .building then endAsk a (ending stBusy) m
    else if t.state = .lost then endAsk a (failedAt stUncorrectable (tensorAddr n 0)) m
    else if t.motion.isSome || underSeal m n then waitFor w m
    else if inPlace t tier c then
      if pin ∧ t.pins = 0xFFFF then endAsk a (ending stBadCommand) m
      else if pin && !pinAllowed m (pinExtra t) then endAsk a (ending stFull) m
      else endAsk a (ending stDone) (touch n (onlyIf pin (raisePin n) m))
    else match findPlace w.need tier c t.size m with
      | (.at p, m') => requestMotion n { newMotion p (askPriority a) w.order with copying := t.isSealed, touches := true, asker := a, pin } m'
      | (.wait, m') => waitFor w m'
      | (.full, m') => endAsk a (ending stFull) (countFull m')

/-- A move at its dispatch (R156). -/
def moveNow (a : Asker) (n tier : Nat) (pin : Bool) (c : CoreSet) (m : Sys) : Sys :=
  let (w, m) := newWait a n (.move tier pin c) m
  moveOp w tier pin c m

/-- TENSOR_MOVE's effect: the tier and core set of the parameters (R142, R155). -/
def moveAsk (a : Asker) (n : Nat) (p : List Byte) (m : Sys) : Sys :=
  let tier := tierOf p
  if tier = 0 then
    match coresAsked p with
    | none => endAsk a (ending stBadCommand) m
    | some c => moveNow a n 0 (flagOf p 0) c m
  else if tier = 1 ∨ tier = 4 then moveNow a n tier (flagOf p 0) noCores m
  else endAsk a (ending stBadCommand) m

/-! ### TENSOR_SEAL and SEAL_APPEND (R145 to R147, R349, R376, R377) -/

/-- Take chunks and begin a seal or append, which touches its tensors (R158, R349, R377). -/
def beginSeal (a : Asker) (target source total need : Nat) (ns : BitVec 16) (m : Sys) : Sys :=
  if freeChunks m < need then endAsk a (ending stFull) m
  else
    let m := touch target (touch source m)
    let r := takeChunks need (heldChunks m ++ m.flash.freeing) m.flash.chunkPtr []
    onFlash (fun x => { x with
      chunkPtr := r.2,
      seals := x.seals ++ [{ asker := a, target := BitVec.ofNat 24 target, source := BitVec.ofNat 24 source, done := 0, total,
                             chunks := r.1, started := false, committed := false, stop := none, ns, first := 0, placed := [], content := none }] }) m

/-- The tensor is in motion, so a seal of it waits (log entry 16). -/
def inMotion (m : Sys) (n : Nat) : Bool := ((tensorOf m n).bind (·.motion)).isSome

/-- TENSOR_SEAL's effect up to its first step (R146). A tensor in motion is sealed once the motion has ended (DESIGN CHOICE, log entry 16). -/
def sealOp (w : SpaceWait) (ns : Nat) (m : Sys) : Sys :=
  let n := w.tensor.toNat
  match tensorOf m n with
  | none => endAsk w.asker (ending stBadCommand) m
  | some t =>
    if t.isSealed = true ∨ t.state ≠ .live ∨ nsExists m ns = false then endAsk w.asker (ending stBadCommand) m
    else if readOnly m then endAsk w.asker (ending stReadOnly) m
    else if inMotion m n then waitFor w m
    else beginSeal w.asker n n t.size (chunksFor t.size) (BitVec.ofNat 16 ns) m

/-- SEAL_APPEND's effect up to its first step (R145). A source in motion is appended once the motion has ended (log entry 16). -/
def appendOp (w : SpaceWait) (src : Nat) (m : Sys) : Sys :=
  let n := w.tensor.toNat
  match tensorOf m n, tensorOf m src with
  | some t, some x =>
    if t.state ≠ .building ∨ x.isSealed = true ∨ x.state ≠ .live ∨ t.size < t.appended + x.size then
      endAsk w.asker (ending stBadCommand) m
    else if readOnly m then endAsk w.asker (ending stReadOnly) m
    else if inMotion m src then waitFor w m
    else beginSeal w.asker n src x.size (chunksFor (t.appended + x.size) - t.chunks.length) t.ns m
  | _, _ => endAsk w.asker (ending stBadCommand) m

/-- A seal or append that touches the tensor waits to begin. -/
def sealWaits (m : Sys) (n : Nat) : Bool := m.range.waits.any fun w => match w.ask with
  | .seal _ => w.tensor.toNat == n
  | .append src => w.tensor.toNat == n || src == n
  | _ => false

/-- TENSOR_SEAL at its dispatch. -/
def sealNow (a : Asker) (n ns : Nat) (m : Sys) : Sys :=
  let (w, m) := newWait a n (.seal ns) m
  sealOp w ns m

/-- SEAL_APPEND at its dispatch. -/
def appendNow (a : Asker) (n src : Nat) (m : Sys) : Sys :=
  let (w, m) := newWait a n (.append src) m
  appendOp w src m

/-! ### Moves of the module's own (R87, R196) -/

/-- The tensor is to leave the place where its home lies: a recalled lease, or a core that is out of service (R87, R196). -/
def mustLeave (m : Sys) (t : Tensor) : Bool := match t.place with
  | .tn l _ => ((tfind l.toNat m.fabric.borrowed).map (·.recalled)).getD false
  | .t0 c => (coreList c).any fun n => (coreOf m n).coreOut
  | _ => false

/-- Move a home to T1, which makes room by its own selection, or else to TN; where neither can take it the motion waits for room in T1
(R87, R159, R161, R196). -/
def leaveOp (w : SpaceWait) (prio : Nat) (m : Sys) : Sys :=
  let n := w.tensor.toNat
  match tensorOf m n with
  | none => m
  | some t =>
    if t.motion.isSome || !mustLeave m t then m
    else
      let size := granuleBytes t.size
      let (asked, m) := selectT1 w.need size (t1Candidates w.need m) m
      let toT1 (m : Sys) : Sys :=
        let (s, m) := drawStart m
        requestMotion n { newMotion (.t1 s) prio w.order with holds := size ≤ t1Spare m } m
      if size ≤ t1Spare m + t1FreeingFor w.need.cause m then toT1 m
      else if asked then waitFor w m
      else match foundTN w.need t.size m with
        | (.at p, m) => requestMotion n (newMotion p prio w.order) m
        | (.wait, m) => waitFor w m
        | (.full, m) => toT1 m

/-- The module asks for such a move (R156). -/
def leaveNow (n prio : Nat) (m : Sys) : Sys :=
  let (w, m) := newWait .engine n (.leave prio) m
  leaveOp w prio m

/-- A home that is to leave its place is asked to move: out of a recalled lease first, which no pin prevents, and out of a core at
eviction priority (R87, R156, R162, R196). -/
def leaveIf (n : Nat) (m : Sys) : Sys := match tensorOf m n with
  | some t =>
    if !mustLeave m t then m
    else leaveNow n (match t.place with
      | .tn _ _ => 1
      | _ => 2) m
  | none => m

/-! ### Requests that waited -/

/-- A request that waited runs again (R154, R160). Scratch reservations and moves on entry to P2 are tried again by the module in its own
time. -/
def runAgain (w : SpaceWait) : Sys → Sys := match w.ask with
  | .create size tier zero pin c => createMovable w size tier zero pin c
  | .move tier pin c => moveOp w tier pin c
  | .seal ns => sealOp w ns
  | .append src => appendOp w src
  | .leave prio => leaveOp w prio
  | .entry => waitFor { w with due := true }
  | .scratch _ => waitFor { w with due := true }

/-- Requests that waited for space or for a motion run again, in their order (R154, R160). -/
def retryWaits (m : Sys) : Sys := forEach m.range.waits runAgain (onRange (fun r => { r with waits := [] }) m)

/-- Requests to move a tensor that wait end FLUSHED (R153). -/
def endMoves (which : SpaceWait → Bool) (m : Sys) : Sys :=
  let l := m.range.waits.filter which
  forEach l (fun w => endAsk w.asker (ending stFlushed)) (onRange (fun r => { r with waits := r.waits.filter fun w => !which w }) m)

/-- The record waits to move the tensor to one of the tiers. -/
def movesTensor (n : Nat) (tiers : Nat → Bool) (w : SpaceWait) : Bool := w.tensor.toNat == n && (match w.ask with
  | .move tier _ _ => tiers tier
  | _ => false)

/-- End a motion early: its partial contents are discarded and its asker ends FLUSHED (R153). -/
def abandonMotion (n : Nat) (m : Sys) : Sys :=
  match (tensorOf m n).bind (·.motion) with
  | some mo => endAsk mo.asker (ending stFlushed) (updTensor n (fun t => { t with motion := none }) m)
  | none => m

/-- A record of waiting waits for space (R160), not for a motion or a seal of its tensor to end. -/
def waitsForSpace (m : Sys) (w : SpaceWait) : Bool := match w.ask with
  | .move _ _ _ => !inMotion m w.tensor.toNat && !underSeal m w.tensor.toNat
  | .seal _ => false
  | .append _ => false
  | _ => true

/-! ### TENSOR_DROP (R155) -/

/-- TENSOR_DROP's effect: the copies named are dropped, one still being made is abandoned (R155). -/
def dropOp (a : Asker) (n : Nat) (p : List Byte) (m : Sys) : Sys :=
  let which := prm p 41 1
  match tensorOf m n with
  | none => endAsk a (ending stBadCommand) m
  | some t =>
    if !t.isSealed then endAsk a (ending stBadCommand) m
    else
      let making := match t.motion with
        | some mo => (match mo.dest with
          | .t0 _ => which.testBit 0
          | .t1 _ => which.testBit 1
          | _ => false)
        | none => false
      let m := endMoves (movesTensor n which.testBit) (onlyIf making (abandonMotion n) m)
      let m := onlyIf (which.testBit 0) (dropCopy0 n) m
      let m := onlyIf (which.testBit 1) (dropCopy1 n) m
      retryWaits (endAsk a (ending stDone) m)

/-! ### TENSOR_DELETE (R144) -/

/-- Drop everything that a tensor holds; its motion and the moves that wait for it end (R144, R153). A sealed tensor's flash is released,
and its number is FREE once a flush carries that (R144, R349); until then no command reaches the tensor (log entry 16). -/
def dropTensor (n : Nat) (t : Tensor) (m : Sys) : Sys :=
  let m := freeNumber n (endMoves (movesTensor n fun _ => true) (abandonMotion n m))
  if t.isSealed then
    let m := journal (.tensor (BitVec.ofNat 24 n)) (releaseChunks t.chunks m)
    onRange (fun r => { r with deleting := r.deleting ++ [(m.flash.seq, BitVec.ofNat 24 n)] }) m
  else m

/-- TENSOR_DELETE's effect; `mine` says that a descriptor of the admitted job deletes its own CREATE slot (R144, R281, R376). -/
def deleteOp (a : Asker) (n : Nat) (mine : Bool) (m : Sys) : Sys :=
  match tensorOf m n with
  | none => endAsk a (ending stBadCommand) m
  | some t =>
    if t.pins ≠ 0 ∨ (mine = false ∧ namedByJob m n = true) ∨ inIndex m n = true ∨ heldForMerge m n = true then
      endAsk a (ending stBusy) m
    else if t.isSealed && startupOrHoldup m then endAsk a (ending stReadOnly) m
    else
      let m := dropTensor n t m
      retryWaits (if t.isSealed then bindFlush a stDone [] m else endAsk a (ending stDone) m)

/-! ### SEAL_CLOSE (R145) -/

/-- SEAL_CLOSE's effect (R145); flush-bound (R359). -/
def closeOp (a : Asker) (n : Nat) (m : Sys) : Sys :=
  match tensorOf m n with
  | none => endAsk a (ending stBadCommand) m
  | some t =>
    if t.state ≠ .building ∨ t.appended = 0 then endAsk a (ending stBadCommand) m
    else if readOnly m then endAsk a (ending stReadOnly) m
    else
      bindFlush a stDone [] (journal (.tensor (BitVec.ofNat 24 n))
        (touch n (setTensor n { t with size := t.appended, state := if t.damaged.isEmpty then .live else .damaged } m)))

/-! ### TENSOR_QUERY (R149) -/

/-- State code (R141). -/
def stateCode : TState → Nat
  | .live => 1
  | .building => 2
  | .damaged => 3
  | .lost => 4

/-- Home tier code of R149. -/
def homeCode (m : Sys) (t : Tensor) : Nat := if t.isSealed then (if t.chunks.isEmpty then 0xF else sealedTier m t) else tierCode m t t.place

/-- RESULT of TENSOR_QUERY (R149). A motion that waits to start counts as motion (DESIGN CHOICE, log entry 32). -/
def queryResult (m : Sys) (t : Tensor) : List Byte :=
  let size := if t.state = .building then t.appended else t.size
  resultOf
    [(40, leBytes 5 size),
     (45, leBytes 1 (stateCode t.state + flagAt t.isSealed 4 + flagAt t.motion.isSome 5)),
     (46, leBytes 1 (homeCode m t + 16 * (match t.motion with
        | some mo => tierCode m t mo.dest
        | none => 0xF))),
     (47, leBytes 1 (flagAt t.copy0.isSome 0 + flagAt t.copy1.isSome 1)),
     (48, leBytes 2 t.pins.toNat),
     (50, leBytes 2 (if t.isSealed then t.ns.toNat else 0)),
     (52, leBytes 4 (min ((now m - t.touched) / msTurns) 0xFFFFFFFF)),
     (56, leBytes 2 t.damaged.length),
     (58, leBytes 1 (size / 2 ^ 40))]

/-- TENSOR_QUERY: AGE tells of the touch before this one (R149, R158). -/
def queryCmd (c : Cmd) (m : Sys) : Sys :=
  match (namedTensor c.tensor).bind (fun n => (tensorOf m n).map (n, ·)) with
  | none => endWith c stBadCommand m
  | some (n, t) => complete c (doneWith (queryResult m t)) (touch n m)

/-! ### The commands (R142) -/

/-- What a command asked for is already under way: it waits for space, for a motion, for a seal or for a flush. -/
def askUnderWay (a : Asker) (m : Sys) : Bool :=
  m.range.waits.any (·.asker == a) ||
    m.range.tensors.any (fun e => match e.2.motion with
      | some mo => mo.asker == a
      | none => false) ||
    m.flash.seals.any (·.asker == a) || m.flash.bound.any (·.2.1 == a)

/-- Run a tensor command on the number it names, or end it with BAD_COMMAND; a command that touches units waits for earlier ones
(R142, R148). -/
def tensorCmd (c : Cmd) (waits : Bool) (f : Nat → Sys → Sys) (m : Sys) : Sys :=
  match namedTensor c.tensor with
  | none => endWith c stBadCommand m
  | some n => if askUnderWay (.cmd c) m || (waits && tensorBusy c n m) then m else f n m

/-- TENSOR_CREATE (R143). -/
def execTensorCreate (c : Cmd) (s : State) : Host.Outcome State Fault Refusal :=
  done s (asCommand c (tensorCmd c false fun n => createOp (.cmd c) n c.param))
/-- TENSOR_DELETE (R144). -/
def execTensorDelete (c : Cmd) (s : State) : Host.Outcome State Fault Refusal :=
  done s (asCommand c (tensorCmd c true fun n => deleteOp (.cmd c) n false))
/-- TENSOR_MOVE (R154). -/
def execTensorMove (c : Cmd) (s : State) : Host.Outcome State Fault Refusal :=
  done s (asCommand c (tensorCmd c false fun n => moveAsk (.cmd c) n c.param))
/-- TENSOR_DROP (R155). -/
def execTensorDrop (c : Cmd) (s : State) : Host.Outcome State Fault Refusal :=
  done s (asCommand c (tensorCmd c false fun n => dropOp (.cmd c) n c.param))
/-- TENSOR_PIN (R162). -/
def execTensorPin (c : Cmd) (s : State) : Host.Outcome State Fault Refusal :=
  done s (asCommand c (tensorCmd c false fun n => pinOp (.cmd c) n))
/-- TENSOR_UNPIN (R162). -/
def execTensorUnpin (c : Cmd) (s : State) : Host.Outcome State Fault Refusal :=
  done s (asCommand c (tensorCmd c false fun n => unpinOp (.cmd c) n))

/-- TENSOR_SEAL (R146). -/
def execTensorSeal (c : Cmd) (s : State) : Host.Outcome State Fault Refusal :=
  done s (asCommand c (tensorCmd c true fun n => sealNow (.cmd c) n (nsOf c.param)))

/-- SEAL_APPEND on the target and source it names (R145, R148). -/
def appendCmd (c : Cmd) (m : Sys) : Sys :=
  match namedTensor (BitVec.ofNat 64 (prm c.param 32 8)) with
  | none => endWith c stBadCommand m
  | some src => if tensorBusy c src m then m else tensorCmd c true (fun n => appendNow (.cmd c) n src) m

/-- SEAL_APPEND (R145). -/
def execSealAppend (c : Cmd) (s : State) : Host.Outcome State Fault Refusal := done s (asCommand c (appendCmd c))
/-- SEAL_CLOSE (R145). -/
def execSealClose (c : Cmd) (s : State) : Host.Outcome State Fault Refusal :=
  done s (asCommand c (tensorCmd c true fun n => closeOp (.cmd c) n))
/-- TENSOR_QUERY (R149). -/
def execTensorQuery (c : Cmd) (s : State) : Host.Outcome State Fault Refusal := done s (asCommand c (queryCmd c))

end Sys2Proof.Machine
end

