-- ==== Sys2Proof/Machine/OpEnv.lean ====
section
/-!
DEFINITION. How a descriptor runs in its task: operands, conditions, counters, and the frame that every descriptor row shares
(R164, R173, R189, R229 to R232, R274, R276, R291, R294).
-/
namespace Sys2Proof.Machine

/-! ### Operands (R274, R276) -/

/-- A slot of the plan. -/
def slotOf (p : Plan) (i : Nat) : Slot := p.slots.getD i ⟨0, 0, 0, 0, 0, 0⟩

/-- The tensor-range address of byte `off` of a slot in the current step (R276). -/
def slotAddr (j : Job) (s off : Nat) : Nat :=
  (j.binds.getD s 0).toNat + off + (slotOf j.plan s).stride * (j.step - j.startStep)

/-- A descriptor under way: the module, the task, and the conditions and first failing address met so far (R232, R470). -/
structure Run where
  sys : Sys
  task : Nat
  conds : BitVec 16
  err : Word
  /-- a FREE number, or a malformed SC16 code, was met: BAD_COMMAND (R141, R204) -/
  bad : Bool
  /-- a BUILDING tensor was read: BUSY (R141) -/
  busy : Bool
deriving DecidableEq, Repr

/-- A run that begins. -/
def runOf (task : Nat) (m : Sys) : Run := { sys := m, task, conds := 0, err := 0, bad := false, busy := false }

/-- Something stops the operation. -/
def Run.failed (r : Run) : Bool := r.conds != 0 || r.bad || r.busy

/-- Change the module of a run. -/
def Run.on (r : Run) (f : Sys → Sys) : Run := { r with sys := f r.sys }

/-- Note a condition with its failing address (R470). -/
def Run.note (r : Run) (conds : BitVec 16) (err : Word) : Run :=
  { r with conds := r.conds ||| conds, err := mergeErr r.conds conds r.err err }

/-- Conditions of a read as CONDITIONS bits. -/
def readConds (uncorr unwritten : Option Nat) : BitVec 16 :=
  (if uncorr.isSome then condition stUncorrectable else 0) ||| (if unwritten.isSome then condition stNotWritten else 0)

/-- Count what an access to a scratch area met (R384, R385, R388). -/
def countScratch (core : Nat) (a : Access1) (m : Sys) : Sys :=
  let m := forEach a.poisoned (fun w => countUncorrectable (.core core) (w / 8))
    (forEach a.corrected (fun _ => countCorrected (.core core)) m)
  onlyIf a.unwritten.isSome (onIntegrity fun x => { x with notWritten := satInc x.notWritten }) m

/-- Read bytes at a tensor-range address: a FREE number is BAD_COMMAND, a BUILDING tensor BUSY (R141). -/
def addrRead (a len : Nat) (r : Run) : List Byte × Run :=
  let n := a / 2 ^ 40
  match (tensorOf r.sys n).map Tensor.state with
  | none => (zeros len, { r with bad := true })
  | some .building => (zeros len, { r with busy := true })
  | some _ =>
    let x := readTensor n (a % 2 ^ 40) len r.sys
    let e := readEnding n x.1
    (x.1.bytes, if e.conds = 0 then { r with sys := x.2 } else { r with sys := x.2 }.note e.conds e.err)

/-- Write bytes at a tensor-range address: a FREE number is BAD_COMMAND, a sealed tensor READ_ONLY unless it is LOST (R141). -/
def addrWrite (a : Nat) (data : List Byte) (r : Run) : Run :=
  let n := a / 2 ^ 40
  match tensorOf r.sys n with
  | none => { r with bad := true }
  | some t =>
    if t.isSealed = true ∧ t.state ≠ .lost then r.note (condition stReadOnly) 0
    else
      let x := writeTensor n (a % 2 ^ 40) data r.sys
      match x.1 with
      | some e => { r with sys := x.2 }.note (condition stUncorrectable) (tensorAddr n e)
      | none => { r with sys := x.2 }

/-- Read `len` bytes at `off` of an operand. A scratch byte has no tensor-range address, so its failing address is zero (log entry
17). -/
def opRead (ref : ORef) (off len : Nat) (r : Run) : List Byte × Run :=
  match r.sys.jobs.job with
  | none => (zeros len, r)
  | some j =>
    match ref with
    | .none => (zeros len, r)
    | .slot s o => addrRead (slotAddr j s.toNat (o.toNat + off)) len r
    | .scratch o =>
      let t := taskAt j r.task
      let a := treatLines 32 (o.toNat + off) len (readStore t.scratch (o.toNat + off) len)
      let m := countScratch (coreOfTask t) a (onTaskRun r.task (fun t => { t with scratch := a.store }) r.sys)
      let c := readConds a.uncorr a.unwritten
      (a.bytes, if c = 0 then { r with sys := m } else { r with sys := m }.note c 0)
    | .plan o => (bytesAt j.plan.params (o.toNat + off) len, r)

/-- Write bytes at `off` of an operand. -/
def opWrite (ref : ORef) (off : Nat) (data : List Byte) (r : Run) : Run :=
  match r.sys.jobs.job with
  | none => r
  | some j =>
    match ref with
    | .slot s o => addrWrite (slotAddr j s.toNat (o.toNat + off)) data r
    | .scratch o =>
      let t := taskAt j r.task
      let a := writeStore t.scratch (o.toNat + off) data
      let m := countScratch (coreOfTask t) a (onTaskRun r.task (fun t => { t with scratch := a.store }) r.sys)
      match a.uncorr with
      | some _ =>
        { r with sys := onIntegrity (fun x => { x with mergeUncorr := satAdd x.mergeUncorr a.discarded }) m }.note (condition stUncorrectable) 0
      | none => { r with sys := m }
    | _ => r

/-- Read a whole operand of a descriptor from its start. -/
def opGet (d : Desc) (i len : Nat) (r : Run) : List Byte × Run := opRead (operand d i) 0 len r
/-- Write an operand of a descriptor from its start; nothing once a read has failed. -/
def opPut (d : Desc) (i : Nat) (data : List Byte) (r : Run) : Run := if !r.failed then opWrite (operand d i) 0 data r else r

/-- Read pairs held in groups of 8 rows, `steps` pairs of each row: the array takes zero operands for rows that exist only as padding, so
their bytes are not read (R174, R175). -/
def opGroups (d : Desc) (i rows steps : Nat) (r : Run) : List Byte × Run :=
  (List.range (cquo rows 8)).foldl (fun (acc : List Byte × Run) g =>
    let h := min 8 (rows - 8 * g)
    if h = 8 then
      let x := opRead (operand d i) (g * steps * 16) (steps * 16) acc.2
      (acc.1 ++ x.1, x.2)
    else (List.range steps).foldl (fun (acc : List Byte × Run) t =>
      let x := opRead (operand d i) ((g * steps + t) * 16) (2 * h) acc.2
      (acc.1 ++ fitBytes 16 x.1, x.2)) acc) ([], r)

/-- Read a binary32 operand. -/
def opF32 (d : Desc) (i n : Nat) (r : Run) : List F32 × Run :=
  let x := opGet d i (4 * n) r
  (f32List x.1, x.2)

/-- Bytes of binary32 values. -/
def f32Out (l : List F32) : List Byte := l.flatMap f32Bytes

/-! ### Counters and conditions of conversions (R211, R212) -/

/-- The serving context that owns row `i` of `n`: the rows of the step each take n / ROWS rows of an operand (R291). -/
def rowOwner (j : Job) (dim : Dim) (i : Nat) : Option Nat :=
  match dim with
  | .val _ => none
  | .rows k => if k = 0 then none else (j.rows[i / k.toNat]?).map (·.ctx)

/-- SCALE_SATURATED for the job, and for the context that owns the row (R291). -/
def markSaturated (owner : Option Nat) : Sys → Sys := onJob fun j =>
  { j with
    conds := j.conds ||| condition stScaleSaturated,
    ctxs := match owner with
      | some c => match tfind c j.ctxs with
        | some x => tset c { x with conds := x.conds ||| condition stScaleSaturated } j.ctxs
        | none => j.ctxs
      | none => j.ctxs }

/-- Count a conversion's passes, saturation and non-finite elements (R211, R212). -/
def countConv (passes : Nat) (saturated nonfinite : Bool) (owner : Option Nat) (m : Sys) : Sys :=
  let m := onJobs (fun x => { x with
    recompute := satAdd x.recompute passes,
    saturated := if saturated then satInc x.saturated else x.saturated,
    nonfinite := if nonfinite then satInc x.nonfinite else x.nonfinite }) m
  onlyIf saturated (markSaturated owner) (onlyIf saturated (addTotal 49 1) (addTotal 48 passes m))

/-- A malformed SC16 code was met (R204). -/
def markMalformed (codes : List Nat) : Sys → Sys := onlyIf (codes.any fun c => !scGood c) (onJob fun j => { j with malformed := true })

/-- Read an array of SC16 codes. -/
def opScales (d : Desc) (i n : Nat) (r : Run) : List Nat × Run :=
  let x := opGet d i (2 * n) r
  let l := (List.range n).map fun k => leAt x.1 (2 * k) 2
  (l, if l.all scGood then x.2 else { x.2 with bad := true })

/-! ### The frame of a descriptor row -/

/-- Rank counts of a plan's collectives. -/
def planRanks (p : Plan) : List Nat := p.colls.map (·.ranks)

/-- ROWS of the current step (R279). -/
def stepRows (j : Job) : Nat := j.rows.length

/-- The shape of a descriptor in the running job's current step. -/
def shapeNow (j : Job) (d : Desc) : Option Shape := shapeOf j.plan.params (planRanks j.plan) (stepRows j) d

/-- An indivisible descriptor (R294): collectives, T_SEAL, T_APPEND and EMIT. -/
def indivisible (d : Desc) : Bool :=
  d.op == 0x38 || d.op == 0x39 || (d.op == 0x31 && dpar d 104 4 != 0xFFFFFFFF) || d.op == 0x66 || d.op == 0x67 || d.op == 0x58

/-- A job that stops abandons what is not indivisible; at budget expiry everything issued runs to its end (R293, R294). -/
def mayRun (j : Job) (d : Desc) : Bool :=
  !j.paused && (match j.stopping with
    | none => true
    | some .budget => true
    | some _ => indivisible d)

/-- The task entry of a task. -/
def entryOf (j : Job) (t : Nat) : TaskEntry := j.plan.tasks.getD t ⟨0, 0, 0, 0⟩

/-- The lowest descriptor of a placed task that is issued, has not run, and is `d`. -/
def issuedAs (j : Job) (t : Nat) (d : Desc) : Option Nat :=
  let x := taskAt j t
  match x.phase with
  | .placed _ =>
    if x.failed then none
    else minBy (fun a b => decide (a < b)) (x.issued.filter fun i =>
      !x.ran.contains i && !x.waits.contains i && j.plan.descs[(entryOf j t).firstDesc + i]? == some d)
  | _ => none

/-- How far from the engines a place is. -/
def farness : Place → Nat
  | .t0 _ => 0
  | .t1 _ => 1
  | _ => 2

/-- How far from the engines the nearest complete source of a tensor is. -/
def nearest (t : Tensor) : Nat := if t.copy0.isSome then 0 else if t.copy1.isSome then min 1 (farness t.place) else farness t.place

/-- Some unit of the range has not arrived: a motion that brings the tensor nearer has not written it at its destination (R164; DESIGN
CHOICE, log entry 16: a motion that waits to start counts, and one that takes the tensor away does not). -/
def notArrived (t : Tensor) (off len : Nat) : Bool := match t.motion with
  | some mo => decide (farness mo.dest < nearest t) && (piecesOf off len).any fun p =>
      decide (mo.next ≤ p.1 / unitSize) || mo.window.contains (p.1 / unitSize)
  | none => false

/-- Operations of the gather/scatter unit, which reads a unit in motion from its source (R151). -/
def gathers (d : Desc) : Bool := decide (0x20 ≤ d.op.toNat ∧ d.op.toNat ≤ 0x25)

/-- An operand unit that the descriptor reads has not arrived (R164), one that it writes is in the window of a motion (R151), or one lies in a
stack that retrains (R397): the descriptor waits. -/
def operandWaits (m : Sys) (j : Job) (d : Desc) (s : Shape) : Bool :=
  s.uses.any fun u => match u.ref with
    | .slot i o =>
      let a := slotAddr j i.toNat (o.toNat + u.off)
      match tensorOf m (a / 2 ^ 40) with
      | some t => stackWaits m t (a % 2 ^ 40) u.len ||
          (if u.out then inWindow t (a % 2 ^ 40) u.len else !gathers d && notArrived t (a % 2 ^ 40) u.len)
      | none => false
    | _ => false

/-- The descriptor's operation has been carried out. -/
def markRan (t i : Nat) : Sys → Sys := onTaskRun t fun x => { x with ran := x.ran ++ [i] }

/-- The value of a dimension in a run. -/
def runDim (r : Run) (x : Dim) : Nat := match r.sys.jobs.job with
  | some j => dimVal (stepRows j) x
  | none => dimVal 0 x

/-- The bytes of an array held in groups of 8 rows, `steps` pairs of each row, without the rows of padding (R175, R231). -/
def groupSpans (rows steps : Nat) : List (Nat × Nat) :=
  (List.range (cquo rows 8)).flatMap fun g =>
    let h := min 8 (rows - 8 * g)
    if h = 8 then [(g * steps * 16, steps * 16)] else (List.range steps).map fun t => ((g * steps + t) * 16, 2 * h)

/-- The bytes of a list of up to `slots` rows after a header, of which a free choice says how many the result has (R231, R254, R268). -/
def listSpans (head slots : Nat) (widths : List Nat) (m : Sys) : List (Nat × Nat) × Sys :=
  let v := draw m
  let n := v.1.toNat % (slots + 1)
  ((0, head) :: (widths.foldl (fun (acc : List (Nat × Nat) × Nat) w => (acc.1 ++ [(acc.2, w * n)], acc.2 + w * slots)) ([], head)).1, v.2)

/-- The bytes of an output that its operation names, and no others (R231): (offset, length). -/
def namedSpans (d : Desc) (u : Use) (r : Run) : List (Nat × Nat) × Sys :=
  let a := runDim r d.dim0
  let b := runDim r d.dim1
  let c := runDim r d.dim2
  match d.op.toNat with
  | 0x01 =>
    if u.ref ≠ d.o6 ∨ d.fmt.toNat / 16 % 4 = 0 then ([(0, u.len)], r.sys)
    else if d.fmt.toNat / 16 % 4 = 1 then ([(0, 2 * a * c), (scalesAt (2 * a * c), 2 * a)], r.sys)
    else (groupSpans a c, r.sys)
  | 0x04 => (if d.kind = 1 then groupSpans a (sketchBits (d.fmt.toNat % 4) / 16) else [(0, u.len)], r.sys)
  | 0x22 => (indexed a b c, r.sys)
  | 0x23 => (indexed a b c, r.sys)
  | 0x25 => ((List.range b).map fun k => (k * runDim r d.dim3, a * d.fmt.toNat), r.sys)
  | 0x30 => listSpans 32 b [16, c] r.sys
  | 0x31 => listSpans 32 b [16, c] r.sys
  | 0x40 => filtered 8
  | 0x41 => filtered ((u.len - 16) / max 1 (runDim r d.dim3))
  | _ => ([(0, u.len)], r.sys)
where
  /-- The rows that the indices name; none while they cannot be read. -/
  indexed (e rowlen rows : Nat) : List (Nat × Nat) :=
    let x := opGet d 1 (4 * e) (runOf r.task r.sys)
    if x.2.failed then []
    else ((List.range e).map fun i => leAt x.1 (4 * i) 4).filterMap fun k => if k < rows then some (k * rowlen, rowlen) else none
  /-- The bitmap, or the list with rows of `w` bytes. -/
  filtered (w : Nat) : List (Nat × Nat) × Sys :=
    if u.ref = d.o6 then ([(0, u.len)], r.sys) else listSpans 16 (runDim r d.dim3) [w] r.sys

/-- What the named bytes of the outputs hold after an operation that met a failing word: as before, or free bytes, itself a free choice
for each run of bytes (R231; log entries 2 and 18). -/
def spoil (d : Desc) (uses : List Use) (r : Run) : Run :=
  (uses.filter (·.out)).foldl (fun r u =>
    let l := namedSpans d u r
    l.1.foldl (fun r e =>
      let v := draw r.sys
      if v.1.getLsbD 0 then
        let b := openBytes e.2 v.2
        opWrite u.ref e.1 b.1 { r with sys := b.2 }
      else { r with sys := v.2 }) { r with sys := l.2 }) r

/-- The job keeps what a run met: its conditions and its first failing address, and whether it met a number or a code that it may not use
(R141, R204, R291). -/
def keepRun (r : Run) : Sys → Sys := onJob fun j => { j with
  conds := j.conds ||| r.conds, errAddr := mergeErr j.conds r.conds j.errAddr r.err, malformed := j.malformed || r.bad,
  busyRead := j.busyRead || r.busy }

/-- A task ends with the condition its descriptor met (R291), or with BAD_COMMAND or BUSY (R141, R204). -/
def failRun (r : Run) : Sys :=
  failTask r.task r.conds r.err (onJob (fun j => { j with malformed := j.malformed || r.bad, busyRead := j.busyRead || r.busy }) r.sys)

/-- The end of a descriptor's operation: it has run, or its task ends. -/
def endRun (t i : Nat) (r : Run) : Sys := if r.failed then failRun r else markRan t i r.sys

/-- Operations that the vector unit takes part in (chapter 07, the operation table). -/
def usesVector (d : Desc) : Bool :=
  [0x01, 0x04, 0x10, 0x11, 0x12, 0x13, 0x14, 0x23, 0x30, 0x31, 0x38, 0x39, 0x40, 0x41].contains d.op.toNat

/-- An operation of the vector unit of the task's core leaves its vector registers open: which of them it uses, the manual does not say
(R188; log entries 2 and 36). -/
def useVector (t : Nat) (d : Desc) (m : Sys) : Sys :=
  if !usesVector d then m
  else match m.jobs.job with
    | some j =>
      let b := openBytes 8192 m
      onCore (coreOfTask (taskAt j t)) (fun c => { c with vregs := b.1 }) b.2
    | none => m

/-- Run descriptor `i` of a task, whose operation is `f`. -/
def runDesc (t i : Nat) (d : Desc) (s : Shape) (f : Desc → Run → Run) (m : Sys) : Sys :=
  let r := f d (runOf t (useVector t d m))
  endRun t i (if !r.failed then r else spoil d s.uses r)

/-- A descriptor row of operation code `op`: while the module runs (R34), the running job's placed task has this descriptor issued, and
its operands have arrived; then `g` acts on it. -/
def descRowWith (op : Byte) (task : BitVec 16) (d : Desc) (g : Nat → Nat → Desc → Shape → Sys → Sys) (m : Sys) : Sys :=
  if !live m then m
  else match m.jobs.job with
    | none => m
    | some j =>
      match issuedAs j task.toNat d, shapeNow j d with
      | some i, some s =>
        if !mayRun j d || d.op != op || operandWaits m j d s then m
        else g task.toNat i d s m
      | _, _ => m

/-- A descriptor row whose operation ends in its own turn. -/
def descRow (op : Byte) (task : BitVec 16) (d : Desc) (f : Desc → Run → Run) : Sys → Sys :=
  descRowWith op task d fun t i d s => runDesc t i d s f

/-- The roll key of element (row, col) of an output of `width` columns whose rows DIM0 counts (R216). In a serving job the step is
POS of the row and the element is counted within the row (R305). -/
def rollKey (r : Run) (d : Desc) (row col width : Nat) : RollKey :=
  match r.sys.jobs.job with
  | none => { seed := 0, site := d.site, step := 0, element := row * width + col }
  | some j =>
    let plain : RollKey := { seed := j.seed, site := d.site, step := BitVec.ofNat 32 j.step, element := row * width + col }
    match d.dim0 with
    | .val _ => plain
    | .rows k => match j.rows[row / k.toNat]? with
      | some x => { plain with step := BitVec.ofNat 32 x.pos, element := row % k.toNat * width + col }
      | none => plain

/-- The owner of a row in a run. -/
def runOwner (r : Run) (dim : Dim) (i : Nat) : Option Nat := r.sys.jobs.job.bind fun j => rowOwner j dim i

/-- Rows of a flat list: `n` rows of `c` elements. -/
def rowsOf {α : Type} (n c : Nat) (l : List α) : List (List α) := (List.range n).map fun i => (l.drop (i * c)).take c

end Sys2Proof.Machine
end

