-- ==== Sys2Proof/Machine/Cell.lean ====
section
/-!
DEFINITION. The cell of the array and its operand layouts: slots in weight mode and H1 mode, runs, and the layouts that engines read
(R170 to R172, R175, R177, R213, R214).
-/
namespace Sys2Proof.Machine

/-! ### One slot (R170, R171) -/

/-- The coefficient k of a plane bit (R170). -/
def planeGain (w b : Nat) (p : Bool) : Int :=
  if w = 1 then (if p then 1 else -1)
  else if b + 1 = w then (if p then -1 else 0)
  else (if p then 1 else 0)

/-- A valid slot of weight mode: acc + k x a x 2^b (R170). -/
def weightSlot (w : Nat) (a : Int) (acc : Int) (b : Nat) (p : Bool) : Int := acc + planeGain w b p * a * 2 ^ b

/-- The slots of one weight, planes 0 to n - 1 in ascending order (R170). -/
def weightSlots (w : Nat) (a : Int) (code : Nat) : Nat → Int → Int
  | 0, acc => acc
  | n + 1, acc => weightSlot w a (weightSlots w a code n acc) n (code.testBit n)

/-- A cell takes one weight of width w (R170). -/
def cellWeight (w : Nat) (a : Int) (acc : Int) (code : Nat) : Int := weightSlots w a code w acc

/-- A valid slot of H1 mode: acc + popcount(q xor s) (R171). -/
def sketchSlot (acc : Nat) (q s : BitVec 16) : Nat := acc + popcount (q ^^^ s)

/-- An accumulation run in weight mode over pairs of activation and weight code (R172, R213). -/
def weightRun (w : Nat) (l : List (Int × Nat)) : Int := l.foldl (fun acc p => cellWeight w p.1 acc p.2) 0

/-- An accumulation run in H1 mode over pairs of slices (R171, R207). -/
def sketchRun (l : List (BitVec 16 × BitVec 16)) : Nat := l.foldl (fun acc p => sketchSlot acc p.1 p.2) 0

/-! ### Layouts (R175) -/

/-- Two bytes as a signed number. -/
def s16At (l : List Byte) (o : Nat) : Int := (BitVec.ofNat 16 (leAt l o 2)).toInt

/-- Activation X[m][k] of row-group layout, as a byte offset. -/
def rowGroupAt (kdim m k : Nat) : Nat := ((m / 8 * kdim + k) * 8 + m % 8) * 2

/-- Weight code W[k][n] of plane layout: plane b is bit n mod 8 of byte (g x K + k) x w + b. -/
def planeCode (l : List Byte) (kdim w k n : Nat) : Nat :=
  (List.range w).foldl (fun v b =>
    v + (if (l.getD ((n / 8 * kdim + k) * w + b) 0).getLsbD (n % 8) then 2 ^ b else 0)) 0

/-- Slice t of sketch x in slice layout, as a byte offset. -/
def sliceAt (b t x : Nat) : Nat := ((x / 8 * (b / 16) + t) * 8 + x % 8) * 2

/-- The slices of sketch x. -/
def slicesOf (l : List Byte) (b x : Nat) : List (BitVec 16) := (List.range (b / 16)).map fun t => BitVec.ofNat 16 (leAt l (sliceAt b t x) 2)

/-! ### What a tile leaves in the array (R177, R179, R182) -/

/-- An accumulator that holds a sum, with the residue that the cell computed beside it. -/
def accOf (v : Int) : Acc := { value := BitVec.ofInt 40 v, residue := BitVec.ofNat 2 (v % 3).toNat }

/-- The check of a value's residue as it is copied to the drain register (R179, R194). -/
def residueGood (a : Acc) : Bool := (a.value.toInt % 3).toNat == a.residue.toNat

/-- The last tile of a descriptor, by row of the array and column of the tile: its sums, what the activation registers hold at its last
slot, and in H1 mode the queries of its rows. -/
structure Tile where
  acc : Nat → Nat → Int
  act : Nat → Nat
  query : Option (Nat → List (BitVec 16))

/-- A half of the array after its last slot of a tile that begins at column `col`: the accumulators have swapped, and the active ones
start at zero (R179). -/
def halfAfter (t : Tile) (col : Nat) (x : Half) : Half :=
  { x with
    acts := (List.range 32).map fun i => BitVec.ofNat 16 (t.act (i / 4))
    active := halfReset.active
    shadow := (List.range 32).map fun i => accOf (t.acc (i / 4) (col + i % 4))
    query := match t.query with
      | some q => (List.range 8).map q
      | none => x.query }

/-- The halves that a task holds have taken a descriptor's last tile; their lanes of the drain register fill (R179, R182). -/
def holdTile (t : Nat) (x : Tile) (m : Sys) : Sys :=
  match m.jobs.job with
  | none => m
  | some j => match (taskAt j t).phase with
    | .placed n => onCore n.toNat (fun c => (halvesOf c t).foldl (fun c h =>
        setLanes h true (onHalf h (halfAfter x (if (engineOf c (h / 2)).split then 0 else 4 * (h % 2))) c)) c) m
    | _ => m

/-! ### Products (R213, R214) -/

/-- The runs of a reduction: 65,536 products each, in ascending k (R172, R214). -/
def productRuns (w : Nat) (l : List (Int × Nat)) : List Int := (pieces 65536 l).map (weightRun w)

/-- The product of a token and a column with its scales: one rounding up to K = 65,536, and R214 beyond. -/
def productValue (key : RollKey) (w : Nat) (l : List (Int × Nat)) (sa sw : Nat) : F32 :=
  let s := fmul (scValue sa) (scValue sw)
  let value (acc : Int) := fmul (fracOf acc) s
  if l.length ≤ 65536 then rne32 (value (weightRun w l))
  else
    let accs := productRuns w l
    srTree key ((List.range accs.length).map fun i =>
      let v := value (accs.getD i 0)
      if fzero v then 0 else sr32 v (rollAt key i))

end Sys2Proof.Machine
end

