-- ==== Sys2Proof/Machine/ArrayOps.lean ====
section
/-!
DEFINITION. Descriptors that run on the engines: MATMUL, HAMMING, EW_ARRAY, and SKETCH of the vector unit (R233 to R239).
-/
namespace Sys2Proof.Machine

/-- Write pairs in groups of 8 rows: pair `i` of step `t` of group `g` at ((g x steps + t) x 8 + i) x 2; rows that exist only as
padding are never written (R175, R231). -/
def putGroups (ref : ORef) (rows steps : Nat) (pair : Nat → Nat → Nat) (r : Run) : Run :=
  (List.range (cquo rows 8)).foldl (fun r g =>
    (List.range steps).foldl (fun r t =>
      opWrite ref ((g * steps + t) * 16) ((List.range (min 8 (rows - 8 * g))).flatMap fun i => leBytes 2 (pair (8 * g + i) t)) r) r) r

/-- Two's-complement pair of an A16 code. -/
def codePair (q : Int) : Nat := (BitVec.ofInt 16 q).toNat

/-! ### MATMUL (R233 to R235) -/

/-- Operands of a MATMUL as read. -/
structure MatIn where
  x : List Byte
  sa : List Nat
  w : List Byte
  sw : List Nat
  bias : Option (List F32)
  z : Option (List F32)
deriving DecidableEq, Repr

/-- Read an optional binary32 operand. -/
def optF32 (d : Desc) (i n : Nat) (r : Run) : Option (List F32) × Run :=
  if operand d i = .none then (none, r)
  else
    let v := opF32 d i n r
    (some v.1, v.2)

/-- Read a MATMUL's operands. -/
def matRead (d : Desc) (m k n w : Nat) (r : Run) : MatIn × Run :=
  let x := opGroups d 0 m k r
  let sa := opScales d 1 m x.2
  let p := opGet d 2 (planeBytes k n w) sa.2
  let sw := opScales d 3 n p.2
  let b := optF32 d 4 n sw.2
  let z := optF32 d 5 (m * n) b.2
  ({ x := x.1, sa := sa.1, w := p.1, sw := sw.1, bias := b.1, z := z.1 }, z.2)

/-- One output element of a MATMUL in binary32 (R233). -/
def matElem (d : Desc) (key : RollKey) (k n w : Nat) (v : MatIn) (i j : Nat) : F32 :=
  let l := (List.range k).map fun t => (s16At v.x (rowGroupAt k i t), planeCode v.w k w t j)
  let y := productValue key w l (v.sa.getD i 0) (v.sw.getD j 0)
  let y := match v.bias with
    | some b => add32 y (b.getD j 0)
    | none => y
  let y := match (if d.kind = 0xFF then none else unary32 d.kind.toNat) with
    | some f => f y
    | none => y
  match v.z with
  | some z => add32 y (z.getD (i * n + j) 0)
  | none => y

/-- Convert rows to A16, counting each conversion (R210 to R212, R234). -/
def rowsToA16 (dim : Dim) (rows : List (List F32)) (r : Run) : List Conv × Run :=
  let l := rows.map toA16
  (l, (List.range l.length).foldl (fun r i =>
    match l[i]? with
    | some c => r.on (countConv c.passes c.saturated c.nonfinite (runOwner r dim i))
    | none => r) r)

/-- Bytes of an array of scales. -/
def scaleBytes (l : List Conv) : List Byte := l.flatMap fun c => leBytes 2 c.scale

/-- The last of `n` rows or columns taken `w` at a time: the first of its group. -/
def lastGroup (n w : Nat) : Nat := (n - 1) / w * w

/-- Columns of a tile: 8, or 4 in a half-engine (R174, R182). -/
def tileCols (d : Desc) : Nat := if d.half then 4 else 8

/-- The last tile of a MATMUL: the last run of its reduction (R172), with zero operands for padding (R174). -/
def matTile (d : Desc) (m k n w : Nat) (v : MatIn) : Tile :=
  let at_ := lastGroup k 65536
  let row (r : Nat) : Nat := lastGroup m 8 + r
  { acc := fun r c =>
      let j := lastGroup n (tileCols d) + c
      if m ≤ row r ∨ n ≤ j then 0
      else weightRun w ((span at_ (k - at_)).map fun t => (s16At v.x (rowGroupAt k (row r) t), planeCode v.w k w t j))
    act := fun r => if m ≤ row r ∨ k = 0 then 0 else leAt v.x (rowGroupAt k (row r) (k - 1)) 2
    query := none }

/-- MATMUL (R233, R234). -/
def matmulOp (d : Desc) (r : Run) : Run :=
  let m := runDim r d.dim0
  let k := runDim r d.dim1
  let n := runDim r d.dim2
  let w := d.fmt.toNat % 16
  let o := d.fmt.toNat / 16 % 4
  if m = 0 ∨ n = 0 then r
  else
    let v := matRead d m k n w r
    let r := v.2
    let rows := (List.range m).map fun i => (List.range n).map fun j => matElem d (rollKey r d i j n) k n w v.1 i j
    if r.failed then r
    else
    let r := r.on (holdTile r.task (matTile d m k n w v.1))
    if o = 0 then opPut d 6 (rows.flatMap f32Out) r
    else
      let c := rowsToA16 d.dim0 rows r
      let r := c.2
      if o = 1 then
        opWrite d.o6 (scalesAt (2 * m * n)) (scaleBytes c.1) (opPut d 6 (c.1.flatMap fun x => x.codes.flatMap fun q => leBytes 2 (codePair q)) r)
      else
        opPut d 7 (scaleBytes c.1)
          (putGroups d.o6 m n (fun i t => codePair (((c.1[i]?).bind fun x => x.codes[t]?).getD 0)) r)

/-- MATMUL (R233). -/
def execMatmul (task : BitVec 16) (d : Desc) (s : State) : Host.Outcome State Fault Refusal := done s (descRow 0x01 task d matmulOp)

/-! ### HAMMING (R237) -/

/-- The last tile of a HAMMING over slices of queries and sketches (R177). -/
def hamTile (d : Desc) (q s b : Nat) (x y : List Byte) : Tile :=
  let row (r : Nat) : Nat := lastGroup q 8 + r
  let slices (r : Nat) : List (BitVec 16) := if q ≤ row r then List.replicate (b / 16) 0 else slicesOf x b (row r)
  { acc := fun r c =>
      let j := lastGroup s (tileCols d) + c
      if q ≤ row r ∨ s ≤ j then 0 else sketchRun ((slices r).zip (slicesOf y b j))
    act := fun r => ((slices r).getLastD 0).toNat
    query := some slices }

/-- HAMMING (R207, R237). -/
def hammingOp (d : Desc) (r : Run) : Run :=
  let q := runDim r d.dim0
  let s := runDim r d.dim1
  let b := sketchBits (d.fmt.toNat % 4)
  if q = 0 ∨ s = 0 then r
  else
    let x := opGroups d 0 q (b / 16) r
    let y := opGroups d 2 s (b / 16) x.2
    let r := if y.2.failed then y.2 else y.2.on (holdTile y.2.task (hamTile d q s b x.1 y.1))
    opPut d 6 ((List.range q).flatMap fun i => (List.range s).flatMap fun j =>
      leBytes 4 (sketchRun ((slicesOf x.1 b i).zip (slicesOf y.1 b j)))) r

/-- HAMMING (R237). -/
def execHamming (task : BitVec 16) (d : Desc) (s : State) : Host.Outcome State Fault Refusal := done s (descRow 0x02 task d hammingOp)

/-! ### EW_ARRAY (R239) -/

/-- Weight code of EW_ARRAY: plane b of W[k] is bit 0 of byte k x w + b. -/
def ewCode (l : List Byte) (w k : Nat) : Nat :=
  (List.range w).foldl (fun v b => v + (if (l.getD (k * w + b) 0).getLsbD 0 then 2 ^ b else 0)) 0

/-- The last tile of an EW_ARRAY: its last `k` on the diagonal cells (R181). -/
def ewTile (m k w : Nat) (x p : List Byte) : Tile :=
  let row (r : Nat) : Nat := lastGroup m 8 + r
  { acc := fun r c => if r ≠ c ∨ m ≤ row r then 0 else cellWeight w (s16At x (rowGroupAt k (row r) (k - 1))) 0 (ewCode p w (k - 1))
    act := fun r => if m ≤ row r then 0 else leAt x (rowGroupAt k (row r) (k - 1)) 2
    query := none }

/-- EW_ARRAY (R239). -/
def ewArrayOp (d : Desc) (r : Run) : Run :=
  let m := runDim r d.dim0
  let k := runDim r d.dim1
  let w := d.fmt.toNat % 16
  if m = 0 ∨ k = 0 then r
  else
    let x := opGroups d 0 m k r
    let sa := opScales d 1 m x.2
    let p := opGet d 2 (k * w) sa.2
    let sw := opScales d 3 1 p.2
    let r := if sw.2.failed then sw.2 else sw.2.on (holdTile sw.2.task (ewTile m k w x.1 p.1))
    opPut d 6 ((List.range m).flatMap fun i => (List.range k).flatMap fun t =>
      f32Bytes (rne32 (fmul (fracOf (cellWeight w (s16At x.1 (rowGroupAt k i t)) 0 (ewCode p.1 w t)))
        (fmul (scValue (sa.1.getD i 0)) (scValue (sw.1.getD 0 0)))))) r

/-- EW_ARRAY (R239). -/
def execEwArray (task : BitVec 16) (d : Desc) (s : State) : Host.Outcome State Fault Refusal := done s (descRow 0x03 task d ewArrayOp)

/-! ### SKETCH (R238) -/

/-- The sketch of one row: bit i is 1 exactly when V[i] > t[i] (R238). -/
def sketchRow (v t : List F32) : List Byte := bitBytes ((List.range v.length).map fun i => gt32 (v.getD i 0) (t.getD i 0))

/-- SKETCH (R238). -/
def sketchOp (d : Desc) (r : Run) : Run :=
  let m := runDim r d.dim0
  let b := sketchBits (d.fmt.toNat % 4)
  if m = 0 then r
  else
    let v := opF32 d 0 (m * b) r
    let t := optF32 d 1 b v.2
    let l := (rowsOf m b v.1).map fun row => sketchRow row (t.1.getD [])
    if t.2.failed then t.2
    else if d.kind = 0 then opPut d 6 l.flatten t.2
    else putGroups d.o6 m (b / 16) (fun i s => leAt (l.getD i []) (2 * s) 2) t.2

/-- SKETCH (R238). -/
def execSketch (task : BitVec 16) (d : Desc) (s : State) : Host.Outcome State Fault Refusal := done s (descRow 0x04 task d sketchOp)

end Sys2Proof.Machine
end

