-- ==== Sys2Proof/Machine/VectorOps.lean ====
section
/-!
DEFINITION. Descriptors of the vector unit: EW, NORM, SOFTMAX, REDUCE and CONVERT (R240 to R246).
-/
namespace Sys2Proof.Machine

/-! ### EW (R240, R241) -/

/-- Element (i, j) of an operand in one of the four forms of R240, over `c` columns. -/
def formAt (form c i j : Nat) (l : List F32) : F32 :=
  l.getD (if form = 0 then i * c + j else if form = 1 then j else if form = 2 then i else 0) 0

/-- EW (R240). -/
def ewOp (d : Desc) (r : Run) : Run :=
  let n := runDim r d.dim0
  let c := runDim r d.dim1
  let fb := d.fmt.toNat % 4
  let fc := d.fmt.toNat / 4 % 4
  if n * c = 0 then r
  else
    let a := opF32 d 0 (n * c) r
    let b := optF32 d 1 (formCount fb n c) a.2
    let x := optF32 d 2 (formCount fc n c) b.2
    opPut d 6 ((List.range n).flatMap fun i => (List.range c).flatMap fun j =>
      f32Bytes (ew32 d.kind.toNat (a.1.getD (i * c + j) 0) (formAt fb c i j (b.1.getD [])) (formAt fc c i j (x.1.getD [])))) x.2

/-- EW (R240). -/
def execEw (task : BitVec 16) (d : Desc) (s : State) : Host.Outcome State Fault Refusal := done s (descRow 0x10 task d ewOp)

/-! ### NORM (R243) -/

/-- A row under RMS normalisation (R243). -/
def normRms (eps : F32) (g x : List F32) : List F32 :=
  let s := sum32 (x.map fun v => mul32 v v)
  let r := rsqrt32 (add32 (div32 s (ofInt32 x.length)) eps)
  (x.zip g).map fun p => mul32 (mul32 p.1 r) p.2

/-- A row under layer normalisation (R243). -/
def normLayer (eps : F32) (g h x : List F32) : List F32 :=
  let c := ofInt32 x.length
  let mu := div32 (sum32 x) c
  let dv := x.map fun v => sub32 v mu
  let v := div32 (sum32 (dv.map fun e => mul32 e e)) c
  let r := rsqrt32 (add32 v eps)
  ((dv.zip g).zip h).map fun p => add32 (mul32 (mul32 p.1.1 r) p.1.2) p.2

/-- NORM (R243). -/
def normOp (d : Desc) (r : Run) : Run :=
  let n := runDim r d.dim0
  let c := runDim r d.dim1
  let eps : F32 := BitVec.ofNat 32 (dpar d 104 4)
  if n = 0 then r
  else
    let x := opF32 d 0 (n * c) r
    let g := opF32 d 1 c x.2
    let h := optF32 d 2 c g.2
    opPut d 6 ((rowsOf n c x.1).flatMap fun row =>
      f32Out (if d.kind = 0 then normRms eps g.1 row else normLayer eps g.1 (h.1.getD []) row)) h.2

/-- NORM (R243). -/
def execNorm (task : BitVec 16) (d : Desc) (s : State) : Host.Outcome State Fault Refusal := done s (descRow 0x11 task d normOp)

/-! ### SOFTMAX (R244) -/

/-- A row under softmax; `mask` says which elements are masked (R244). -/
def softmaxRow (t : F32) (mask : Nat → Bool) (x : List F32) : List F32 :=
  let z := (List.range x.length).map fun i => if mask i then negInf32 else mul32 (x.getD i 0) t
  let m := z.foldl max32 negInf32
  if m = negInf32 then x.map fun _ => 0
  else
    let e := z.map fun v => exp32 (sub32 v m)
    let s := sum32 e
    e.map fun v => div32 v s

/-- SOFTMAX (R244). -/
def softmaxOp (d : Desc) (r : Run) : Run :=
  let n := runDim r d.dim0
  let c := runDim r d.dim1
  let t : F32 := BitVec.ofNat 32 (dpar d 104 4)
  let off : Int := (BitVec.ofNat 32 (dpar d 108 4)).toInt
  if n = 0 then r
  else
    let x := opF32 d 0 (n * c) r
    let k := if d.kind = 0 then opGet d 1 (n * c) x.2 else ([], x.2)
    let rows := rowsOf n c x.1
    opPut d 6 ((List.range n).flatMap fun i =>
      f32Out (softmaxRow t (fun j => if d.kind = 0 then k.1.getD (i * c + j) 0 == 0 else decide ((i : Int) + off < j))
        (rows.getD i []))) k.2

/-- SOFTMAX (R244). -/
def execSoftmax (task : BitVec 16) (d : Desc) (s : State) : Host.Outcome State Fault Refusal := done s (descRow 0x12 task d softmaxOp)

/-! ### REDUCE (R245) -/

/-- The index of the first element whose bits equal the extreme, or of the first NaN (R245). -/
def argIndex (extreme : F32) (x : List F32) : Nat :=
  match indexOf? isNan x with
  | some i => i
  | none => (indexOf? (· == extreme) x).getD 0xFFFFFFFF

/-- MAX over a row: −infinity for an empty one (R245). -/
def maxRow (x : List F32) : F32 := match x with
  | [] => negInf32
  | a :: t => t.foldl max32 (if isNan a then nan32 else a)
/-- MIN over a row: +infinity for an empty one (R245). -/
def minRow (x : List F32) : F32 := match x with
  | [] => inf32
  | a :: t => t.foldl min32 (if isNan a then nan32 else a)

/-- One row's result as 32 bits (R245). -/
def reduceRow (kind : Nat) (key : RollKey) (x : List F32) : BitVec 32 :=
  if kind = 0 then longSum32 key x
  else if kind = 1 then longSum32 key (x.map fun v => mul32 v v)
  else if kind = 2 then maxRow x
  else if kind = 3 then minRow x
  else if kind = 4 then (if x.isEmpty then 0xFFFFFFFF else BitVec.ofNat 32 (argIndex (maxRow x) x))
  else if kind = 5 then (if x.isEmpty then 0xFFFFFFFF else BitVec.ofNat 32 (argIndex (minRow x) x))
  else BitVec.ofNat 32 (x.filter fun v => !isZero32 v).length

/-- REDUCE (R245). -/
def reduceOp (d : Desc) (r : Run) : Run :=
  let n := runDim r d.dim0
  let c := runDim r d.dim1
  if n = 0 then r
  else
    let x := opF32 d 0 (n * c) r
    let rows := rowsOf n c x.1
    opPut d 6 ((List.range n).flatMap fun i => f32Bytes (reduceRow d.kind.toNat (rollKey r d i 0 1) (rows.getD i []))) x.2

/-- REDUCE (R245). -/
def execReduce (task : BitVec 16) (d : Desc) (s : State) : Host.Outcome State Fault Refusal := done s (descRow 0x13 task d reduceOp)

/-! ### CONVERT (R246) -/

/-- X48 elements of a byte string. -/
def x48List (n : Nat) (l : List Byte) : List (BitVec 48) := (List.range n).map fun i => BitVec.ofNat 48 (leAt l (6 * i) 6)
/-- Bytes of X48 elements. -/
def x48Out (l : List (BitVec 48)) : List Byte := l.flatMap fun v => leBytes 6 v.toNat

/-- TO_A16. -/
def convToA16 (d : Desc) (n c : Nat) (r : Run) : Run :=
  let x := opF32 d 0 (n * c) r
  if x.2.failed then x.2
  else
    let v := rowsToA16 d.dim0 (rowsOf n c x.1) x.2
    opPut d 7 (scaleBytes v.1) (opPut d 6 (v.1.flatMap fun e => e.codes.flatMap fun q => leBytes 2 (codePair q)) v.2)

/-- FROM_A16: rne32(a x s_a). -/
def convFromA16 (d : Desc) (n c : Nat) (r : Run) : Run :=
  let x := opGet d 0 (2 * (n * c)) r
  let s := opScales d 1 n x.2
  opPut d 6 ((List.range n).flatMap fun i => (List.range c).flatMap fun j =>
    f32Bytes (rne32 (fmul (fracOf (s16At x.1 (2 * (i * c + j)))) (scValue (s.1.getD i 0))))) s.2

/-- Columns of an n x c array. -/
def columnsOf {α : Type} (dflt : α) (n c : Nat) (l : List α) : List (List α) :=
  (List.range c).map fun j => (List.range n).map fun i => l.getD (i * c + j) dflt

/-- NARROW: each column under R225, rows packed (R206). -/
def convNarrow (d : Desc) (n c : Nat) (r : Run) : Run :=
  let w := d.fmt.toNat % 16
  let x48 := d.fmt.getLsbD 4
  let x := opGet d 0 ((if x48 then 6 else 4) * (n * c)) r
  if x.2.failed then x.2
  else
    let vals := if x48 then (x48List (n * c) x.1).map nv48 else (f32List x.1).map nv32
    let cols := (columnsOf (.fin (fracOf 0)) n c vals).map (narrowCol w)
    let r := cols.foldl (fun (r : Run) v => r.on (countConv 0 v.saturated v.nonfinite none)) x.2
    opPut d 7 (cols.flatMap fun v => leBytes 2 v.scale)
      (opPut d 6 ((List.range n).flatMap fun i => packRow w (cols.map fun v => v.codes.getD i 0)) r)

/-- WIDEN: rne32(W x s_w). -/
def convWiden (d : Desc) (n c : Nat) (r : Run) : Run :=
  let w := d.fmt.toNat % 16
  let x := opGet d 0 (n * rowBytes c w) r
  let s := opScales d 1 c x.2
  opPut d 6 ((List.range n).flatMap fun i =>
    let q := unpackRow w c (bytesAt x.1 (i * rowBytes c w) (rowBytes c w))
    (List.range c).flatMap fun j => f32Bytes (rne32 (fmul (fracOf (q.getD j 0)) (scValue (s.1.getD j 0))))) s.2

/-- CONVERT (R246). -/
def convertOp (d : Desc) (r : Run) : Run :=
  let n := runDim r d.dim0
  let c := runDim r d.dim1
  let e := n * c
  let k := d.kind.toNat
  if e = 0 then r
  else if k = 0 then convToA16 d n c r
  else if k = 1 then convFromA16 d n c r
  else if k = 2 then convNarrow d n c r
  else if k = 3 then convWiden d n c r
  else if k = 4 then
    let x := opF32 d 0 e r
    opPut d 6 (x48Out (x.1.map toX48)) x.2
  else if k = 5 then
    let x := opGet d 0 (6 * e) r
    opPut d 6 (f32Out ((x48List e x.1).map ofX48)) x.2
  else
    let x := opGet d 0 (6 * e) r
    let u := opF32 d 1 e x.2
    opPut d 6 (x48Out (((x48List e x.1).zip u.1).map fun p => masterUpdate p.1 p.2)) u.2

/-- CONVERT (R246). -/
def execConvert (task : BitVec 16) (d : Desc) (s : State) : Host.Outcome State Fault Refusal := done s (descRow 0x14 task d convertOp)

end Sys2Proof.Machine
end

