-- ==== Sys2Proof/Machine/SelectOps.lean ====
section
/-!
DEFINITION. Selection: entries and their order, the bitonic network, TOPK and SELECT (R250 to R257).
-/
namespace Sys2Proof.Machine

/-! ### Entries (R250, R251) -/

/-- An entry (R250). -/
structure Entry16 where
  score : BitVec 32
  payload : BitVec 32
  object : Word
deriving DecidableEq, Repr

/-- The object number that marks no entry. -/
def noObject : Word := 0xFFFFFFFFFFFFFFFF
/-- An entry that is none. -/
def noEntry : Entry16 := { score := 0, payload := 0xFFFFFFFF, object := noObject }

/-- Read an entry of 16 bytes. -/
def readEntry (l : List Byte) (o : Nat) : Entry16 :=
  { score := BitVec.ofNat 32 (leAt l o 4), payload := BitVec.ofNat 32 (leAt l (o + 4) 4), object := BitVec.ofNat 64 (leAt l (o + 8) 8) }

/-- Bytes of an entry. -/
def entryBytes (e : Entry16) : List Byte := leBytes 4 e.score.toNat ++ leBytes 4 e.payload.toNat ++ leBytes 8 e.object.toNat

/-- The score of a binary32 kind is NaN. -/
def nanEntry (kind : Nat) (e : Entry16) : Bool := kind != 0 && e.object != noObject && isNan e.score

/-- A valid entry (R250). -/
def entryValid (kind : Nat) (e : Entry16) : Bool := e.object != noObject && !(kind != 0 && isNan e.score)

/-- The sort key (R250); of an entry that is not valid, 0. -/
def entryKey (kind : Nat) (e : Entry16) : BitVec 32 :=
  if !entryValid kind e then 0
  else if kind = 0 then e.score
  else
    let k := if e.score.getLsbD 31 then ~~~e.score else e.score ^^^ 0x80000000
    if kind = 1 then k else ~~~k

/-- Entry a is better than entry b (R251). -/
def better (kind : Nat) (a b : Entry16) : Bool :=
  let va := entryValid kind a
  let vb := entryValid kind b
  let ka := entryKey kind a
  let kb := entryKey kind b
  (va && !vb) ||
    (va == vb &&
      (decide (ka < kb) ||
        (ka == kb && (decide (a.object < b.object) || (a.object == b.object && decide (a.payload < b.payload))))))

/-! ### The network (R252, R253) -/

/-- One stage of compare-exchanges at a stride: the better of a pair goes to the lower position where `up` of that position, and to
the higher one otherwise (R252). -/
def cmpStage (kind stride : Nat) (up : Nat → Bool) (l : List Entry16) : List Entry16 :=
  (List.range l.length).map fun i =>
    let lo := min i (i ^^^ stride)
    let hi := max i (i ^^^ stride)
    let x := l.getD lo noEntry
    let y := l.getD hi noEntry
    let first := if up lo then !better kind y x else better kind y x
    if decide (i = lo) == first then x else y

/-- The strides size/2, size/4, ..., 1 of a size 2^s. -/
def strides (s : Nat) : List Nat := ((List.range s).map fun i => 2 ^ i).reverse

/-- sort(e, P) with P = 2^l (R253). -/
def netSort (kind l : Nat) (e : List Entry16) : List Entry16 :=
  (List.range l).foldl (fun e s =>
    (strides (s + 1)).foldl (fun e d => cmpStage kind d (fun i => i &&& 2 ^ (s + 1) == 0) e) e) e

/-- merge(A, B) with P = 2^l (R253). -/
def netMerge (kind l : Nat) (a b : List Entry16) : List Entry16 :=
  let c := (List.range (2 ^ l)).map fun i =>
    let x := a.getD i noEntry
    let y := b.getD (2 ^ l - 1 - i) noEntry
    if better kind y x then y else x
  (strides l).foldl (fun c d => cmpStage kind d (fun _ => true) c) c

/-- The network's result: the P best entries, best first (R253). -/
def netBest (kind k : Nat) (e : List Entry16) : List Entry16 :=
  let p := netWidth k
  let l := Nat.log2 p
  let blocks := (pieces p e).map fun b => netSort kind l (b ++ List.replicate (p - b.length) noEntry)
  match blocks with
  | [] => List.replicate p noEntry
  | b :: t => t.foldl (netMerge kind l) b

/-! ### Output (R254, R257) -/

/-- A selection's result before it is laid out. -/
structure Picked where
  entries : List (Entry16 × List Byte)
  valid : Int
  tied : Int
deriving DecidableEq, Repr

/-- A 32-bit count, or a free value where the sum leaves the field (log entry 2). -/
def count32 (v : Int) (r : Run) : Nat × Run :=
  if 0 ≤ v ∧ v < 2 ^ 32 then (v.toNat, r)
  else
    let d := draw r.sys
    (d.1.toNat % 2 ^ 32, { r with sys := d.2 })

/-- The header of R254. -/
def listHeader (count valid tied k rowlen kind : Nat) : List Byte :=
  leBytes 4 count ++ leBytes 4 valid ++ leBytes 4 tied ++ leBytes 4 k ++ leBytes 4 rowlen ++ leBytes 1 kind ++ zeros 11

/-- The pieces of a result: (offset, bytes) in the layout of R254. -/
def listPieces (header : List Byte) (k rowlen : Nat) (l : List (Entry16 × List Byte)) : List (Nat × List Byte) :=
  (0, header) :: ((List.range l.length).flatMap fun j =>
    match l[j]? with
    | some e => (32 + 16 * j, entryBytes e.1) :: (if rowlen = 0 then [] else [(32 + 16 * k + rowlen * j, e.2)])
    | none => [])

/-- A result as one byte string with zeros in the slots from COUNT on, as a rank sends it (log entry 19). -/
def listImage (header : List Byte) (k rowlen : Nat) (l : List (Entry16 × List Byte)) : List Byte :=
  (listPieces header k rowlen l).foldl (fun b p => putBytes b p.1 p.2) (zeros (listBytes k rowlen))

/-- Write a result in the layout of R254; slots from COUNT on are not written (R231). -/
def putList (ref : ORef) (k rowlen kind : Nat) (x : Picked) (r : Run) : Run :=
  if r.failed then r
  else
    let v := count32 x.valid r
    let t := count32 x.tied v.2
    (listPieces (listHeader x.entries.length v.1 t.1 k rowlen kind) k rowlen x.entries).foldl (fun r p => opWrite ref p.1 p.2 r) t.2

/-- Count NaN scores (R250). -/
def countNan (kind : Nat) (l : List Entry16) : Sys → Sys :=
  onJobs fun x => { x with nanScore := satAdd x.nanScore (l.filter (nanEntry kind)).length }

/-- Count indices out of range (R247). -/
def countRange (n : Nat) : Sys → Sys := onJobs fun x => { x with indexRange := satAdd x.indexRange n }

/-! ### TOPK (R253, R254) -/

/-- The payload row of an entry: zeros for none or for a row out of range, which is counted (R247, R254). -/
def payloadOf (d : Desc) (rowlen rows : Nat) (e : Entry16) (r : Run) : List Byte × Run :=
  if rowlen = 0 then ([], r)
  else if e.payload = 0xFFFFFFFF then (zeros rowlen, r)
  else if rows ≤ e.payload.toNat then (zeros rowlen, r.on (countRange 1))
  else opRead d.o2 (e.payload.toNat * rowlen) rowlen r

/-- Gather a list of payload rows in order. -/
def payloadsOf (d : Desc) (rowlen rows : Nat) (l : List Entry16) (r : Run) : List (Entry16 × List Byte) × Run :=
  l.foldl (fun (acc : List (Entry16 × List Byte) × Run) e =>
    let v := payloadOf d rowlen rows e acc.2
    (acc.1 ++ [(e, v.1)], v.2)) ([], r)

/-- Entries whose key equals that of the last one of `got`. -/
def tiedWith (kind : Nat) (got l : List Entry16) : Nat :=
  match got.getLast? with
  | some e => (l.filter fun x => entryValid kind x && entryKey kind x == entryKey kind e).length
  | none => 0

/-- TOPK (R253, R254). -/
def topkOp (d : Desc) (r : Run) : Run :=
  let n := runDim r d.dim0
  let k := runDim r d.dim1
  let rowlen := runDim r d.dim2
  let rows := runDim r d.dim3
  let kind := d.kind.toNat
  let x := opGet d 0 (16 * n) r
  let all := (List.range n).map fun i => readEntry x.1 (16 * i)
  let valid := (all.filter (entryValid kind)).length
  let got := (netBest kind k all).take (min k valid)
  let r := x.2.on (countNan kind all)
  let p := payloadsOf d rowlen rows got r
  putList d.o6 k rowlen kind { entries := p.1, valid, tied := tiedWith kind got all - tiedWith kind got got } p.2

/-- TOPK (R253). -/
def execTopk (task : BitVec 16) (d : Desc) (s : State) : Host.Outcome State Fault Refusal := done s (descRow 0x30 task d topkOp)

/-! ### SELECT (R256, R257) -/

/-- One input of a SELECT as read: its entries with their rows, VALID and TIED_OUT. -/
structure SelIn where
  entries : List (Entry16 × List Byte)
  valid : Nat
  tied : Nat
deriving DecidableEq, Repr

/-- An input as it lies in a byte string of R254's layout. -/
def readList (k rowlen : Nat) (l : List Byte) : SelIn :=
  let n := min (leAt l 0 4) k
  { entries := (List.range n).map fun j => (readEntry l (32 + 16 * j), bytesAt l (32 + 16 * k + rowlen * j) rowlen)
    valid := leAt l 4 4, tied := leAt l 8 4 }

/-- Read one input of a SELECT: COUNT, VALID, TIED_OUT, then its first entries and their rows (R256). -/
def readInput (ref : ORef) (k rowlen : Nat) (r : Run) : SelIn × Run :=
  let h := opRead ref 0 12 r
  let n := min (leAt h.1 0 4) k
  let e := opRead ref 32 (16 * n) h.2
  let p := if rowlen = 0 then ([], e.2) else opRead ref (32 + 16 * k) (rowlen * n) e.2
  ({ entries := (List.range n).map fun j => (readEntry e.1 (16 * j), bytesAt p.1 (rowlen * j) rowlen)
     valid := leAt h.1 4 4, tied := leAt h.1 8 4 }, p.2)

/-- Keep the best entry of each object (R256). -/
def dedupe {α : Type} (kind : Nat) : List (Entry16 × α) → List (Entry16 × α)
  | [] => []
  | x :: t =>
    let rest := dedupe kind t
    match rest.find? fun y => y.1.object == x.1.object with
    | none => x :: rest
    | some y => if better kind y.1 x.1 then rest else x :: rest.filter fun z => z.1.object != x.1.object

/-- The join of selection lists (R256, R257). Entries that are not valid rank last. -/
def joinLists (kind k : Nat) (l : List SelIn) : Picked :=
  let all := l.flatMap (·.entries)
  let union := dedupe kind all
  let got := (sortBy (fun a b => better kind a.1 b.1) union).take k
  let lastKey := got.getLast?.map fun e => entryKey kind e.1
  let atKey (x : List (Entry16 × List Byte)) : Nat := (x.filter fun e => some (entryKey kind e.1) == lastKey).length
  { entries := got
    valid := ((l.foldl (fun n x => n + x.valid) 0 : Nat) : Int) - (all.length - union.length : Nat)
    tied := (atKey union : Int) +
      ((l.foldl (fun n x => n + (match x.entries.getLast? with
        | some e => if some (entryKey kind e.1) = lastKey then x.tied else 0
        | none => 0)) 0 : Nat) : Int) - atKey got }

/-- The references of a SELECT's input list. -/
def selectRefs (r : Run) (d : Desc) (i : Nat) : List ORef :=
  match r.sys.jobs.job with
  | some j => (selectInputs j.plan.params d i).getD []
  | none => []

/-- Read every input of a SELECT in order. -/
def readInputs (refs : List ORef) (k rowlen : Nat) (r : Run) : List SelIn × Run :=
  refs.foldl (fun (acc : List SelIn × Run) ref =>
    let v := readInput ref k rowlen acc.2
    (acc.1 ++ [v.1], v.2)) ([], r)

/-- A SELECT over local inputs (R256, R257). -/
def selectOp (d : Desc) (r : Run) : Run :=
  let k := runDim r d.dim1
  let rowlen := runDim r d.dim2
  let kind := d.kind.toNat
  let v := readInputs (selectRefs r d (runDim r d.dim0)) k rowlen r
  putList d.o6 k rowlen kind (joinLists kind k v.1)
    (v.2.on (countNan kind (v.1.flatMap fun x => x.entries.map (·.1))))

end Sys2Proof.Machine
end

