-- ==== Sys2Proof/Machine/MoveOps.lean ====
section
/-!
DEFINITION. Descriptors of the gather/scatter unit: MOVE, GATHER, SCATTER, SCATTER_ADD, RELAYOUT and TRANSPOSE (R247 to R249).
-/
namespace Sys2Proof.Machine

/-- Go on only while no read has failed. -/
def goOn (f : Run → Run) (r : Run) : Run := if !r.failed then f r else r

/-- MOVE (R247). -/
def moveDescOp (d : Desc) (r : Run) : Run :=
  let n := runDim r d.dim0
  if n = 0 then r
  else
    let x := opGet d 0 n r
    opPut d 6 x.1 x.2

/-- MOVE (R247). -/
def execMove (task : BitVec 16) (d : Desc) (s : State) : Host.Outcome State Fault Refusal := done s (descRow 0x20 task d moveDescOp)

/-- The E indices of a gather or scatter. -/
def indicesOf (d : Desc) (e : Nat) (r : Run) : List Nat × Run :=
  let x := opGet d 1 (4 * e) r
  ((List.range e).map fun i => leAt x.1 (4 * i) 4, x.2)

/-- GATHER: destination row i = source row idx[i]; zeros for an index out of range (R247). -/
def gatherOp (d : Desc) (r : Run) : Run :=
  let e := runDim r d.dim0
  let n := runDim r d.dim1
  let rows := runDim r d.dim2
  if e = 0 then r
  else
    let x := indicesOf d e r
    (List.range e).foldl (fun r i =>
      goOn (fun r =>
        let k := x.1.getD i 0
        if k < rows then
          let v := opRead d.o0 (k * n) n r
          goOn (opWrite d.o6 (i * n) v.1) v.2
        else opWrite d.o6 (i * n) (zeros n) (r.on (countRange 1))) r) x.2

/-- GATHER (R247). -/
def execGather (task : BitVec 16) (d : Desc) (s : State) : Host.Outcome State Fault Refusal := done s (descRow 0x21 task d gatherOp)

/-- SCATTER and SCATTER_ADD: rows in ascending order of i; an index out of range drops its row (R247). An indexed tensor of no rows is an
output of no elements (R230). -/
def scatterWith (combine : List Byte → List Byte → List Byte) (add : Bool) (d : Desc) (r : Run) : Run :=
  let e := runDim r d.dim0
  let n := runDim r d.dim1
  let rows := runDim r d.dim2
  if e = 0 ∨ rows = 0 then r
  else
    let x := indicesOf d e r
    (List.range e).foldl (fun r i =>
      goOn (fun r =>
        let k := x.1.getD i 0
        if k < rows then
          let v := opRead d.o0 (i * n) n r
          let old := if add then opRead d.o6 (k * n) n v.2 else ([], v.2)
          goOn (opWrite d.o6 (k * n) (combine old.1 v.1)) old.2
        else r.on (countRange 1)) r) x.2

/-- SCATTER (R247). -/
def scatterOp (d : Desc) (r : Run) : Run := scatterWith (fun _ new => new) false d r
/-- SCATTER (R247). -/
def execScatter (task : BitVec 16) (d : Desc) (s : State) : Host.Outcome State Fault Refusal := done s (descRow 0x22 task d scatterOp)

/-- Element-wise binary32 sum of two rows. -/
def addRows (old new : List Byte) : List Byte := f32Out (((f32List old).zip (f32List new)).map fun p => add32 p.1 p.2)

/-- SCATTER_ADD (R247). -/
def scatterAddOp (d : Desc) (r : Run) : Run := scatterWith addRows true d r
/-- SCATTER_ADD (R247). -/
def execScatterAdd (task : BitVec 16) (d : Desc) (s : State) : Host.Outcome State Fault Refusal := done s (descRow 0x23 task d scatterAddOp)

/-! ### RELAYOUT (R248) -/

/-- Row-group layout of a row-major array of pairs, padded with zero rows. -/
def toRowGroups (rows cols : Nat) (l : List Byte) : List Byte :=
  (List.range (cquo rows 8)).flatMap fun h => (List.range cols).flatMap fun k => (List.range 8).flatMap fun i =>
    if 8 * h + i < rows then bytesAt l (2 * ((8 * h + i) * cols + k)) 2 else zeros 2

/-- Row-major array of the pairs of a row-group layout. -/
def ofRowGroups (rows cols : Nat) (l : List Byte) : List Byte :=
  (List.range rows).flatMap fun m => (List.range cols).flatMap fun k => bytesAt l (rowGroupAt cols m k) 2

/-- Plane layout of packed rows, padded with columns of plane bits 0. -/
def toPlanes (kdim n w : Nat) (l : List Byte) : List Byte :=
  let rows := (List.range kdim).map fun k => leNat (bytesAt l (k * rowBytes n w) (rowBytes n w))
  (List.range (cquo n 8)).flatMap fun g => (List.range kdim).flatMap fun k => (List.range w).map fun b =>
    BitVec.ofNat 8 ((List.range 8).foldl (fun v j =>
      v + (if 8 * g + j < n ∧ (rows.getD k 0).testBit (w * (8 * g + j) + b) = true then 2 ^ j else 0)) 0)

/-- Packed rows of a plane layout. -/
def ofPlanes (kdim n w : Nat) (l : List Byte) : List Byte :=
  (List.range kdim).flatMap fun k =>
    leBytes (rowBytes n w) ((List.range n).foldl (fun v j => v + planeCode l kdim w k j * 2 ^ (w * j)) 0)

/-- Slice layout of packed sketches, padded with zero sketches. -/
def toSlices (n b : Nat) (l : List Byte) : List Byte :=
  (List.range (cquo n 8)).flatMap fun g => (List.range (b / 16)).flatMap fun t => (List.range 8).flatMap fun j =>
    if 8 * g + j < n then bytesAt l ((8 * g + j) * (b / 8) + 2 * t) 2 else zeros 2

/-- Packed sketches of a slice layout. -/
def ofSlices (n b : Nat) (l : List Byte) : List Byte :=
  (List.range n).flatMap fun x => (List.range (b / 16)).flatMap fun t => bytesAt l (sliceAt b t x) 2

/-- Read a layout and its scales, and write both in the other layout. -/
def relayTwo (d : Desc) (x : List Byte × Run) (scales : Nat) (f : List Byte → List Byte) (outScales : Nat) : Run :=
  let s := opScales d 1 scales x.2
  opPut d 7 (fitBytes (2 * outScales) (s.1.flatMap (leBytes 2))) (opPut d 6 (f x.1) s.2)

/-- RELAYOUT (R248). -/
def relayoutOp (d : Desc) (r : Run) : Run :=
  let n := runDim r d.dim0
  let c := runDim r d.dim1
  let k := d.kind.toNat
  let w := d.fmt.toNat % 16
  let b := sketchBits (d.fmt.toNat % 4)
  if n = 0 ∨ (k < 4 ∧ c = 0) then r
  else if k = 0 then relayTwo d (opGet d 0 (2 * n * c) r) n (toRowGroups n c) (cquo n 8 * 8)
  else if k = 1 then relayTwo d (opGroups d 0 n c r) n (ofRowGroups n c) n
  else if k = 2 then relayTwo d (opGet d 0 (n * rowBytes c w) r) c (toPlanes n c w) (cquo c 8 * 8)
  else if k = 3 then relayTwo d (opGet d 0 (planeBytes n c w) r) c (ofPlanes n c w) c
  else if k = 4 then
    let x := opGet d 0 (n * (b / 8)) r
    opPut d 6 (toSlices n b x.1) x.2
  else
    let x := opGroups d 0 n (b / 16) r
    opPut d 6 (ofSlices n b x.1) x.2

/-- RELAYOUT (R248). -/
def execRelayout (task : BitVec 16) (d : Desc) (s : State) : Host.Outcome State Fault Refusal := done s (descRow 0x24 task d relayoutOp)

/-! ### TRANSPOSE (R249) -/

/-- TRANSPOSE: dst[c][r] = src[r][c] (R249). The bytes are the same by either unit. -/
def transposeOp (d : Desc) (r : Run) : Run :=
  let n := runDim r d.dim0
  let c := runDim r d.dim1
  let ss := runDim r d.dim2
  let ds := runDim r d.dim3
  let z := d.fmt.toNat
  if n = 0 ∨ c = 0 then r
  else
    let x := (List.range n).foldl (fun (acc : List (List Byte) × Run) i =>
      let v := opRead d.o0 (i * ss) (c * z) acc.2
      (acc.1 ++ [v.1], v.2)) ([], r)
    (List.range c).foldl (fun r j =>
      goOn (opWrite d.o6 (j * ds) (x.1.flatMap fun row => bytesAt row (j * z) z)) r) x.2

/-- TRANSPOSE (R249). -/
def execTranspose (task : BitVec 16) (d : Desc) (s : State) : Host.Outcome State Fault Refusal := done s (descRow 0x25 task d transposeOp)

end Sys2Proof.Machine
end

