-- ==== Sys2Proof/Machine/FilterOps.lean ====
section
/-!
DEFINITION. Record filters and scans: terms, FILTER and SCAN (R265 to R269).
-/
namespace Sys2Proof.Machine

/-! ### Terms (R266, R267) -/

/-- The outcome of a comparison: less, equal, greater; all false when unordered. -/
structure Cmp where
  lt : Bool
  eq : Bool
  gt : Bool
deriving DecidableEq, Repr

/-- Comparison of integers. -/
def cmpInt (a b : Int) : Cmp := { lt := decide (a < b), eq := decide (a = b), gt := decide (b < a) }
/-- Comparison of binary32 values under IEEE 754. -/
def cmpF32 (a b : F32) : Cmp := { lt := gt32 b a, eq := eq32 a b, gt := gt32 a b }

/-- A relation code from EQ to GE on a comparison (R266). -/
def relation (op : Nat) (c : Cmp) : Bool :=
  match op with
  | 0 => c.eq
  | 1 => !c.eq
  | 2 => c.lt
  | 3 => c.lt || c.eq
  | 4 => c.gt
  | _ => c.gt || c.eq

/-- Compare a field with an operand of the term's type. -/
def cmpTerm (t : Term) (f a : Nat) : Cmp :=
  let w := 8 * fieldBytes t
  if t.type = 6 then cmpF32 (BitVec.ofNat 32 f) (BitVec.ofNat 32 a)
  else if t.type = 4 ∨ t.type = 5 then cmpInt (BitVec.ofNat w f).toInt (BitVec.ofNat w a).toInt
  else cmpInt ((f % 2 ^ w : Nat) : Int) ((a % 2 ^ w : Nat) : Int)

/-- One term on a record; `set` holds the entries of an IN term, each in the field's width (R267). -/
def evalTerm (record : List Byte) (t : Term) (set : List (List Byte)) : Bool :=
  let n := fieldBytes t
  let f := bytesAt record t.off n
  let v := leNat f
  let plain :=
    if t.op = 7 then set.any fun e =>
      if t.type = 7 then e == f else (cmpTerm t v (leNat e)).eq
    else if t.type = 7 then relation (if t.op = 0xA then 0 else t.op) (cmpInt (beNat f) (beNat (t.bytes.take n)))
    else if t.op = 6 then relation 5 (cmpTerm t v t.a) && relation 3 (cmpTerm t v t.b)
    else if t.op = 8 then v &&& (t.a % 2 ^ (8 * n)) == t.a % 2 ^ (8 * n)
    else if t.op = 9 then v &&& (t.a % 2 ^ (8 * n)) != 0
    else relation t.op (cmpTerm t v t.a)
  plain != t.negate

/-- Read the set of an IN term: B entries of the field's width at the tensor-range address A (R266, R267). -/
def readSet (t : Term) (r : Run) : List (List Byte) × Run :=
  if t.op ≠ 7 then ([], r)
  else
    let n := fieldBytes t
    let x := addrRead t.a (n * t.b) r
    ((List.range t.b).map fun i => bytesAt x.1 (n * i) n, x.2)

/-- A group of terms with their sets. -/
def readSets (groups : List (List Term)) (r : Run) : List (List (Term × List (List Byte))) × Run :=
  groups.foldl (fun (acc : List (List (Term × List (List Byte))) × Run) g =>
    let v := g.foldl (fun (x : List (Term × List (List Byte)) × Run) t =>
      let s := readSet t x.2
      (x.1 ++ [(t, s.1)], s.2)) ([], acc.2)
    (acc.1 ++ [v.1], v.2)) ([], r)

/-- A record matches when every term of at least one group is true (R265). -/
def recordMatches (groups : List (List (Term × List (List Byte)))) (record : List Byte) : Bool :=
  groups.any fun g => g.all fun t => evalTerm record t.1 t.2

/-! ### FILTER and SCAN (R268, R269) -/

/-- The header of R268. -/
def matchHeader (hits listed limit : Nat) : List Byte :=
  leBytes 8 hits ++ leBytes 4 listed ++ leBytes 1 (flagAt (decide (limit < hits)) 0) ++ zeros 3

/-- Count a truncated list (R268). -/
def countTrunc : Sys → Sys := onJobs fun x => { x with filterTrunc := satInc x.filterTrunc }

/-- The records of the range read in order; each with its number. -/
def readRecords (d : Desc) (first count reclen : Nat) (r : Run) : List (Nat × List Byte) × Run :=
  (List.range count).foldl (fun (acc : List (Nat × List Byte) × Run) i =>
    let v := opRead d.o0 ((first + i) * reclen) reclen acc.2
    (acc.1 ++ [(first + i, v.1)], v.2)) ([], r)

/-- FILTER and SCAN; `row` makes the output row of a listed record (R268, R269). An empty range writes nothing (R230). -/
def filterWith (row : Nat → List Byte → List Byte) (d : Desc) (r : Run) : Run :=
  let first := runDim r d.dim0
  let count := runDim r d.dim1
  let reclen := runDim r d.dim2
  let limit := runDim r d.dim3
  if count = 0 then r
  else
    let params := match r.sys.jobs.job with
      | some j => j.plan.params
      | none => []
    let g := readSets ((filterTerms params d reclen).getD []) r
    let x := readRecords d first count reclen g.2
    let hits := x.1.filter fun e => recordMatches g.1 e.2
    goOn (fun r =>
      let bits := x.1.map fun e => recordMatches g.1 e.2
      let listed := hits.take limit
      let r := if d.o6 = .none then r else opPut d 6 (bitBytes bits) r
      let r := if limit < hits.length then r.on countTrunc else r
      if d.o7 = .none then r
      else opPut d 7 (matchHeader hits.length listed.length limit ++ listed.flatMap fun e => row e.1 e.2) r) x.2

/-- FILTER lists record numbers (R268). -/
def filterOp (d : Desc) (r : Run) : Run := filterWith (fun n _ => leBytes 8 n) d r
/-- FILTER (R268). -/
def execFilter (task : BitVec 16) (d : Desc) (s : State) : Host.Outcome State Fault Refusal := done s (descRow 0x40 task d filterOp)

/-- SCAN writes the named fields of each listed record (R269). -/
def scanOp (d : Desc) (r : Run) : Run :=
  let params := match r.sys.jobs.job with
    | some j => j.plan.params
    | none => []
  let fields := (scanFields params d (runDim r d.dim2)).getD []
  filterWith (fun _ l => fields.flatMap fun f => bytesAt l f.1 f.2) d r
/-- SCAN (R269). -/
def execScan (task : BitVec 16) (d : Desc) (s : State) : Host.Outcome State Fault Refusal := done s (descRow 0x41 task d scanOp)

end Sys2Proof.Machine
end

