-- ==== Sys2Proof/Machine/CollOps.lean ====
section
/-!
DEFINITION. Collectives over the fabric: ALLREDUCE, ALLGATHER and the collective SELECT, their blocks, scale history and ends
(R71, R217 to R221, R256 to R263).
-/
namespace Sys2Proof.Machine

/-! ### Shape of a collective (R217, R258) -/

/-- The running collective with an identifier. -/
def collOf (m : Sys) (id : BitVec 32) : Option Coll := m.jobs.job.bind fun j => j.colls.find? (·.id == id)

/-- Store a running collective. -/
def setColl (c : Coll) : Sys → Sys := onJob fun j => { j with colls := j.colls.map fun x => if x.id = c.id then c else x }

/-- Blocks in a row of a collective. -/
def rowBlocks (c : Coll) : Nat := cquo c.rowLen 256
/-- Blocks of a collective. -/
def collBlocks (c : Coll) : Nat := c.rows * rowBlocks c
/-- Output elements of a collective. -/
def collElems (c : Coll) : Nat := c.rows * c.rowLen
/-- First element and element count of a block (R217). -/
def blockSpan (c : Coll) (b : Nat) : Nat × Nat :=
  let k := b % rowBlocks c
  (b / rowBlocks c * c.rowLen + 256 * k, min 256 (c.rowLen - 256 * k))
/-- The owner rank of a block (R258). -/
def blockOwner (c : Coll) (b : Nat) : Nat := b % c.ranks
/-- The collective gathers slices (R261). -/
def isGather (c : Coll) : Bool := c.desc.op == 0x39
/-- Ranks that contribute to a block (R260, R261). -/
def givers (c : Coll) (b : Nat) : List Nat := if isGather c then [b / rowBlocks c] else List.range c.ranks
/-- Key of a contribution. -/
def partKey (rank elem : Nat) : Nat := rank * 2 ^ 40 + elem
/-- Other ranks. -/
def otherRanks (c : Coll) : List Nat := (List.range c.ranks).filter (· != c.me)
/-- Address of a rank. -/
def rankAddr (c : Coll) (r : Nat) : Addr := c.rankAddrs.getD r 0

/-! ### Blocks sent (R218, R259) -/

/-- A COLL_RAW body (R259). -/
def rawBody (id : BitVec 32) (phase : Nat) (sat : Bool) (first : Nat) (data : List Byte) : List Byte :=
  leBytes 4 id.toNat ++ leBytes 1 phase ++ leBytes 1 (flagAt sat 0) ++ zeros 2 ++ leBytes 8 first ++ data

/-- Send a COLL_RAW block. -/
def sendRaw (dst : Addr) (id : BitVec 32) (phase : Nat) (sat : Bool) (first : Nat) (data : List Byte) (m : Sys) : Sys :=
  sendBlock { newBlock (ownAddr m) dst kCollRaw with body := rawBody id phase sat first data } m

/-- The STREAM_SEQ that the next block of a stream will carry. -/
def seqAhead (m : Sys) (k : StreamKey) : BitVec 16 :=
  (txOf m k).next + BitVec.ofNat 16 (m.fabric.waiting.filter fun b => streamKey b == k).length

/-- A COLL_SCALE body (R218). -/
def scaleBody (id : BitVec 32) (first : Nat) (sat : Bool) (scales : List Nat) : List Byte :=
  leBytes 4 id.toNat ++ leBytes 4 first ++ leBytes 1 scales.length ++ leBytes 1 (flagAt sat 0) ++ zeros 2 ++
    fitBytes ((2 * scales.length + 3) / 4 * 4) (scales.flatMap (leBytes 2))

/-- A COLL_DATA body (R218). -/
def dataBody (codes : List Int) (index : Nat) : List Byte :=
  fitBytes 256 (codes.map fun q => BitVec.ofInt 8 q) ++ leBytes 2 index ++ leBytes 2 codes.length

/-- The entry offset that stands for the header of a selection list: the two entries' length before entry 0 (DESIGN CHOICE, log entry 19). -/
def headerFirst : Nat := 2 ^ 64 - 2

/-- Send a selection list as COLL_RAW phase 2 blocks: its header, then entries and payload bytes, FIRST being the entry offset, which the
payload bytes continue in steps of an entry's 16 bytes (R259; log entry 19). -/
def sendList (dst : Addr) (id : BitVec 32) (l : List Byte) (m : Sys) : Sys :=
  ((pieces 4080 (l.drop 32)).foldl (fun (acc : Nat × Sys) p => (acc.1 + 255, sendRaw dst id 2 false acc.1 p acc.2))
    (0, sendRaw dst id 2 false headerFirst (l.take 32) m)).2

/-! ### Ends of a collective (R262, R263) -/

/-- Remove a collective from the job and its descriptor from the waiting ones. -/
def dropColl (c : Coll) (m : Sys) : Sys :=
  onTaskRun c.task (fun x => { x with waits := x.waits.filter (· != c.index) })
    (onJob (fun j => { j with colls := j.colls.filter fun x => x.id != c.id }) m)

/-- The context that owns a row of the collective (R291). -/
def collOwner (m : Sys) (c : Coll) (row : Nat) : Option Nat :=
  if isGather c then none else m.jobs.job.bind fun j => rowOwner j c.desc.dim0 row

/-- Every element has arrived: the output is written and the descriptor's operation is done (R262). -/
def finishColl (c : Coll) (m : Sys) : Sys :=
  let out := (List.range (collElems c)).flatMap fun e => f32Bytes (tget 0 e c.result)
  let m := onlyIf c.satur (markSaturated none) (dropColl c m)
  endRun c.task c.index (opWrite c.desc.o6 0 out (runOf c.task m))

/-- The collective ends UNCORRECTABLE: elements already held are written, with the rank's own slice of an ALLGATHER, and others are not; a
saturation met before the end is raised (R218, R262, R263). -/
def breakColl (c : Coll) (m : Sys) : Sys :=
  let m := onlyIf c.satur (markSaturated none) (dropColl c m)
  let r := (c.own ++ c.result).foldl (fun r e => opWrite c.desc.o6 (4 * e.1) (f32Bytes e.2) r) (runOf c.task m)
  failTask c.task (condition stUncorrectable) r.err (onTaskRun c.task (fun x => { x with done := x.done ++ [c.index] }) r.sys)

/-- Values of a block as one rank contributed them; none while an element is missing. -/
def partOf (c : Coll) (rank first n : Nat) : Option (List F32) := (span first n).mapM fun e => tfind (partKey rank e) c.parts

/-- One result element: the contributions in rank order, joined over the pairwise tree (R260). -/
def combine (kind : Byte) (l : List F32) : F32 :=
  if kind = 0 then sum32 l else (treeUp (fun _ _ => max32) 33 1 l).headD 0

/-- The owner forms a block whose contributions are all held, and sends it to every other rank (R262). -/
def formBlock (id : BitVec 32) (b : Nat) (m : Sys) : Sys :=
  match collOf m id with
  | none => m
  | some c =>
    let s := blockSpan c b
    if blockOwner c b ≠ c.me ∨ (tfind s.1 c.result).isSome = true then m
    else match (givers c b).mapM fun r => partOf c r s.1 s.2 with
      | none => m
      | some l =>
        let vals := (List.range s.2).map fun i => combine c.desc.kind (l.map fun x => x.getD i 0)
        let sat := c.satBlocks.contains b
        let m := setColl { c with
          result := (List.range s.2).foldl (fun t i => tset (s.1 + i) (vals.getD i 0) t) c.result, satur := c.satur || sat } m
        forEach (otherRanks c) (fun r => sendRaw (rankAddr c r) id 1 sat s.1 (f32Out vals)) m

/-- A collective with every output element held ends. -/
def settleColl (id : BitVec 32) (m : Sys) : Sys :=
  match collOf m id with
  | some c => if c.desc.op ≠ 0x31 ∧ c.result.length = collElems c then finishColl c m else m
  | none => m

/-- A rank's contribution to a block of this owner. -/
def takePart (id : BitVec 32) (rank b : Nat) (vals : List F32) (sat : Bool) (m : Sys) : Sys :=
  match collOf m id with
  | none => m
  | some c =>
    let s := blockSpan c b
    let parts := (List.range (min s.2 vals.length)).foldl (fun t i => tset (partKey rank (s.1 + i)) (vals.getD i 0) t) c.parts
    settleColl id (formBlock id b (setColl { c with
      parts, satBlocks := if sat && !c.satBlocks.contains b then c.satBlocks ++ [b] else c.satBlocks } m))

/-! ### Contributions (R219, R262) -/

/-- The slot that holds the scale history (R221). -/
def historySlot (p : Plan) : Option Nat := indexOf? (fun s => s.flags.getLsbD 1) p.slots

/-- The tensor-range address of byte `off` of the scale history (R221): the slot's base, which no step moves. -/
def histAddr (j : Job) (s off : Nat) : Nat := (j.binds.getD s 0).toNat + off

/-- H of a row of a collective: +0 where the collective keeps no history (R219, R221). -/
def readHist (base row : Nat) (r : Run) : F32 × Run :=
  match r.sys.jobs.job with
  | none => (0, r)
  | some j =>
    match historySlot j.plan with
    | some s =>
      if base = 0xFFFFFFFF then (0, r)
      else
        let v := addrRead (histAddr j s (16 + 4 * (base + row))) 4 r
        (f32At v.1 0, v.2)
    | none => (0, r)

/-- Note the largest finite magnitude of a row that this site sends in the step (R221). -/
def noteHist (base row : Nat) (l : List F32) : Sys → Sys :=
  if base = 0xFFFFFFFF then id else onJob fun j => { j with hist := tset (base + row) (BitVec.ofNat 32 (maxFinite l)) j.hist }

/-- The L8 codes of a row's blocks: each block's conversion, counted (R211, R212, R219). -/
def codeRow (c : Coll) (row : Nat) (h : F32) (l : List F32) (m : Sys) : List Conv × Sys :=
  let s0 := l8Start h l
  let v := (pieces 256 l).map (toL8 s0)
  (v, forEach v (fun x => countConv x.passes x.saturated x.nonfinite (collOwner m c row)) m)

/-- Decoded values of a coded block (R217). -/
def decodeL8 (v : Conv) : List F32 := v.codes.map fun q => ofL8 q v.scale

/-- Send a COLL_SCALE and the COLL_DATA that refer to it, and keep them for a resend (R71). -/
def sendScaled (id : BitVec 32) (scale : Block) (data : List Block) (m : Sys) : Sys :=
  let ref := seqAhead m { dst := scale.dst, vc := 2, bcast := 0 }
  let m := forEach data (fun b => sendBlock { b with scaleRef := ref }) (sendBlock scale m)
  match collOf m id with
  | some c => setColl { c with sent := c.sent ++ [(ref, scale, data)] } m
  | none => m

/-- Send one L8 group of up to 64 blocks, numbered from `first`: to each rank that owns some of them, one COLL_SCALE and its
COLL_DATA; blocks of this rank are taken here (R71, R218, R219). -/
def sendGroup (c : Coll) (first : Nat) (l : List Conv) (m : Sys) : Sys :=
  let sat := l.any (·.saturated)
  let mine (o : Nat) := (List.range l.length).filter fun i => blockOwner c (first + i) == o
  let owners := ((List.range l.length).map fun i => blockOwner c (first + i)).eraseDups
  let m := forEach (owners.filter (· != c.me)) (fun o m =>
    let dst := rankAddr c o
    sendScaled c.id { newBlock (ownAddr m) dst kCollScale with body := scaleBody c.id first sat (l.map (·.scale)) }
      ((mine o).filterMap fun i => (l[i]?).map fun v => { newBlock (ownAddr m) dst kCollData with body := dataBody v.codes i }) m) m
  forEach (mine c.me) (fun i m =>
    match l[i]? with
    | some v => takePart c.id c.me (first + i) (decodeL8 v) v.saturated m
    | none => m) m

/-- A destination asks for a COLL_SCALE again: it and its data are sent as new blocks in their streams (R71). -/
def resendScale (dst : Addr) (ref : BitVec 16) (m : Sys) : Sys :=
  match m.jobs.job with
  | none => m
  | some j => forEach j.colls (fun c m =>
      forEach (c.sent.filter fun e => e.1 == ref && e.2.1.dst == dst) (fun e m =>
        let m := match collOf m c.id with
          | some x => setColl { x with sent := x.sent.erase e } m
          | none => m
        sendScaled c.id e.2.1 e.2.2 m) m) m

/-- Send the blocks of one row of contributions; the collective's own saturation is noted (R262). -/
def sendRow (c : Coll) (row : Nat) (l : List F32) (coded : Option (List Conv)) (m : Sys) : Sys :=
  let first := row * rowBlocks c
  match coded with
  | some v =>
    let m := onlyIf (v.any (·.saturated)) (fun m => match collOf m c.id with
      | some x => setColl { x with satur := true } m
      | none => m) m
    ((pieces 64 v).foldl (fun (acc : Nat × Sys) g => (acc.1 + g.length, sendGroup c acc.1 g acc.2)) (first, m)).2
  | none =>
    ((pieces 256 l).foldl (fun (acc : Nat × Sys) g =>
      let o := blockOwner c acc.1
      (acc.1 + 1, if o = c.me then takePart c.id c.me acc.1 g false acc.2
        else sendRaw (rankAddr c o) c.id 0 false (blockSpan c acc.1).1 (f32Out g) acc.2)) (first, m)).2

/-- The rank table of a collective entry as bound: P addresses (R282). -/
def readRanks (e : CollEntry) (r : Run) : List Addr × Run :=
  let v := opRead (.slot (BitVec.ofNat 12 e.rankSlot) 0) 0 (2 * e.ranks) r
  ((List.range e.ranks).map fun i => BitVec.ofNat 16 (leAt v.1 (2 * i) 2), v.2)

/-- The rank of an address. -/
def rankOf (l : List Addr) (a : Addr) : Nat := (indexOf? (· == a) l).getD 0

/-- Send COLL_RAW phase 3 to every other rank of a collective (R263). -/
def abandonTo (id : BitVec 32) (addrs : List Addr) (m : Sys) : Sys :=
  forEach (addrs.filter (· != ownAddr m)) (fun a => sendRaw a id 3 false 0 []) m

/-! ### Arrival of collective blocks (R71, R259, R262, R263) -/

/-- Hold a block of a collective that has not begun here (log entry 20). -/
def holdEarly (b : Block) : Sys → Sys := onFabric fun x => { x with early := x.early ++ [b] }

/-- Place in a selection list of the data of a phase 2 block (R259; log entry 19). -/
def listPlace (first : Nat) : Nat := if first = headerFirst then 0 else 32 + 16 * first

/-- A selection list's bytes reach rank 0 (R256). -/
def takeList (c : Coll) (rank first : Nat) (data : List Byte) (m : Sys) : Sys :=
  let old := tget [] rank c.lists
  setColl { c with lists := tset rank (if listPlace first = old.length then old ++ data else old) c.lists } m

/-- Rank 0 holds every list: they are joined and written (R256, R257). -/
def settleSelect (id : BitVec 32) (m : Sys) : Sys :=
  match collOf m id with
  | none => m
  | some c =>
    let k := c.rows
    let rowlen := c.rowLen
    if c.desc.op = 0x31 ∧ (List.range c.ranks).all (fun r => (tget [] r c.lists).length == listBytes k rowlen) = true then
      let kind := c.desc.kind.toNat
      let x := joinLists kind k ((List.range c.ranks).map fun r => readList k rowlen (tget [] r c.lists))
      endRun c.task c.index (putList c.desc.o6 k rowlen kind x (runOf c.task (dropColl c m)))
    else m

/-- A COLL_RAW block acts on a running collective (R259, R262, R263). -/
def rawArrives (c : Coll) (b : Block) (m : Sys) : Sys :=
  let phase := leAt b.body 4 1
  let sat := (leAt b.body 5 1).testBit 0
  let first := leAt b.body 8 8
  let data := b.body.drop 16
  let rank := rankOf c.rankAddrs b.src
  if phase = 3 then breakColl c m
  else if phase = 2 then settleSelect c.id (takeList c rank first data m)
  else if c.desc.op = 0x31 then m
  else
    let vals := f32List data
    if phase = 1 then
      settleColl c.id (setColl { c with
        result := (List.range vals.length).foldl (fun t i =>
          if first + i < collElems c then tset (first + i) (vals.getD i 0) t else t) c.result,
        satur := c.satur || sat } m)
    else
      let parts := (List.range vals.length).foldl (fun t i => tset (partKey rank (first + i)) (vals.getD i 0) t) c.parts
      let m := setColl { c with parts } m
      let blocks := (List.range (collBlocks c)).filter fun k =>
        let s := blockSpan c k
        decide (first < s.1 + s.2) && decide (s.1 < first + vals.length)
      settleColl c.id (forEach blocks (formBlock c.id) m)

/-- The scale that a COLL_DATA refers to, if held (R71). -/
def scaleFor (m : Sys) (b : Block) : Option HeldColl := m.fabric.scales.find? fun s => s.src == b.src && s.seq == b.scaleRef

/-- Ask a source to send again from a block on, and take it again when it comes (R66, R218). -/
def askAgain (b : Block) (m : Sys) : Sys :=
  let k : StreamKey := { dst := b.src, vc := b.vc, bcast := b.bcast }
  sendAck b.src b.vc (b.seq - 1) true (ackTag k) (onFabric (fun x => { x with
    rx := x.rx.map fun e => if e.1 = k then (k, { e.2 with last := b.seq - 1 }) else e }) m)

/-- A COLL_DATA with its scale: decoded and taken as a contribution; a malformed one is discarded and asked for again (R218). -/
def pairData (s : HeldColl) (b : Block) (m : Sys) : Sys :=
  let index := leAt b.body 256 2
  let valid := leAt b.body 258 2
  let count := leAt s.body 8 1
  if count ≤ index ∨ valid = 0 ∨ 256 < valid then
    askAgain b (onFabric (fun x => { x with bcrcErr := satInc x.bcrcErr }) m)
  else
    let id : BitVec 32 := BitVec.ofNat 32 (leAt s.body 0 4)
    match collOf m id with
    | none => holdEarly b m
    | some c =>
      let sat := (leAt s.body 9 1).testBit 0
      let code := leAt s.body (12 + 2 * index) 2
      let q := (b.body.take valid).map fun x => x.toInt
      let m := markMalformed [code] (setColl { c with satur := c.satur || sat } m)
      takePart id (rankOf c.rankAddrs b.src) (leAt s.body 4 4 + index) (q.map fun v => ofL8 v code) sat m

/-- A COLL_DATA arrives: it is paired with its held scale, or waits for it (R71). -/
def dataArrives (b : Block) (m : Sys) : Sys :=
  match scaleFor m b with
  | some s => pairData s b m
  | none => onFabric (fun x => { x with waitData := x.waitData ++ [b] }) m

/-- A COLL_SCALE is held, up to four for one collective, the oldest giving way; data that waited for it is paired (R71). -/
def scaleArrives (b : Block) (m : Sys) : Sys :=
  let id := leAt b.body 0 4
  let mine (s : HeldColl) := leAt s.body 0 4 == id
  let old := m.fabric.scales.filter mine
  let kept := m.fabric.scales.filter fun s => !(decide (4 ≤ old.length) && old.head? == some s)
  let m := onFabric (fun x => { x with scales := kept ++ [{ src := b.src, seq := b.seq, body := b.body }] }) m
  let ready := m.fabric.waitData.filter fun d => d.src == b.src && d.scaleRef == b.seq
  forEach ready dataArrives (onFabric (fun x => { x with waitData := x.waitData.filter fun d => !ready.contains d }) m)

/-- Blocks that waited for a collective to begin are taken now. -/
def replayEarly (id : BitVec 32) (m : Sys) : Sys :=
  let l := m.fabric.early
  forEach l (fun b m =>
    if b.kind = kCollRaw then
      (match collOf m id with
        | some c => if leAt b.body 0 4 = id.toNat then rawArrives c b m else holdEarly b m
        | none => holdEarly b m)
    else dataArrives b m) (onFabric (fun x => { x with early := [] }) m)

/-- A COLL_RAW for a collective of a plan (R262). -/
def planRaw (b : Block) (m : Sys) : Sys :=
  match collOf m (BitVec.ofNat 32 (leAt b.body 0 4)) with
  | some c => rawArrives c b m
  | none => holdEarly b m

/-! ### The descriptors (R256, R260, R261) -/

/-- Begin a collective: the job lists it and its descriptor waits. -/
def beginColl (c : Coll) (m : Sys) : Sys :=
  onTaskRun c.task (fun x => { x with waits := x.waits ++ [c.index] }) (onJob (fun j => { j with colls := j.colls ++ [c] }) m)

/-- A collective whose task ends before it contributes (R263). -/
def failBefore (id : BitVec 32) (i : Nat) (addrs : List Addr) (r : Run) : Sys :=
  abandonTo id addrs (onTaskRun r.task (fun x => { x with done := x.done ++ [i] }) (failRun r))

/-- A site notes its rows' largest magnitudes: an ALLREDUCE in either format, and an ALLGATHER in L8 (R221). -/
def notesHist (c : Coll) : Bool := !isGather c || c.desc.fmt == 1

/-- The rank's own slice of an ALLGATHER stays at hand (R263). -/
def keepOwn (c : Coll) (row : Nat) (vals : List F32) : Sys → Sys := fun m =>
  match collOf m c.id with
  | some x => setColl { x with own := (List.range vals.length).map fun i => (row * c.rowLen + i, vals.getD i 0) } m
  | none => m

/-- Contribute the rows of an ALLREDUCE or the slice of an ALLGATHER; rows are (row number, values) (R262). -/
def contribute (c : Coll) (base : Nat) (rows : List (Nat × List F32)) (r : Run) : Sys :=
  let l8 := c.desc.fmt == 1
  let site (row : Nat) : Nat := if isGather c then 0 else row
  let h := rows.foldl (fun (acc : List F32 × Run) x =>
    let v := if l8 then readHist base (site x.1) acc.2 else (0, acc.2)
    (acc.1 ++ [v.1], v.2)) ([], r)
  if h.2.failed then failBefore c.id c.index c.rankAddrs h.2
  else
    let m := beginColl c h.2.sys
    let m := forEach ((List.range rows.length).map fun i => (rows.getD i (0, []), h.1.getD i 0)) (fun e m =>
      let m := onlyIf (notesHist c) (noteHist base (site e.1.1) e.1.2) m
      if l8 then
        let v := codeRow c e.1.1 e.2 e.1.2 m
        let m := onlyIf (isGather c) (keepOwn c e.1.1 (v.1.flatMap decodeL8)) v.2
        sendRow c e.1.1 e.1.2 (some v.1) m
      else sendRow c e.1.1 e.1.2 none (onlyIf (isGather c) (keepOwn c e.1.1 e.1.2) m)) m
    settleColl c.id (replayEarly c.id m)

/-- The collective entry that a descriptor names. -/
def collEntry (m : Sys) (d : Desc) : CollEntry :=
  match m.jobs.job with
  | some j => j.plan.colls.getD (dpar d 104 4) ⟨0, 0, 1, 0⟩
  | none => ⟨0, 0, 1, 0⟩

/-- ALLREDUCE and ALLGATHER begin; one without elements writes nothing and reads nothing (R230, R260 to R262). -/
def collStart (t i : Nat) (d : Desc) (_s : Shape) (m : Sys) : Sys :=
  let m := useVector t d m
  let e := collEntry m d
  let gather := d.op == 0x39
  let r := runOf t m
  let n := if gather then runDim r d.dim0 else runDim r d.dim0 * runDim r d.dim1
  if n = 0 then markRan t i m
  else
    let k := readRanks e r
    let x := if !k.2.failed then opF32 d 0 n k.2 else ([], k.2)
    if x.2.failed then failBefore e.id i k.1 x.2
    else
      let me := rankOf k.1 (ownAddr m)
      let rows := if gather then e.ranks else runDim x.2 d.dim0
      let len := if gather then n else runDim x.2 d.dim1
      let c : Coll :=
        { id := e.id, task := t, index := i, desc := d, ranks := e.ranks, me, rankAddrs := k.1, rows, rowLen := len, parts := [],
          result := [], lists := [], own := [], satBlocks := [], satur := false, sent := [] }
      contribute c e.histBase.toNat (if gather then [(me, x.1)] else (List.range rows).map fun r => (r, (x.1.drop (r * len)).take len)) x.2

/-- ALLREDUCE (R260). -/
def execAllreduce (task : BitVec 16) (d : Desc) (s : State) : Host.Outcome State Fault Refusal := done s (descRowWith 0x38 task d collStart)
/-- ALLGATHER (R261). -/
def execAllgather (task : BitVec 16) (d : Desc) (s : State) : Host.Outcome State Fault Refusal := done s (descRowWith 0x39 task d collStart)

/-- A collective SELECT: local inputs are joined, the list goes to rank 0, and rank 0 joins the lists (R256). -/
def selectStart (t i : Nat) (d : Desc) (s : Shape) (m : Sys) : Sys :=
  if dpar d 104 4 = 0xFFFFFFFF then runDesc t i d s selectOp m
  else
    let m := useVector t d m
    let e := collEntry m d
    let k := readRanks e (runOf t m)
    let kk := runDim k.2 d.dim1
    let rowlen := runDim k.2 d.dim2
    let kind := d.kind.toNat
    let v := if !k.2.failed then readInputs (selectRefs k.2 d (runDim k.2 d.dim0)) kk rowlen k.2 else ([], k.2)
    if v.2.failed then failBefore e.id i k.1 v.2
    else
      let r := v.2.on (countNan kind (v.1.flatMap fun x => x.entries.map (·.1)))
      let p := joinLists kind kk v.1
      let a := count32 p.valid r
      let b := count32 p.tied a.2
      let image := listImage (listHeader p.entries.length a.1 b.1 kk rowlen kind) kk rowlen p.entries
      let me := rankOf k.1 (ownAddr m)
      if me ≠ 0 then markRan t i (sendList (k.1.getD 0 0) e.id image b.2.sys)
      else
        let c : Coll :=
          { id := e.id, task := t, index := i, desc := d, ranks := e.ranks, me, rankAddrs := k.1, rows := kk, rowLen := rowlen,
            parts := [], result := [], lists := [(0, image)], own := [], satBlocks := [], satur := false, sent := [] }
        settleSelect e.id (replayEarly e.id (beginColl c b.2.sys))

/-- SELECT (R256). -/
def execSelect (task : BitVec 16) (d : Desc) (s : State) : Host.Outcome State Fault Refusal := done s (descRowWith 0x31 task d selectStart)

/-! ### Collective rows of the fabric -/

/-- COLL_SCALE (R71). -/
def collScale (b : Block) (m : Sys) : Sys :=
  let m := onFabric (fun x => { x with taken := x.taken.erase b }) m
  whileLive (scaleArrives b) m

/-- COLL_SCALE (R71). -/
def execCollScale (b : Block) (s : State) : Host.Outcome State Fault Refusal := done s (collScale b)

/-- COLL_DATA (R71). -/
def collData (b : Block) (m : Sys) : Sys :=
  let m := onFabric (fun x => { x with taken := x.taken.erase b }) m
  whileLive (dataArrives b) m

/-- COLL_DATA (R71). -/
def execCollData (b : Block) (s : State) : Host.Outcome State Fault Refusal := done s (collData b)

/-- Serial comparison of stream numbers: a is before b. -/
def seqBefore (a b : BitVec 16) : Bool := a != b && decide ((b - a).toNat < 32768)

/-- A COLL_DATA whose scale is not held after 20 µs is discarded with the older scales, and the scale's resend is asked (R71). -/
def scaleTimeout (src : Addr) (ref : BitVec 16) (m : Sys) : Sys :=
  if m.fabric.waitData.any fun d => d.src == src && d.scaleRef == ref then
    launch (sealBlock { newBlock (ownAddr m) src kE2eAck with
      ackVc := 2, body := leBytes 1 2 ++ zeros 1 ++ leBytes 2 ref.toNat })
      (onFabric (fun x => { x with
        waitData := x.waitData.filter fun d => !(d.src == src && d.scaleRef == ref),
        scales := x.scales.filter fun s => !(s.src == src && seqBefore s.seq ref) }) m)
  else m

/-- COLL_SCALE_TIMEOUT (R71): a timer. -/
def execCollScaleTimeout (src : Addr) (scaleRef : BitVec 16) (s : State) : Host.Outcome State Fault Refusal :=
  done s (asEvent 10 (scaleTimeout src scaleRef))

/-- No block from some rank for 1 s (R263). -/
def collTimeout (id : BitVec 32) (m : Sys) : Sys :=
  match collOf m id with
  | some c => breakColl c m
  | none => m

/-- COLLECTIVE_TIMEOUT (R263): a timer. -/
def execCollectiveTimeout (coll : BitVec 32) (s : State) : Host.Outcome State Fault Refusal := done s (asEvent 10 (collTimeout coll))

end Sys2Proof.Machine
end

