-- ==== Sys2Proof/Machine/CtrlDesc.lean ====
section
/-!
DEFINITION. Control descriptors NOP and EMIT, and the tensor descriptors, which act as the tensor commands (R281, R303).
-/
namespace Sys2Proof.Machine

/-- DESC_NOP (R281): nothing. -/
def descNopOp (_d : Desc) (r : Run) : Run := r

/-- DESC_NOP (R281). -/
def execDescNop (task : BitVec 16) (d : Desc) (s : State) : Host.Outcome State Fault Refusal := done s (descRow 0x50 task d descNopOp)

/-! ### EMIT (R303) -/

/-- A context takes its next token at position `pos`; it may end in this step (R303). -/
def takeToken (maxPos pos : Nat) (token : BitVec 32) (x : Ctx) : Ctx :=
  let emitted := x.emitted ++ [token]
  { x with
    emitted,
    ending :=
      if x.stop ≠ 0xFFFFFFFF ∧ token = x.stop then some stDone
      else if x.maxNew ≤ emitted.length then some stDone
      else if maxPos ≤ pos + 1 then some stShort
      else x.ending }

/-- Row `i` of the step gives its context a token if it emits (R303). -/
def emitRow (d : Desc) (r : Run) (e : Nat × Row) : Run :=
  if r.failed || !e.2.emit then r
  else
    let v := opRead d.o0 (4 * e.1) 4 r
    if v.2.failed then v.2
    else v.2.on (onJob fun j => { j with ctxs := match tfind e.2.ctx j.ctxs with
      | some x => tset e.2.ctx (takeToken j.plan.maxPos e.2.pos (BitVec.ofNat 32 (leNat v.1)) x) j.ctxs
      | none => j.ctxs })

/-- EMIT's operation (R303). -/
def emitOp (d : Desc) (r : Run) : Run :=
  let rows := (r.sys.jobs.job.map (·.rows)).getD []
  ((List.range rows.length).zip rows).foldl (emitRow d) r

/-- EMIT (R303). -/
def execEmit (task : BitVec 16) (d : Desc) (s : State) : Host.Outcome State Fault Refusal := done s (descRow 0x58 task d emitOp)

/-! ### Tensor descriptors (R281) -/

/-- The number of the tensor that a slot operand names (R142, R281). -/
def descTensor (m : Sys) (ref : ORef) : Option Nat :=
  match m.jobs.job, ref with
  | some j, .slot s o => namedTensor (BitVec.ofNat 64 (slotAddr j s.toNat o.toNat))
  | _, _ => none

/-- The parameter block of a tensor descriptor: 92 bytes of the plan (R281). -/
def descBlock (m : Sys) (d : Desc) : List Byte :=
  match m.jobs.job, d.o2 with
  | some j, .plan o => bytesAt j.plan.params o.toNat 92
  | _, _ => zeros 92

/-- A seal or append of a tensor that the descriptor touches is in progress or waits to begin, so the descriptor waits (R148). -/
def descWaits (m : Sys) (d : Desc) (refs : List ORef) : Bool :=
  (d.op == 0x61 || d.op == 0x66 || d.op == 0x67 || d.op == 0x68) && refs.any fun r => match descTensor m r with
    | some n => underSeal m n || sealWaits m n
    | none => false

/-- Begin the operation of a tensor descriptor on its tensor; it ends when the corresponding command would (R281). -/
def tensorDesc (f : Asker → Nat → List Byte → Sys → Sys) (t i : Nat) (d : Desc) (_s : Shape) (m : Sys) : Sys :=
  if descWaits m d [d.o0, d.o1] then m
  else
    let a : Asker := .desc (BitVec.ofNat 16 t) i
    let block := descBlock m d
    let m := onTaskRun t (fun x => { x with waits := x.waits ++ [i] }) m
    match descTensor m d.o0 with
    | none => endAsk a (ending stBadCommand) m
    | some n => f a n block m

/-- T_APPEND's source is the tensor of O1 (R281). -/
def appendDesc (t i : Nat) (d : Desc) (s : Shape) (m : Sys) : Sys :=
  let src := descTensor m d.o1
  tensorDesc (fun a n _ m => match src with
    | some x => appendNow a n x m
    | none => endAsk a (ending stBadCommand) m) t i d s m

/-- T_CREATE (R281). -/
def execTCreate (task : BitVec 16) (d : Desc) (s : State) : Host.Outcome State Fault Refusal :=
  done s (descRowWith 0x60 task d (tensorDesc fun a n p => createOp a n p))
/-- T_DELETE (R281). -/
def execTDelete (task : BitVec 16) (d : Desc) (s : State) : Host.Outcome State Fault Refusal :=
  done s (descRowWith 0x61 task d (tensorDesc fun a n _ => deleteOp a n true))
/-- T_MOVE (R281). -/
def execTMove (task : BitVec 16) (d : Desc) (s : State) : Host.Outcome State Fault Refusal :=
  done s (descRowWith 0x62 task d (tensorDesc fun a n p => moveAsk a n p))
/-- T_DROP (R281). -/
def execTDrop (task : BitVec 16) (d : Desc) (s : State) : Host.Outcome State Fault Refusal :=
  done s (descRowWith 0x63 task d (tensorDesc fun a n p => dropOp a n p))
/-- T_PIN (R281). -/
def execTPin (task : BitVec 16) (d : Desc) (s : State) : Host.Outcome State Fault Refusal :=
  done s (descRowWith 0x64 task d (tensorDesc fun a n _ => pinOp a n))
/-- T_UNPIN (R281). -/
def execTUnpin (task : BitVec 16) (d : Desc) (s : State) : Host.Outcome State Fault Refusal :=
  done s (descRowWith 0x65 task d (tensorDesc fun a n _ => unpinOp a n))
/-- T_SEAL (R281). -/
def execTSeal (task : BitVec 16) (d : Desc) (s : State) : Host.Outcome State Fault Refusal :=
  done s (descRowWith 0x66 task d (tensorDesc fun a n p => sealNow a n (nsOf p)))
/-- T_APPEND (R281). -/
def execTAppend (task : BitVec 16) (d : Desc) (s : State) : Host.Outcome State Fault Refusal :=
  done s (descRowWith 0x67 task d appendDesc)
/-- T_CLOSE (R281). -/
def execTClose (task : BitVec 16) (d : Desc) (s : State) : Host.Outcome State Fault Refusal :=
  done s (descRowWith 0x68 task d (tensorDesc fun a n _ => closeOp a n))

end Sys2Proof.Machine
end

