-- ==== Sys2Proof/Machine/Fec.lean ====
section
/-!
DEFINITION. The frame's forward error correction, two interleaved RS(160,136) codes over GF(2^8) (R52), the PRBS31 of IDLE
payloads (R55), the lane scrambler and the PAM4 map (R46). Coefficient and parity order are the customary ones (log entry 11).
-/
namespace Sys2Proof.Machine

/-! ### GF(2^8) with x^8 + x^4 + x^3 + x^2 + 1 (R52) -/

/-- Multiply by α. -/
def gfDouble (a : Byte) : Byte := if a.getLsbD 7 then (a <<< 1) ^^^ 0x1D else a <<< 1

/-- Product in GF(2^8), over the bits of `b` from bit `8 - n` on. -/
def gfMulN : Nat → Byte → Byte → Byte
  | 0, _, _ => 0
  | n + 1, a, b => (if b.getLsbD 0 then a else 0) ^^^ gfMulN n (gfDouble a) (b >>> 1)

/-- Product in GF(2^8). -/
def gfMul (a b : Byte) : Byte := gfMulN 8 a b

/-- α to the power n. -/
def gfPow : Nat → Byte
  | 0 => 1
  | n + 1 => gfDouble (gfPow n)

/-- Repeated squaring: a to the power 2^n. -/
def gfSquares : Nat → Byte → Byte
  | 0, a => a
  | n + 1, a => gfSquares n (gfMul a a)

/-- Inverse: a to the power 254. -/
def gfInv (a : Byte) : Byte := ((span 1 7).map fun n => gfSquares n a).foldl gfMul 1

/-- Value of a polynomial (lowest coefficient first) at x. -/
def gfEval (p : List Byte) (x : Byte) : Byte := p.foldr (fun c acc => c ^^^ gfMul acc x) 0

/-- Sum of two polynomials, lowest coefficient first. -/
def gfAdd : List Byte → List Byte → List Byte
  | [], q => q
  | p, [] => p
  | a :: p, b :: q => (a ^^^ b) :: gfAdd p q

/-- Product of two polynomials. -/
def gfPolyMul : List Byte → List Byte → List Byte
  | [], _ => []
  | a :: p, q => gfAdd (q.map (gfMul a)) (0 :: gfPolyMul p q)

/-- The generator: roots α^0 to α^23 (R52), lowest coefficient first. -/
def rsGenerator : List Byte := (List.range 24).foldl (fun g i => gfPolyMul g [gfPow i, 1]) [1]

/-- One step of the division register, highest coefficient first. -/
def rsShift (gen reg : List Byte) (c : Byte) : List Byte :=
  match reg with
  | [] => []
  | r :: t =>
    let f := r ^^^ c
    gfAdd (t ++ [0]) (gen.map (gfMul f))

/-- The 24 parity bytes of a codeword's content, highest coefficient first (R52). -/
def rsParity (content : List Byte) : List Byte :=
  let gen := (rsGenerator.take 24).reverse
  content.foldl (rsShift gen) (zeros 24)

/-- The 24 syndromes of a received word, highest coefficient first. -/
def rsSyndromes (word : List Byte) : List Byte :=
  (List.range 24).map fun i => word.foldl (fun acc c => gfMul acc (gfPow i) ^^^ c) 0

/-- State of the Berlekamp-Massey iteration. -/
structure Bm where
  c : List Byte
  b : List Byte
  len : Nat
  m : Nat
  d0 : Byte
deriving DecidableEq, Repr

/-- One Berlekamp-Massey step at syndrome `n`. -/
def bmStep (syn : List Byte) (st : Bm) (n : Nat) : Bm :=
  let d := (List.range (st.len + 1)).foldl (fun a i => a ^^^ gfMul (st.c.getD i 0) (if i ≤ n then syn.getD (n - i) 0 else 0)) 0
  if d = 0 then { st with m := st.m + 1 }
  else
    let f := gfMul d (gfInv st.d0)
    let c := gfAdd st.c (zeros st.m ++ st.b.map (gfMul f))
    if 2 * st.len ≤ n then { c, b := st.c, len := n + 1 - st.len, m := 1, d0 := d } else { st with c, m := st.m + 1 }

/-- The formal derivative of a polynomial. -/
def gfDeriv (p : List Byte) : List Byte := (List.range (p.length - 1)).map fun i => if i % 2 = 0 then p.getD (i + 1) 0 else 0

/-- Correct a received word of 160 bytes: the corrected word and the places changed, or none when it is uncorrectable (R52). -/
def rsCorrect (word : List Byte) : Option (List Byte × List Nat) :=
  let syn := rsSyndromes word
  if allZero syn then some (word, [])
  else
    let st := (List.range 24).foldl (bmStep syn) { c := [1], b := [1], len := 0, m := 1, d0 := 1 }
    let errs := (List.range 160).filter fun j => gfEval st.c (gfPow ((255 - j) % 255)) == 0
    if st.len > 12 ∨ errs.length ≠ st.len then none
    else
      let omega := (gfPolyMul syn st.c).take 24
      let der := gfDeriv st.c
      let fixed := errs.foldl (fun w j =>
        let xi := gfPow ((255 - j) % 255)
        let v := gfMul (gfPow j) (gfMul (gfEval omega xi) (gfInv (gfEval der xi)))
        lupd (159 - j) (· ^^^ v) w) word
      if allZero (rsSyndromes fixed) then some (fixed, errs.map (159 - ·)) else none

/-- Every second element, from the first. -/
def evens : List Byte → List Byte
  | [] => []
  | [a] => [a]
  | a :: _ :: t => a :: evens t

/-- Interleave two byte strings. -/
def interleave : List Byte → List Byte → List Byte
  | a :: s, b :: t => a :: b :: interleave s t
  | s, [] => s
  | [], t => t

/-- A frame from its 272 content bytes (R52). -/
def fecEncode (content : List Byte) : List Byte :=
  content ++ interleave (rsParity (evens content)) (rsParity (evens (content.drop 1)))

/-- The content of a received frame with the byte positions of the frame that were corrected, or none (R52). -/
def fecDecode (frame : List Byte) : Option (List Byte × List Nat) :=
  match rsCorrect (evens frame), rsCorrect (evens (frame.drop 1)) with
  | some (a, ea), some (b, eb) =>
    some ((interleave a b).take 272, ea.map (2 * ·) ++ eb.map (fun i => 2 * i + 1))
  | _, _ => none

/-- The lane that carries a frame byte (R53). -/
def laneOf (i : Nat) : Nat := i % 64 / 16

/-! ### Lane level (R46, R55) -/

/-- `n` bits of PRBS31 (x^31 + x^28 + 1), with the register left behind. -/
def prbsBits : Nat → BitVec 31 → List Bool × BitVec 31
  | 0, r => ([], r)
  | n + 1, r =>
    let b := r.getLsbD 30 ^^ r.getLsbD 27
    let rest := prbsBits n ((r <<< 1) ||| (if b then 1 else 0))
    (b :: rest.1, rest.2)

/-- Bytes from bits, the first bit the most significant (R53). -/
def bytesOfBits : Nat → List Bool → List Byte
  | 0, _ => []
  | n + 1, l => (l.take 8).foldl (fun (a : Byte) b => (a <<< 1) ||| (if b then 1 else 0)) 0 :: bytesOfBits n (l.drop 8)

/-- The next IDLE payload and the register after it (R55). -/
def idlePayload (r : BitVec 31) : List Byte × BitVec 31 :=
  let p := prbsBits 2048 r
  (bytesOfBits 256 p.1, p.2)

/-- One bit through the self-synchronising scrambler x^58 + x^39 + 1 (R46). -/
def scrambleBit (r : BitVec 58) (b : Bool) : Bool × BitVec 58 :=
  let o := b ^^ (r.getLsbD 57 ^^ r.getLsbD 38)
  (o, (r <<< 1) ||| (if o then 1 else 0))

/-- The bits of a lane through its scrambler, with the register left behind (R46). -/
def scrambleBits : List Bool → BitVec 58 → List Bool × BitVec 58
  | [], r => ([], r)
  | b :: rest, r =>
    let s := scrambleBit r b
    let l := scrambleBits rest s.2
    (s.1 :: l.1, l.2)

/-- The PAM4 level of a bit pair, first transmitted bit first (R46). -/
def pam4Level (first second : Bool) : BitVec 2 :=
  match first, second with
  | false, false => 0
  | false, true => 1
  | true, true => 2
  | true, false => 3

/-- The levels of a lane's scrambled bits, pair by pair (R46). -/
def pam4Levels : List Bool → List (BitVec 2)
  | a :: b :: rest => pam4Level a b :: pam4Levels rest
  | _ => []

/-- The bytes of a frame that a lane carries, in order (R53). -/
def laneBytes (lane : Nat) (frame : List Byte) : List Byte := (List.range 5).flatMap fun t => bytesAt frame (64 * t + 16 * lane) 16

/-- The bits of bytes, most significant first (R53). -/
def bitsMsb (l : List Byte) : List Bool := l.flatMap fun b => (List.range 8).map fun i => b.getLsbD (7 - i)

end Sys2Proof.Machine
end

