-- ==== Sys2Proof/Machine/PlanParse.lean ====
section
/-!
DEFINITION. The plan container: header, section table, entries and descriptors, with admission check 0x01 (R272 to R279, R282, R287,
R299).
-/
namespace Sys2Proof.Machine

/-! ### Descriptors (R274, R279) -/

/-- A descriptor that no plan may hold: its code is reserved (R228). -/
def noDesc : Desc :=
  { op := 0, half := false, dramT := false, kind := 0, fmt := 0, site := 0, o0 := .none, o1 := .none, o2 := .none, o3 := .none,
    o4 := .none, o5 := .none, o6 := .none, o7 := .none, dim0 := .val 0, dim1 := .val 0, dim2 := .val 0, dim3 := .val 0, param := [] }

/-- A dimension field (R279). -/
def readDim (v : Nat) : Dim := if 2 ^ 63 ≤ v then .rows (BitVec.ofNat 40 v) else .val (BitVec.ofNat 63 v)

/-- The descriptor that 128 bytes spell; one with a malformed reference or a MODE bit outside the table stands as a reserved code,
which check 0x03 refuses (R274, R279). -/
def readDesc (l : List Byte) : Desc :=
  let mode := leAt l 1 1
  match (List.range 8).mapM fun i => readRef (leAt l (8 + 8 * i) 8) with
  | none => noDesc
  | some r =>
    if mode ≠ place mode 0 1 + place (mode / 4) 0 1 * 4 then noDesc
    else
      { op := BitVec.ofNat 8 (leAt l 0 1), half := mode.testBit 0, dramT := mode.testBit 2, kind := BitVec.ofNat 8 (leAt l 2 1),
        fmt := BitVec.ofNat 8 (leAt l 3 1), site := BitVec.ofNat 32 (leAt l 4 4), o0 := r.getD 0 .none, o1 := r.getD 1 .none,
        o2 := r.getD 2 .none, o3 := r.getD 3 .none, o4 := r.getD 4 .none, o5 := r.getD 5 .none, o6 := r.getD 6 .none,
        o7 := r.getD 7 .none, dim0 := readDim (leAt l 72 8), dim1 := readDim (leAt l 80 8), dim2 := readDim (leAt l 88 8),
        dim3 := readDim (leAt l 96 8), param := bytesAt l 104 24 }

/-! ### Sections (R273) -/

/-- An entry of the section table. -/
structure Section where
  type : Nat
  count : Nat
  off : Nat
deriving DecidableEq, Repr

/-- Entry bytes of a section type; none for a type that does not exist (R273). -/
def entryBytesOf (type : Nat) : Option Nat :=
  match type with
  | 1 => some 32 | 2 => some 32 | 3 => some 24 | 4 => some 128 | 5 => some 8 | 6 => some 32 | 7 => some 1 | _ => none

/-- The section table of a plan. -/
def sectionTable (l : List Byte) : List Section :=
  (List.range (leAt l 22 2)).map fun i =>
    { type := leAt l (64 + 16 * i) 4, count := leAt l (64 + 16 * i + 4) 4, off := leAt l (64 + 16 * i + 8) 8 }

/-- First byte and end of a section. -/
def sectionSpan (s : Section) : Nat × Nat := (s.off, s.off + s.count * (entryBytesOf s.type).getD 1)

/-- Two spans share a byte. -/
def spansMeet (a b : Nat × Nat) : Bool := decide (a.1 < b.2) && decide (b.1 < a.2) && decide (a.1 < a.2) && decide (b.1 < b.2)

/-- No two of the spans share a byte. -/
def spansApart : List (Nat × Nat) → Bool
  | [] => true
  | a :: t => t.all (fun b => !spansMeet a b) && spansApart t

/-- The section rules of R273. -/
def sectionsGood (length : Nat) (l : List Section) : Bool :=
  l.all (fun s => (entryBytesOf s.type).isSome && decide (64 + 16 * l.length ≤ s.off) && decide ((sectionSpan s).2 ≤ length) &&
    (s.type != 4 || decide (s.count ≤ 2 ^ 24))) &&
  decide ((l.map (·.type)).eraseDups.length = l.length) && spansApart (l.map sectionSpan) &&
  [1, 2, 3, 4].all (fun t => l.any fun s => s.type == t)

/-- The entries of a section; none where the plan has no such section. -/
def sectionEntries (raw : List Byte) (l : List Section) (type : Nat) : List (List Byte) :=
  match l.find? (·.type == type) with
  | some s => let n := (entryBytesOf type).getD 1
    (List.range s.count).map fun i => bytesAt raw (s.off + n * i) n
  | none => []

/-! ### Entries (R275, R277, R282, R299) -/

/-- A slot entry; none where a field is out of range. -/
def readSlot (l : List Byte) : Option Slot :=
  if leAt l 8 1 ≤ 2 ∧ leAt l 9 1 ≤ 3 ∧ (leAt l 10 1 ≤ 1 ∨ leAt l 10 1 = 0xF) ∧ leAt l 11 1 ≤ 7 ∧ leAt l 12 4 = 0 ∧ leAt l 24 8 = 0 then
    some { sizeMin := leAt l 0 8, cls := BitVec.ofNat 8 (leAt l 8 1), access := BitVec.ofNat 8 (leAt l 9 1),
           resident := BitVec.ofNat 8 (leAt l 10 1), flags := BitVec.ofNat 8 (leAt l 11 1), stride := leAt l 16 8 }
  else none

/-- A task entry within its sections. -/
def readTask (descs access : Nat) (l : List Byte) : Option TaskEntry :=
  let t : TaskEntry := { firstDesc := leAt l 0 4, descCount := leAt l 4 4, firstAccess := leAt l 8 4, accessCount := leAt l 12 2 }
  if 1 ≤ t.descCount ∧ t.descCount ≤ 65535 ∧ t.firstDesc + t.descCount ≤ descs ∧ t.accessCount ≤ 16 ∧
      t.firstAccess + t.accessCount ≤ access ∧ allZero (bytesAt l 14 18) = true then some t
  else none

/-- An access entry. -/
def readAccess (slots : Nat) (l : List Byte) : Option Access :=
  if leAt l 0 2 < slots ∧ 1 ≤ leAt l 2 1 ∧ leAt l 2 1 ≤ 3 ∧ allZero (bytesAt l 3 5) = true then
    some { slot := leAt l 0 2, mode := BitVec.ofNat 8 (leAt l 2 1), off := leAt l 8 8, len := leAt l 16 8 }
  else none

/-- A prefetch entry. -/
def readPrefetch (tasks slots : Nat) (l : List Byte) : Option Prefetch :=
  if leAt l 0 2 < tasks ∧ leAt l 2 2 < slots ∧ leAt l 4 1 = 1 ∧ leAt l 5 1 ≤ 1 ∧ leAt l 6 2 = 0 then
    some { task := leAt l 0 2, slot := leAt l 2 2, tier := 1, pin := (leAt l 5 1).testBit 0 }
  else none

/-- A collective entry. -/
def readColl (slots : Nat) (l : List Byte) : Option CollEntry :=
  if leAt l 4 2 < slots ∧ leAt l 6 2 = 0 ∧ 1 ≤ leAt l 8 4 ∧ leAt l 8 4 ≤ 65536 ∧ allZero (bytesAt l 16 16) = true then
    some { id := BitVec.ofNat 32 (leAt l 0 4), rankSlot := leAt l 4 2, ranks := leAt l 8 4, histBase := BitVec.ofNat 32 (leAt l 12 4) }
  else none

/-! ### The header (R272) -/

/-- The header ranges of R272. -/
def headerGood (l : List Byte) : Bool :=
  let serving := (leAt l 9 1).testBit 0
  let maxRows := leAt l 36 4
  leAt l 0 4 == 0x4C50524E && leAt l 4 2 == 1 && decide (leAt l 8 1 ≤ 3) && decide (leAt l 9 1 ≤ 3) &&
    decide (1 ≤ leAt l 10 1) && decide (leAt l 10 1 ≤ 16) && leAt l 11 1 == 0 && leAt l 12 4 % 4096 == 0 &&
    decide (leAt l 10 1 * leAt l 12 4 ≤ 480 * 1024) && decide (1 ≤ leAt l 16 4) && decide (leAt l 16 4 ≤ 65535) &&
    decide (1 ≤ leAt l 20 2) && decide (leAt l 20 2 ≤ 4096) && allZero (bytesAt l 48 12) &&
    (if serving then
      decide (1 ≤ leAt l 28 2) && decide (leAt l 28 2 ≤ 1024) && decide (1 ≤ leAt l 30 2) && decide (leAt l 30 2 ≤ maxRows) &&
        decide (1 ≤ leAt l 32 4) && decide (leAt l 32 4 ≤ 65536) && decide (1 ≤ maxRows) && decide (maxRows ≤ 16384)
     else allZero (bytesAt l 28 12))

/-- PCRC holds over the whole plan, computed with its field as zero (R272). -/
def planCrcHolds (l : List Byte) : Bool := bytesAt l 60 4 == crcBytes (putBytes l 60 (zeros 4))

/-- Bytes of a plan that its header announces: at most 64 MiB (R272). -/
def planLength (l : List Byte) : Nat := leAt l 40 8

/-- The plan that the bytes spell, when the container and every entry are good (R287 check 0x01). -/
def parsePlan (bytes : List Byte) : Option Plan :=
  let n := planLength bytes
  let secs := sectionTable bytes
  let raw := bytes.take n
  if 64 ≤ bytes.length ∧ 64 + 16 * secs.length ≤ n ∧ n ≤ 64 * 2 ^ 20 ∧ n ≤ bytes.length ∧ planCrcHolds raw = true ∧
      headerGood raw = true ∧ sectionsGood n secs = true then
    let slots := sectionEntries raw secs 1
    let tasks := sectionEntries raw secs 2
    let access := sectionEntries raw secs 3
    let descs := sectionEntries raw secs 4
    match slots.mapM readSlot, tasks.mapM (readTask descs.length access.length), access.mapM (readAccess slots.length),
        (sectionEntries raw secs 5).mapM (readPrefetch tasks.length slots.length),
        (sectionEntries raw secs 6).mapM (readColl slots.length) with
    | some sl, some ta, some ac, some pf, some co =>
      if slots.length = leAt raw 20 2 ∧ tasks.length = leAt raw 16 4 ∧ (sl.filter fun s => s.flags.getLsbD 1).length ≤ 1 ∧
          (sl.filter fun s => s.flags.getLsbD 2).length ≤ 1 then
        some
          { numRev := leAt raw 6 2, service := BitVec.ofNat 8 (leAt raw 8 1), serving := (leAt raw 9 1).testBit 0,
            rowIndep := (leAt raw 9 1).testBit 1, tasksPerCore := leAt raw 10 1, scratch := leAt raw 12 4,
            stepTasks := leAt raw 16 4, histRows := leAt raw 24 4, maxCtx := leAt raw 28 2, prefillRows := leAt raw 30 2,
            maxPos := leAt raw 32 4, maxRows := leAt raw 36 4, slots := sl, tasks := ta, access := ac, descs := descs.map readDesc,
            prefetch := pf, colls := co, params := (sectionEntries raw secs 7).flatten }
      else none
    | _, _, _, _, _ => none
  else none

end Sys2Proof.Machine
end

