-- ==== Sys2Proof/Machine/Admission.lean ====
section
/-!
DEFINITION. Admission of a job: the checks of R287 on its plan and bindings, with R172, R203, R221, R222, R229, R265, R276, R277, R472
and R473.
-/
namespace Sys2Proof.Machine

/-! ### What the checks look at -/

/-- A plan with the bindings and steps of its job. -/
structure Bound where
  plan : Plan
  binds : List Word
  /-- size of each slot's tensor; none where the number is not in use -/
  sizes : List (Option Nat)
  steps : Nat
deriving DecidableEq, Repr

/-- A CREATE slot (R275). -/
def isCreate (s : Slot) : Bool := s.flags.getLsbD 0

/-- The size of a slot's tensor: SIZE_MIN for a CREATE slot (R275). -/
def slotSize (m : Sys) (s : Slot) (a : Word) : Option Nat :=
  if isCreate s then some s.sizeMin
  else if userNumber (tnumOf a) then (tensorOf m (tnumOf a)).map (·.size) else none

/-- Base of a slot. -/
def slotBase (b : Bound) (s : Nat) : Nat := offsetOf (b.binds.getD s 0)

/-- Bytes [off, off + len) of a slot lie within its tensor in every step (R276, R287). A slot whose tensor is not known passes here
and is refused by check 0x04. -/
def slotFits (b : Bound) (s off len : Nat) : Bool :=
  match b.sizes.getD s none with
  | some size => decide (slotBase b s + off + len + (slotOf b.plan s).stride * (b.steps - 1) ≤ size)
  | none => true

/-- Access entries of a task. -/
def taskAccess (p : Plan) (t : TaskEntry) : List Access := (p.access.drop t.firstAccess).take t.accessCount

/-- Every byte of [lo, hi) of a slot lies within an access entry whose mode has all of `bits` (R277). -/
def accessCovers (l : List Access) (s lo hi : Nat) (bits : List Nat) : Bool :=
  let mine := sortBy (fun a b => decide (a.off < b.off)) (l.filter fun a => a.slot == s && bits.all a.mode.getLsbD)
  decide (hi ≤ mine.foldl (fun x a => if a.off ≤ x then max x (a.off + a.len) else x) lo)

/-- Coverage by the access entries of a descriptor's task; a descriptor that no task holds has none to be covered by. -/
def covers (acc : Option (List Access)) (s lo hi : Nat) (bits : List Nat) : Bool :=
  match acc with
  | some l => accessCovers l s lo hi bits
  | none => true

/-! ### One descriptor (check 0x03) -/

/-- A dimension counts rows (R279). -/
def usesRows (d : Desc) : Bool := [d.dim0, d.dim1, d.dim2, d.dim3].any fun x => match x with
  | .rows _ => true
  | .val _ => false

/-- A reference names a slot of the plan, or a scratch byte below SCRATCH (R274). -/
def refGood (p : Plan) : ORef → Bool
  | .slot s _ => decide (s.toNat < p.slots.length)
  | .scratch o => decide (o.toNat < p.scratch)
  | _ => true

/-- A use lies in its space and within the access entries (R274, R277, R287, R472). -/
def useGood (b : Bound) (acc : Option (List Access)) (u : Use) : Bool :=
  match u.ref with
  | .scratch o => decide (o.toNat + u.off + u.len ≤ b.plan.scratch)
  | .slot s o =>
    refGood b.plan u.ref && (u.len == 0 ||
      (slotFits b s.toNat (o.toNat + u.off) u.len &&
        covers acc s.toNat (o.toNat + u.off) (o.toNat + u.off + u.len) [if u.out then 1 else 0]))
  | _ => true

/-- Two stretches that move by a fixed stride each step meet in some step of `n`: the gap from the second to the first is `gap`, it
grows by `grow` a step. -/
def meetInSteps (gap grow : Int) (la lb n : Nat) : Bool :=
  let meets (k : Nat) : Bool := decide (-(la : Int) < gap + grow * k) && decide (gap + grow * k < lb)
  if grow = 0 then meets 0
  else
    let k := if 0 < grow then (-(la : Int) - gap) / grow + 1 else (gap - lb) / (-grow) + 1
    let k := if k < 0 then 0 else k.toNat
    decide (k < max 1 n) && meets k

/-- Two uses share a byte, in scratch or in a tensor, in some step (R229, R276). -/
def usesMeet (b : Bound) (u v : Use) : Bool :=
  if u.len = 0 ∨ v.len = 0 then false
  else match u.ref, v.ref with
    | .scratch o, .scratch q => spansMeet (o.toNat + u.off, o.toNat + u.off + u.len) (q.toNat + v.off, q.toNat + v.off + v.len)
    | .slot s o, .slot t q =>
      let x := slotBase b s.toNat + o.toNat + u.off
      let y := slotBase b t.toNat + q.toNat + v.off
      (s == t || ((b.sizes.getD s.toNat none).isSome && tnumOf (b.binds.getD s.toNat 0) == tnumOf (b.binds.getD t.toNat 0))) &&
        meetInSteps ((x : Int) - y) (((slotOf b.plan s.toNat).stride : Int) - (slotOf b.plan t.toNat).stride) u.len v.len b.steps
    | _, _ => false

/-- The input with which an output may coincide exactly (R233, R240, R246), or which is the output's own old contents (R247). -/
def placeOperand (d : Desc) : ORef :=
  if d.op = 0x01 then d.o5
  else if d.op = 0x10 then d.o0
  else if d.op = 0x14 ∧ d.kind = 6 then d.o0
  else if d.op = 0x23 then d.o6
  else .none

/-- No output overlaps an input, except in place, or another output (R229). -/
def outputsApart (b : Bound) (d : Desc) (s : Shape) : Bool :=
  let ins := s.uses.filter fun u => !u.out
  let outs := s.uses.filter (·.out)
  outs.all (fun v =>
    let same := ins.filter fun u => u.ref == v.ref && u.off == v.off && u.len == v.len
    let mayPlace := placeOperand d == v.ref && same.length == 1
    ins.all fun u => !usesMeet b u v || (mayPlace && same.contains u)) &&
  ((List.range outs.length).all fun i => (List.range i).all fun k =>
    match outs[i]?, outs[k]? with
    | some u, some v => !usesMeet b u v
    | _, _ => true)

/-- The slot of a tensor descriptor's operand, and the modes in which it must be covered (R472). -/
def tensorReach (d : Desc) : List (ORef × List Nat) :=
  if d.op = 0x60 ∨ d.op = 0x61 ∨ d.op = 0x66 ∨ d.op = 0x68 then [(d.o0, [1])]
  else if d.op = 0x67 then [(d.o1, [0, 1]), (d.o0, [1])]
  else []

/-- A tensor descriptor's slots: CREATE where it creates or deletes, SIZE at least SIZE_MIN, and coverage (R275, R281, R472). -/
def tensorDescGood (b : Bound) (acc : Option (List Access)) (d : Desc) : Bool :=
  let slot := match d.o0 with
    | .slot s _ => slotOf b.plan s.toNat
    | _ => ⟨0, 0, 0, 0, 0, 0⟩
  let size := match d.o2 with
    | .plan o => leAt b.plan.params o.toNat 8
    | _ => 0
  ((d.op != 0x60 && d.op != 0x61) || isCreate slot) && (d.op != 0x60 || decide (slot.sizeMin ≤ size)) &&
    (tensorReach d).all fun e => match e.1 with
      | .slot s _ => (match b.sizes.getD s.toNat none with
        | some n => covers acc s.toNat 0 n e.2
        | none => true)
      | _ => true

/-- The tensor of a record operand is a whole number of records (R265). -/
def recordsWhole (b : Bound) (d : Desc) (reclen : Nat) : Bool :=
  match d.o0 with
  | .slot s _ => (match b.sizes.getD s.toNat none with
    | some n => n % reclen == 0
    | none => true)
  | _ => true

/-- Check 0x03 on one descriptor, with the access entries of a task that holds it; row counts are taken at MAX_ROWS (R279, R287). -/
def descGood (b : Bound) (acc : Option (List Access)) (d : Desc) : Bool :=
  match shapeOf b.plan.params (planRanks b.plan) b.plan.maxRows d with
  | none => false
  | some s =>
    (b.plan.serving || !usesRows d) && (List.range 8).all (fun i => refGood b.plan (operand d i)) &&
      s.uses.all (useGood b acc) && outputsApart b d s &&
      (decide (d.op < 0x60) || decide (0x68 < d.op) || tensorDescGood b acc d) &&
      ((d.op != 0x40 && d.op != 0x41) || recordsWhole b d (dimVal b.plan.maxRows d.dim2))

/-- An access entry lies within its slot, in a mode that the slot's ACCESS allows (R277). -/
def accessGood (b : Bound) (a : Access) : Bool :=
  let s := slotOf b.plan a.slot
  (!a.mode.getLsbD 0 || s.access.getLsbD 0) && (!a.mode.getLsbD 1 || s.access.getLsbD 1) && slotFits b a.slot a.off a.len

/-- Descriptors of a task. -/
def taskDescs (p : Plan) (t : TaskEntry) : List Desc := (p.descs.drop t.firstDesc).take t.descCount

/-- Check 0x03 (R287). -/
def check03 (b : Bound) : Bool :=
  b.plan.tasks.all (fun t => (taskDescs b.plan t).all (descGood b (some (taskAccess b.plan t)))) &&
    ((List.range b.plan.descs.length).all fun i =>
      b.plan.tasks.any (fun t => decide (t.firstDesc ≤ i) && decide (i < t.firstDesc + t.descCount)) ||
        descGood b none (b.plan.descs.getD i noDesc)) &&
    b.plan.access.all (accessGood b)

/-! ### Bindings and residence (checks 0x04, 0x05) -/

/-- Check 0x04 on a slot (R287). -/
def bindingGood (m : Sys) (s : Slot) (a : Word) : Bool :=
  let n := tnumOf a
  if isCreate s then userNumber n && isFree m n
  else match tensorOf m n with
    | some t =>
      userNumber n && (s.cls == 2 || (s.cls == 1) == t.isSealed) && !(s.access.getLsbD 1 && t.isSealed) && decide (s.sizeMin ≤ t.size)
    | none => false

/-- The tensor holds its home or a copy in a tier (R275). -/
def holdsIn (t : Tensor) (tier : Byte) : Bool :=
  if tier = 0 then t.copy0.isSome || (match t.place with
    | .t0 _ => true
    | _ => false)
  else t.copy1.isSome || (match t.place with
    | .t1 _ => true
    | _ => false)

/-- Check 0x05 on a slot (R287). -/
def residentGood (m : Sys) (s : Slot) (a : Word) : Bool :=
  s.resident == 0xF || (match tensorOf m (tnumOf a) with
    | some t => holdsIn t s.resident
    | none => false)

/-! ### History (check 0x06) -/

/-- Descriptors that a step runs, in plan order; one that two tasks hold runs twice. -/
def stepDescs (p : Plan) : List Desc := p.tasks.flatMap (taskDescs p)

/-- The collectives of a step: ALLREDUCE, ALLGATHER, and each SELECT over the ranks of a collective (R256, R258). -/
def siteDescs (p : Plan) : List Desc :=
  (stepDescs p).filter fun d => d.op == 0x38 || d.op == 0x39 || (d.op == 0x31 && dpar d 104 4 != 0xFFFFFFFF)

/-- An L8 collective (R217). -/
def isL8 (d : Desc) : Bool := d.fmt == 1

/-- Rows that a collective's site has in the scale history: those of an ALLREDUCE, and the one of an L8 ALLGATHER (R221). -/
def siteRows (p : Plan) (d : Desc) : Nat :=
  if d.op = 0x38 then dimVal p.maxRows d.dim0 else if d.op = 0x39 ∧ isL8 d = true then 1 else 0

/-- The history rows of a site with a HIST_BASE lie within HIST_ROWS (R221, R282, R287). -/
def historyRowsGood (p : Plan) (d : Desc) : Bool :=
  let e := p.colls.getD (dpar d 104 4) ⟨0, 0, 1, 0⟩
  siteRows p d == 0 || e.histBase == 0xFFFFFFFF || decide (e.histBase.toNat + siteRows p d ≤ p.histRows)

/-- H is +0 or a positive finite binary32 value (R222). -/
def historyValueGood (v : Nat) : Bool := v == 0 || (decide (0 < v) && decide (v < 0x7F800000))

/-- The history belongs to the step before the job's first (R222). -/
def historyGood (seed startStep rows : Nat) (l : List Byte) : Bool :=
  leAt l 0 8 == seed && decide (1 ≤ startStep) && leAt l 8 4 == startStep - 1 &&
    (List.range rows).all fun i => historyValueGood (leAt l (16 + 4 * i) 4)

/-! ### The job's own fields (R284) -/

/-- SEED, START_STEP, STEPS, BUDGET and PF_DIST of a JOB_SUBMIT. -/
def subSeed (c : Cmd) : Nat := par c 48 8
def subStart (c : Cmd) : Nat := par c 56 4
def subSteps (c : Cmd) : Nat := par c 60 4
def subBudget (c : Cmd) : Nat := par c 64 8
def subPfDist (c : Cmd) : Nat := par c 72 1
/-- Tensor numbers of PLAN and BINDINGS. -/
def subPlan (c : Cmd) : Nat := par c 32 8 / 2 ^ 40
def subBinds (c : Cmd) : Nat := par c 40 8 / 2 ^ 40

/-! ### Admission (R287, R473) -/

/-- What the checks find. -/
inductive Checked where
  | refuse (code : Nat) (e : Ending)
  | pass (b : Bound)
deriving DecidableEq, Repr

/-- A check that fails. -/
def refuseBad (code : Nat) : Checked := .refuse code (ending stBadCommand)

/-- Read bytes that a check needs; the ending where they meet a data error (R473) or cannot be read. -/
def admitRead (n off len : Nat) (m : Sys) : (List Byte × Option Ending) × Sys :=
  match tensorOf m n with
  | none => ((zeros len, some (ending stBadCommand)), m)
  | some t =>
    if t.size < off + len then ((zeros len, some (ending stBadCommand)), m)
    else if t.state = .building then ((zeros len, some (ending stBusy)), m)
    else
      let r := readTensor n off len m
      let e := readEnding n r.1
      ((r.1.bytes, if e.status = stDone then none else some e), r.2)

/-- The plan's bytes: its header, and then as many as it announces. -/
def readPlan (n : Nat) (m : Sys) : (List Byte × Option Ending) × Sys :=
  let h := admitRead n 0 64 m
  match h.1.2 with
  | some _ => h
  | none =>
    let size := ((tensorOf h.2 n).map (·.size)).getD 0
    admitRead n 0 (min size (min (max 64 (planLength h.1.1)) (64 * 2 ^ 20))) h.2

/-- What check 0x06 finds in the tensor that holds the history: its header and H as one below the first step, or all of its bytes
zero (R222). -/
def historyCheck (c : Cmd) (rows n base size : Nat) (m : Sys) : Option Ending × Sys :=
  let r := admitRead n base (min (16 + 4 * rows) (size - base)) m
  match r.1.2 with
  | some e => (some e, r.2)
  | none =>
    if historyGood (subSeed c) (subStart c) rows r.1.1 then (none, r.2)
    else if !allZero r.1.1 then (some (ending stBadCommand), r.2)
    else
      let w := admitRead n 0 size r.2
      match w.1.2 with
      | some e => (some e, w.2)
      | none => (if allZero w.1.1 then none else some (ending stBadCommand), w.2)

/-- Check 0x06 of R287 and R221, R222. A history slot with CREATE has SIZE_MIN bytes and nothing in it yet (R275). -/
def check06 (c : Cmd) (b : Bound) (m : Sys) : Option Ending × Sys :=
  let p := b.plan
  let bad : Option Ending := some (ending stBadCommand)
  let sites := (siteDescs p).map (·.site)
  let l8 := (siteDescs p).any fun d => (d.op == 0x38 || d.op == 0x39) && isL8 d
  let short (s size : Nat) : Bool := l8 && decide (size - slotBase b s < 16 + 4 * p.histRows)
  if sites.eraseDups.length ≠ sites.length ∨ (siteDescs p).all (historyRowsGood p) = false then (bad, m)
  else match historySlot p with
    | none => (if l8 then bad else none, m)
    | some s =>
      let n := tnumOf (b.binds.getD s 0)
      match tensorOf m n with
      | none => (if short s ((b.sizes.getD s none).getD 0) then bad else none, m)
      | some t => if t.isSealed = true ∨ short s t.size = true then (bad, m) else historyCheck c p.histRows n (slotBase b s) t.size m

/-- Check 0x07 on the collectives, one after another. -/
def check07 (b : Bound) : List CollEntry → Sys → Option Ending × Sys
  | [], m => (none, m)
  | e :: rest, m =>
    let r := admitRead (tnumOf (b.binds.getD e.rankSlot 0)) (slotBase b e.rankSlot) (2 * e.ranks) m
    match r.1.2 with
    | some x => (some x, r.2)
    | none =>
      if (List.range e.ranks).any fun i => leAt r.1.1 (2 * i) 2 == (ownAddr r.2).toNat then check07 b rest r.2
      else (some (ending stBadCommand), r.2)

/-- Check 0x08 (R287): serving, and strides of zero (R276). A row map with CREATE has SIZE_MIN bytes (R275). -/
def check08 (m : Sys) (b : Bound) : Bool :=
  let p := b.plan
  p.serving == (b.steps == 0) &&
    (!p.serving ||
      (p.slots.all (fun s => s.stride == 0) &&
        (match indexOf? (fun s => s.flags.getLsbD 2) p.slots with
          | some s => (match b.sizes.getD s none with
            | some n => decide (slotBase b s + 20 * p.maxRows ≤ n) &&
              !((tensorOf m (tnumOf (b.binds.getD s 0))).map (·.isSealed)).getD false
            | none => false)
          | none => false)))

/-- Checks 0x05 to 0x08, in order. -/
def laterChecks (c : Cmd) (b : Bound) (m : Sys) : Checked × Sys :=
  let pairs := b.plan.slots.zip b.binds
  if !pairs.all fun e => bindingGood m e.1 e.2 then (refuseBad 0x04, m)
  else if !pairs.all fun e => residentGood m e.1 e.2 then (refuseBad 0x05, m)
  else
    let h := check06 c b m
    match h.1 with
    | some e => (.refuse 0x06 e, h.2)
    | none =>
      let r := check07 b b.plan.colls h.2
      match r.1 with
      | some e => (.refuse 0x07 e, r.2)
      | none => if check08 r.2 b then (.pass b, r.2) else (refuseBad 0x08, r.2)

/-- The checks 0x01 to 0x08 on a JOB_SUBMIT (R287). The binding table is read for check 0x04; what check 0x03 says without it comes
first (log entry 21). -/
def admissionChecks (c : Cmd) (m : Sys) : Checked × Sys :=
  let r := readPlan (subPlan c) m
  match r.1.2 with
  | some e => (.refuse 0x01 e, r.2)
  | none => match parsePlan r.1.1 with
    | none => (refuseBad 0x01, r.2)
    | some p =>
      if r.2.boot.numRev.toNat < p.numRev then (refuseBad 0x02, r.2)
      else
        let t := admitRead (subBinds c) 0 (8 * p.slots.length) r.2
        let binds := (List.range p.slots.length).map fun i => BitVec.ofNat 64 (leAt t.1.1 (8 * i) 8)
        let b : Bound :=
          { plan := p, binds, steps := subSteps c,
            sizes := match t.1.2 with
              | none => (p.slots.zip binds).map fun e => slotSize t.2 e.1 e.2
              | some _ => p.slots.map fun _ => none }
        if !check03 b then (refuseBad 0x03, t.2)
        else match t.1.2 with
          | some e => (.refuse 0x04 e, t.2)
          | none => laterChecks c b t.2

end Sys2Proof.Machine
end

