-- ==== Sys2Proof/Machine/SearchEnd.lean ====
section
/-!
DEFINITION. The context of a search command, and how a search command ends: its snapshot, its list for a leader, and the tensors that
older snapshots hold (R317, R318, R336, R339, R343).
-/
namespace Sys2Proof.Machine

/-! ### Snapshots (R318, R336) -/

/-- The index that a command names in bytes 32 to 33, as its snapshot has it; the registry at the end of the previous turn for a command that
is not dispatched yet (R318). -/
def indexOf (m : Sys) (c : Cmd) : Option Index := match m.search.seen.find? fun e => sameCmd c e.1 with
  | some e => e.2
  | none => tfind (par c 32 2) m.search.prior

/-- An index names a tensor as its root, a component or a segment. -/
def Index.names (i : Index) (n : TNum) : Bool := i.root == n || i.parts.contains n || i.segments.any fun s => s.tensor == n

/-- A snapshot of a command in progress holds the tensor. -/
def heldBySnap (m : Sys) (n : TNum) : Bool := m.search.seen.any fun e => (e.2.map fun i => i.names n).getD false

/-- Delete a tensor of the module's own making (R329, R336). -/
def removeTensor (n : TNum) (m : Sys) : Sys := match tensorOf m n.toNat with
  | some t => dropTensor n.toNat t m
  | none => m

/-- Delete a list of tensors. -/
def removeAll (l : List TNum) : Sys → Sys := forEach l removeTensor

/-- Superseded tensors whose last search has ended are deleted (R336). -/
def releaseOld (m : Sys) : Sys :=
  forEach m.search.registry (fun e m =>
    let gone := e.2.old.filter fun n => !heldBySnap m n
    if gone.isEmpty then m
    else removeAll gone (onSearch (fun x => { x with
      registry := match tfind e.1 x.registry with
        | some v => tset e.1 { v with old := v.old.filter fun n => !gone.contains n } x.registry
        | none => x.registry }) m)) m

/-! ### The end of a search command (R317, R327, R339, R343) -/

/-- The context of a search command ends, with what it read. -/
def dropSearchCtx (c : Cmd) (m : Sys) : Sys :=
  onJob (fun j => { j with
    waiting := j.waiting.filter (fun x => !sameCmd x.cmd c), ctxs := j.ctxs.filter fun e => !sameCmd e.2.cmd c })
    (onSearch (fun x => { x with snaps := x.snaps.filter fun s => !sameCmd s.1 c }) m)

/-- The leader that a sub-search answers. -/
def leaderOf (m : Sys) (c : Cmd) : Option (Addr × List Byte) := (m.search.leaders.find? fun e => sameCmd e.1 c).map (·.2)

/-- The record of a SEARCH goes to the rook, or to the leader of a sub-search (R339). A search that is refused at dispatch is counted
nowhere (R15). -/
def refuseSearch (c : Cmd) (e : Ending) (m : Sys) : Sys :=
  let lead := leaderOf m c
  let m := dropSearchCtx c (onSearch (fun x => { x with
    leaders := x.leaders.filter (fun l => !sameCmd l.1 c), shards := x.shards.filter fun s => !sameCmd s.cmd c }) m)
  releaseOld (match lead with
    | some (a, _) =>
      if live m then sendBlock { completionBlock m c (recordBytes (ownAddr m) c e) with dst := a } (takeEvent 8 (dropCmd c m))
      else dropCmd c m
    | none => complete c e m)

/-- A SEARCH ends and is counted (R343). -/
def endSearch (c : Cmd) (e : Ending) (m : Sys) : Sys :=
  refuseSearch c e (onSearch (fun x => { x with
    searches := satInc x.searches, shorts := if e.status = stShort then satInc x.shorts else x.shorts }) m)

/-- A search command that has not begun its work ends with its job, or with its service (R307, R317). -/
def dropSearch (status : Byte) (c : Cmd) (m : Sys) : Sys :=
  if c.opcode = 0x24 then endSearch c { ending status with conds := condition status } m
  else releaseOld (complete c { ending status with conds := condition status } (dropSearchCtx c m))

end Sys2Proof.Machine
end

