-- ==== Sys2Proof/Machine/JobRun.lean ====
section
/-!
DEFINITION. A job from its set-up to its end: steps, task order, prefetch, rows of a serving step, and the end of contexts and of the
job (R278, R285, R288 to R296, R299 to R304).
-/
namespace Sys2Proof.Machine

/-! ### Costs and the expiry point (R173, R293) -/

/-- The nominal cost of a descriptor in the current step (R173). -/
def descCost (j : Job) (d : Desc) : Nat := ((shapeNow j d).map (·.cost)).getD 0

/-- The descriptors of the current step in plan order: (task, index, cost). -/
def stepCosts (j : Job) : List (Nat × Nat × Nat) :=
  (List.range j.plan.tasks.length).flatMap fun t =>
    let e := entryOf j t
    (List.range e.descCount).map fun i => (t, i, descCost j (j.plan.descs.getD (e.firstDesc + i) noDesc))

/-- The first descriptor at which the running sum passes the budget (R293). -/
def firstOver (budget : Nat) : Nat → List (Nat × Nat × Nat) → Option (Nat × Nat)
  | _, [] => none
  | sum, (t, i, c) :: rest => if budget < sum + c then some (t, i) else firstOver budget (sum + c) rest

/-- The expiry descriptor of a step (R293). -/
def expiryOf (j : Job) : Option (Nat × Nat) := if j.budget = 0 then none else firstOver j.budget j.pips (stepCosts j)

/-- The step may issue descriptor `i` of task `t` (R293). -/
def inBudget (j : Job) (t i : Nat) : Bool :=
  match j.expiry with
  | none => true
  | some (u, k) => decide (t < u) || (t == u && decide (i ≤ k))

/-! ### Task order (R278) -/

/-- The bytes of an access entry in the current step: tensor number, first byte, end, mode. -/
def accessSpan (j : Job) (a : Access) : Nat × Nat × Nat × Byte :=
  let x := slotAddr j a.slot a.off
  (x / 2 ^ 40, x % 2 ^ 40, x % 2 ^ 40 + a.len, a.mode)

/-- Two access entries conflict: they share a byte and one of them writes it (R278). -/
def accessConflict (j : Job) (a b : Access) : Bool :=
  let x := accessSpan j a
  let y := accessSpan j b
  x.1 == y.1 && spansMeet (x.2.1, x.2.2.1) (y.2.1, y.2.2.1) && (x.2.2.2.getLsbD 1 || y.2.2.2.getLsbD 1)

/-- Task `t` waits for the earlier task `u` (R278). -/
def dependsOn (j : Job) (t u : Nat) : Bool :=
  (taskAccess j.plan (entryOf j u)).any fun a => (taskAccess j.plan (entryOf j t)).any fun b => accessConflict j a b

/-- Every earlier task that task `t` depends on has completed (R278). -/
def depsDone (j : Job) (t : Nat) : Bool :=
  (List.range t).all fun u => (taskAt j u).phase == .done || !dependsOn j t u

/-! ### Prefetch (R299) -/

/-- One prefetch entry is issued for flat position `pos`. A pin that R162 refuses abandons it (R165). -/
def prefetchOne (pos : Nat) (e : Prefetch) (m : Sys) : Sys :=
  match m.jobs.job with
  | none => m
  | some j =>
    let n := slotNumber j e.slot
    match tensorOf m n with
    | none => m
    | some t =>
      if t.state = .building then m
      else if e.pin && (t.pins == 0xFFFF || !pinAllowed m (pinExtra t)) then
        onRange (fun r => { r with prefetchLost := satInc r.prefetchLost }) (addTotal 29 1 m)
      else
        let m := onlyIf e.pin (fun m =>
          onJob (fun j => { j with pfPins := j.pfPins ++ [(pos, BitVec.ofNat 24 n)] }) (raisePin n m)) m
        if holdsIn t 1 || t.motion.isSome then m
        else moveNow (.prefetch pos e.pin) n 1 false noCores m

/-- The prefetches of the task at a flat position, where the job has such a task. -/
def prefetchAt (pos : Nat) (m : Sys) : Sys :=
  match m.jobs.job with
  | none => m
  | some j =>
    if j.stopping.isSome || (!j.plan.serving && decide (j.steps * j.plan.stepTasks ≤ pos)) then m
    else forEach (j.plan.prefetch.filter fun e => e.task == pos % j.plan.stepTasks) (prefetchOne pos) m

/-- Flat position of a task of the current step. -/
def flatPos (j : Job) (t : Nat) : Nat := (j.step - j.startStep) * j.plan.stepTasks + t

/-! ### Steps (R290, R293, R301) -/

/-- Tasks whose order allows it become ready, and their prefetches are issued (R278, R299). -/
def wakeTasks (m : Sys) : Sys :=
  forEach (List.range (((m.jobs.job.map fun j => j.plan.tasks.length)).getD 0)) (fun t m =>
    match m.jobs.job with
    | none => m
    | some j =>
      if (taskAt j t).phase == .waiting && inBudget j t 0 && depsDone j t then
        prefetchAt (flatPos j t + j.pfDist) (onTaskRun t (fun x => { x with phase := .ready }) m)
      else m) m

/-- A step begins with every task waiting, none of its conditions or history noted, and its expiry point known (R290, R293). -/
def beginStep (m : Sys) : Sys :=
  wakeTasks (onJob (fun j => { j with expiry := expiryOf j }) (onJob (fun j => { j with
    tasks := (j.tasks.map fun e => (e.1, { taskFresh with replaced := e.2.replaced })).filter fun e => e.2.replaced != 0,
    hist := [], inStep := true }) m))

/-- Rows that a context takes in a step with `room` rows left (R301). -/
def ctxRows (p : Plan) (no : Nat) (x : Ctx) (room : Nat) : List Row :=
  if x.pos < x.prompt.length then
    (span x.pos (min room (min p.prefillRows (x.prompt.length - x.pos)))).map fun k =>
      { token := x.prompt.getD k 0, ctx := no, pos := k, emit := k + 1 == x.prompt.length }
  else if room = 0 then []
  else [{ token := x.emitted.getLastD 0, ctx := no, pos := x.pos, emit := true }]

/-- The rows of a step over contexts in order (R301). -/
def formRows (p : Plan) : List (Nat × Ctx) → List Row → List Row
  | [], acc => acc
  | (no, x) :: rest, acc => formRows p rest (acc ++ ctxRows p no x (p.maxRows - acc.length))

/-- Active contexts in ascending number, starting after the one last given a row (R301). -/
def rowOrder (j : Job) : List (Nat × Ctx) :=
  let l := j.ctxs.filter fun e => !e.2.search
  (l.filter fun e => decide (j.lastRow < e.1)) ++ (l.filter fun e => decide (e.1 ≤ j.lastRow))

/-- The lowest context number not in use. -/
def freeCtx (t : Tab Ctx) : Nat := ((List.range (t.length + 1)).find? fun i => (tfind i t).isNone).getD 0

/-- Waiting contexts that were dispatched before this turn join in dispatch order while the plan has room (R301, R308). -/
def joinCtxs (limit turn : Nat) : List Ctx → Tab Ctx → List Ctx × Tab Ctx
  | [], t => ([], t)
  | x :: rest, t => if limit ≤ t.length ∨ turn ≤ x.turn then (x :: rest, t) else joinCtxs limit turn rest (tset (freeCtx t) x t)

/-- Contexts of the job that wait and that `which` selects join (R301, R317). -/
def joinOf (m : Sys) (j : Job) (which : Ctx → Bool) : List Ctx × Tab Ctx :=
  let r := joinCtxs (min 1024 j.plan.maxCtx) (now m) (j.waiting.filter which) j.ctxs
  (j.waiting.filter fun x => !which x || r.1.contains x, r.2)

/-- Search contexts of the running serving job become active in the turn after their dispatch, while fewer than MAX_CTX are (R317). -/
def joinSearches (m : Sys) : Sys := match m.jobs.job with
  | none => m
  | some j =>
    if !j.plan.serving || j.admitting || j.stopping.isSome then m
    else
      let r := joinOf m j (·.search)
      onJob (fun j => { j with waiting := r.1, ctxs := r.2 }) m

/-- The entry of array `a` of the row map for a row (R302). -/
def rowEntry (p : Plan) (a : Nat) (r : Row) : Nat :=
  match a with
  | 0 => r.token.toNat
  | 1 => r.ctx
  | 2 => r.pos
  | 3 => r.ctx * p.maxPos + r.pos
  | _ => if r.emit then 1 else 0

/-- Write the row map into the ROWMAP slot; a data error there stops the job (R302). -/
def writeRowMap (m : Sys) : Sys :=
  match m.jobs.job with
  | none => m
  | some j =>
    match indexOf? (fun s => s.flags.getLsbD 2) j.plan.slots with
    | none => m
    | some s =>
      let r := (List.range 5).foldl (fun r a =>
        addrWrite (slotAddr j s (4 * j.plan.maxRows * a)) (j.rows.flatMap fun x => leBytes 4 (rowEntry j.plan a x)) r) (runOf 0 m)
      if r.failed then stopJob .condition (keepRun r r.sys) else r.sys

/-! ### Contexts end (R303, R304) -/

/-- A context ends with its tokens delivered; CTX_CLOSE commands that waited for it complete DONE (R303, R304). -/
def endCtx (no : Nat) (status : Byte) (x : Ctx) (m : Sys) : Sys :=
  let bytes := x.emitted.flatMap fun t => leBytes 4 t.toNat
  let e : Ending :=
    { ending (reported (status :: statusesOf x.conds)) with
      conds := x.conds ||| condition status, len := bytes.length, count := x.emitted.length,
      result := resultOf [(40, leBytes 2 no)] }
  forEach x.closers (fun c => endWith c stDone) (complete x.cmd e (sendData x.cmd bytes m))

/-- A context ends with the job, without data; an active one is named by its number (R303, R307). -/
def dropCtx (status : Byte) (no : Option Nat) (x : Ctx) (m : Sys) : Sys :=
  if x.search then dropSearch status x.cmd m
  else
    forEach x.closers (fun c => endWith c stDone)
      (complete x.cmd { ending status with
        conds := x.conds ||| condition status, result := resultOf [(40, leBytes 2 (no.getD 0))] } m)

/-- Ask the seals that a command asked for to stop at their next step boundary with a status (R147, R317, R336). -/
def stopCmdSeals (status : Byte) (c : Cmd) : Sys → Sys := onFlash fun x => { x with seals := x.seals.map fun s =>
  match s.asker with
  | .cmd d => if sameCmd c d then { s with stop := s.stop.orElse fun _ => some status } else s
  | _ => s }

/-- Contexts whose next position has passed the last one end SHORT, unless they end for another reason (R303). -/
def endAtMaxPos (j : Job) : Job :=
  { j with ctxs := tmap (fun x =>
      if !x.search && decide (j.plan.maxPos ≤ x.pos) then { x with ending := x.ending.orElse fun _ => some stShort } else x) j.ctxs }

/-- Contexts that end with this step, or all of the contexts that take rows (R303). -/
def endStepCtxs (all : Bool) (m : Sys) : Sys :=
  match m.jobs.job with
  | none => m
  | some j =>
    let goes (e : Nat × Ctx) : Bool := !e.2.search && (all || e.2.ending.isSome)
    forEach (j.ctxs.filter goes) (fun e =>
      if e.2.ending = some stFlushed then dropCtx stFlushed (some e.1) e.2 else endCtx e.1 (e.2.ending.getD stDone) e.2)
      (onJob (fun j => { j with ctxs := j.ctxs.filter fun e => !goes e }) m)

/-! ### Walker tasks at the job's end (R317) -/

/-- A search command has a piece of its work in flight: a search whose walker task is placed, or pages of a segment or base (R147, R317). -/
def walkRuns (m : Sys) (x : Ctx) : Bool :=
  x.search && x.core.isSome && (x.cmd.opcode == 0x24 || m.flash.seals.any (fun s => s.asker == .cmd x.cmd) ||
    m.flash.bound.any fun e => e.2.1 == .cmd x.cmd)

/-- Walker tasks of the job that run to their ends before it has ended (R317). -/
def walkersRun (m : Sys) (j : Job) : Bool := j.ctxs.any fun e => walkRuns m e.2

/-- Inserts and merges of the job stop at the end of their piece, with a status (R317, R336). -/
def stopWalks (status : Byte) (j : Job) : Sys → Sys := forEach (j.ctxs.filter fun e => e.2.search) (fun e => stopCmdSeals status e.2.cmd)

/-- The search contexts of an ended job end with a status (R317). -/
def dropSearches (status : Byte) (j : Job) : Sys → Sys :=
  forEach (((j.ctxs.map (·.2)) ++ j.waiting).filter (·.search)) (dropCtx status none)

/-! ### The job ends (R285, R294, R295) -/

/-- The statuses that apply to a job at its end. -/
def jobStatuses (j : Job) : List Byte :=
  statusesOf j.conds ++ (if j.malformed || j.conds &&& condDescRefused != 0 then [stBadCommand] else []) ++
    (if j.busyRead then [stBusy] else []) ++ (if j.stopping = some .flushed then [stFlushed] else [])

/-- RESULT of JOB_SUBMIT (R285). -/
def jobResult (no : BitVec 32) (stepsDone stall retries refuse : Nat) (task : BitVec 32) : List Byte :=
  resultOf
    [(40, leBytes 4 no.toNat), (44, leBytes 4 stepsDone), (48, leBytes 4 (min stall 0xFFFFFFFF)), (52, leBytes 2 retries),
     (54, leBytes 1 refuse), (56, leBytes 4 task.toNat)]

/-- The job's completion (R107, R285). -/
def jobEnding (j : Job) : Ending :=
  let st := reported (jobStatuses j)
  { ending st with
    conds := if st = stBusy then 0 else j.conds, pips := j.pips, err := if st = stUncorrectable ∨ st = stNotWritten then j.errAddr else 0,
    result := jobResult j.no j.stepsDone j.stall j.retries.toNat 0 j.faultTask }

/-- Release the pins of the job (R294). -/
def releasePins (j : Job) (m : Sys) : Sys := forEach (j.pins ++ j.pfPins.map (·.2)) (fun n => lowerPin n.toNat) m

/-- Blocks held for the plan's collectives go with the job (log entry 20). -/
def dropEarly (p : Plan) : Sys → Sys := onFabric fun x => { x with
  early := x.early.filter fun b => !(b.kind == kCollRaw && p.colls.any fun c => leAt b.body 0 4 == c.id.toNat) }

/-- Count a job's end (R308, R455). -/
def countJob (m : Sys) : Sys := addTotal 9 1 (onJobs (fun x => { x with jobsEnded := satInc x.jobsEnded }) m)

/-- Remember the last job for the registers (R308). -/
def rememberJob (j : Job) : Sys → Sys := onJobs fun x => { x with
  lastNo := j.no, lastStep := BitVec.ofNat 32 j.step, lastDone := BitVec.ofNat 32 j.stepsDone, lastPips := BitVec.ofNat 64 j.pips,
  lastBudget := BitVec.ofNat 64 j.budget, lastStall := BitVec.ofNat 64 j.stall }

/-- The flag of JOB_END's RESULT byte 40 (R296). -/
def enderEnding (late : Bool) : Ending := doneWith (resultOf [(40, leBytes 1 (flagAt late 0))])

/-- P0 while a job holds the compute complex, P1 otherwise, entered by itself (R30, R469). -/
def enterRun (state : BitVec 2) : Sys → Sys := onPower fun p =>
  { p with current := state, target := if p.inTransition then p.target else state }

/-- A core without a job: its engines hold nothing, its queue is empty, and it is gated as a whole (R185). -/
def restCore (c : Core) : Core :=
  { c with engines := tmap (fun e => { e with left := freeHalf e.left, right := freeHalf e.right }) c.engines,
           drains := tmap (fun d => { d with leftBusy := false, rightBusy := false }) c.drains, queue := [], clockOff := 0 }

/-- The complex is given up: pins, scratch, engines and CREATE numbers are released, and what waited for space runs again (R294). -/
def freeComplex (j : Job) (m : Sys) : Sys :=
  retryWaits (onCores (tmap restCore) <| dropEarly j.plan (rememberJob j (enterRun 1 (onJobs (fun x => { x with job := none }) (releasePins j m)))))

/-- The job ends at a step's end: contexts that are left end DONE, search contexts that have not begun end with its status, and JOB_END
commands find it ended at their request (R290, R295, R303, R317). Started searches and pieces come first. -/
def endClean (m : Sys) : Sys :=
  match m.jobs.job with
  | none => m
  | some j =>
    let status := reported (jobStatuses j)
    if walkersRun m j then stopWalks status j m
    else
      let m := endStepCtxs true m
      let m := forEach (j.waiting.filter fun x => !x.search) (endCtx 0 stDone) m
      let m := forEach j.enders (fun c => complete c (enderEnding false)) (dropSearches status j m)
      complete j.cmd (jobEnding j) (countJob (freeComplex j m))

/-- The job has stopped (R294): contexts end with its status; after a fabric reset nothing is reported, and its end goes to the ledger with
status FLUSHED, in a record of a type beyond those of R452, which names none for it (R123; DESIGN CHOICE, log entry 34). -/
def endStopped (m : Sys) : Sys :=
  match m.jobs.job with
  | none => m
  | some j =>
    let status := reported (jobStatuses j)
    let m := onJobs (fun x => if j.stopping = some .budget then { x with budgetOver := satInc x.budgetOver } else x) m
    if j.stopping = some .fabricReset then
      ledgerRec 0x13 false (leBytes 4 j.no.toNat ++ [stFlushed])
        (forEach ([j.cmd] ++ j.enders ++ ((j.ctxs.map (·.2)) ++ j.waiting).flatMap fun x => x.cmd :: x.closers) dropCmd
          (countJob (freeComplex j m)))
    else
      let m := countJob (freeComplex j (dropSearches status j m))
      let m := forEach (j.ctxs.filter fun e => !e.2.search) (fun e => dropCtx status (some e.1) e.2) m
      let m := forEach (j.waiting.filter fun x => !x.search) (dropCtx status none) m
      complete j.cmd (jobEnding j) (forEach j.enders (fun c => complete c (enderEnding true)) m)

/-- A service's DISABLE bit is set (R307). -/
def serviceOff (m : Sys) (service : Nat) : Bool := decide (1 ≤ service) && decide (service ≤ 3) && m.jobs.svcOff.getLsbD (service - 1)

/-- A serving job of a disabled service has no context left (R295, R307). -/
def drained (m : Sys) : Bool :=
  match m.jobs.job with
  | some j => j.plan.serving && !j.admitting && serviceOff m j.service.toNat && j.ctxs.isEmpty && j.waiting.isEmpty && !j.inStep &&
      j.stopping.isNone
  | none => false

/-! ### Set-up (R288) -/

/-- The job that a JOB_SUBMIT and its plan make. -/
def newJob (w : WaitJob) (b : Bound) (pins : List TNum) : Job :=
  { no := w.no, cmd := w.cmd, plan := b.plan, binds := b.binds, seed := BitVec.ofNat 64 (subSeed w.cmd), startStep := subStart w.cmd,
    steps := subSteps w.cmd, budget := subBudget w.cmd, pfDist := subPfDist w.cmd, step := subStart w.cmd, stepsDone := 0, pips := 0,
    stall := 0, retries := 0, conds := 0, errAddr := 0, malformed := false, busyRead := false, faultTask := 0xFFFFFFFF, tasks := [], expiry := none,
    stopping := none, enders := [], hist := [], pins, pfPins := [], waiting := [], ctxs := [], lastRow := 1024, rows := [],
    inStep := false, colls := [], paused := false, admitting := true, service := b.plan.service }

/-- A JOB_SUBMIT ends at admission: REFUSE holds the check (R285, R287). A refusal with BAD_COMMAND or BUSY changes no register and no
counter (R11, R15). -/
def refuseJob (w : WaitJob) (code : Nat) (e : Ending) (m : Sys) : Sys :=
  complete w.cmd { e with result := jobResult w.no 0 0 0 code 0xFFFFFFFF }
    (onlyIf (e.status != stBadCommand && e.status != stBusy) (fun m => countJob (onJobs (fun x => { x with
      lastNo := w.no, lastStep := BitVec.ofNat 32 (subStart w.cmd), lastDone := 0, lastPips := 0,
      lastBudget := BitVec.ofNat 64 (subBudget w.cmd), lastStall := 0 }) m)) m)

/-- RESIDENT pins are raised one after another; none where R162 refuses one (R287 check 0x09). -/
def raisePins : List Nat → List TNum → Sys → Option (List TNum × Sys)
  | [], acc, m => some (acc, m)
  | n :: rest, acc, m =>
    match tensorOf m n with
    | none => none
    | some t =>
      if t.pins = 0xFFFF ∨ pinAllowed m (pinExtra t) = false then none
      else raisePins rest (acc ++ [BitVec.ofNat 24 n]) (raisePin n m)

/-- The job starts: prefetches that fall before its first task are issued, and its first step begins (R288, R299). A serving job's
steps begin by themselves (R301). -/
def startJob (m : Sys) : Sys :=
  match m.jobs.job with
  | none => m
  | some j =>
    let m := onJob (fun j => { j with admitting := false }) m
    let m := forEach (List.range j.pfDist) prefetchAt m
    if j.plan.serving then m else beginStep m

/-- The record under which a job's scratch reservation waits, due at once where there is none yet (R160, R288). -/
def scratchWait (no : BitVec 32) (m : Sys) : SpaceWait × Sys :=
  match m.range.waits.find? fun w => w.ask == .scratch no with
  | some w => (w, m)
  | none =>
    let (w, m) := newWait .engine 0 (.scratch no) m
    ({ w with due := true }, m)

/-- No reservation waits any more. -/
def endScratchWaits : Sys → Sys := onRange fun r => { r with waits := r.waits.filter fun w => match w.ask with
  | .scratch _ => false
  | _ => true }

/-- The scratch reservation of an admitted job (R288). -/
def reserveScratch (m : Sys) : Sys :=
  match m.jobs.job with
  | none => m
  | some j =>
    let (w, m) := scratchWait j.no m
    if !w.due then m
    else match roomScratch w.need (j.plan.tasksPerCore * j.plan.scratch) (endScratchWaits m) with
    | (.now, m) => startJob m
    | (.wait, m) => waitFor { w with due := false } m
    | (.full, m) =>
      refuseJob { no := j.no, cmd := j.cmd, service := j.service } 0x0A (ending stFull) (countFull (freeComplex j m))

/-- Admit the next waiting job (R287, R288). -/
def admitNext (m : Sys) : Sys :=
  match m.jobs.queue with
  | [] => m
  | w :: rest =>
    let m := onJobs (fun x => { x with queue := rest }) m
    match admissionChecks w.cmd m with
    | (.refuse code e, m) => refuseJob w code e m
    | (.pass b, m) =>
      let resident := ((b.plan.slots.zip b.binds).filter fun e => e.1.resident != 0xF).map fun e => tnumOf e.2
      match raisePins resident [] m with
      | none => refuseJob w 0x09 (ending stFull) m
      | some (pins, m) => reserveScratch (enterRun 0 (onJobs (fun x => { x with job := some { newJob w b pins with paused := m.power.coresHeld } }) m))

end Sys2Proof.Machine
end

