-- ==== Sys2Proof/Machine/JobRows.lean ====
section
/-!
DEFINITION. The rows of the job engine: admission, placement, issue and completion of descriptors, tasks and steps, faults, budget
expiry, and the end of a stopping job (R184, R189, R194 to R197, R273 to R303).
-/
namespace Sys2Proof.Machine

/-- The running job, unless it is still being set up or is paused. -/
def activeJob (m : Sys) : Option Job := m.jobs.job.filter fun j => !j.admitting && !j.paused

/-! ### JOB_ADMISSION (R287) -/

/-- Admission while no job holds the complex, or a further try at a scratch reservation (R287, R288). -/
def jobAdmission (m : Sys) : Sys :=
  match m.jobs.job with
  | none => admitNext m
  | some j => onlyIf j.admitting reserveScratch m

/-- JOB_ADMISSION (R287). -/
def execJobAdmission (s : State) : Host.Outcome State Fault Refusal := done s (whileLive jobAdmission)

/-! ### TASK_PLACEMENT (R289) -/

/-- A full-engine descriptor (R172). -/
def fullEngine (d : Desc) : Bool := (d.op == 0x01 || d.op == 0x02 || d.op == 0x03) && !d.half

/-- An engine descriptor. -/
def onEngine (d : Desc) : Bool := d.op == 0x01 || d.op == 0x02 || d.op == 0x03

/-- Tasks placed on a core. -/
def tasksOn (j : Job) (core : Nat) : List Nat :=
  (j.tasks.filter fun e => match e.2.phase with
    | .placed c => c.toNat == core
    | _ => false).map (·.1)

/-- Some engine of a core has both halves in service. -/
def wholeEngine (c : Core) : Bool := (List.range 8).any fun e => !c.halfOut.getLsbD (2 * e) && !c.halfOut.getLsbD (2 * e + 1)

/-- The cores are powered for the job (R38, R185). -/
def coresPowered (m : Sys) : Bool := !m.power.coresHeld

/-- Walker tasks placed on a core (R317). -/
def walkersOn (j : Job) (core : Nat) : List Nat :=
  (j.ctxs.filter fun e => e.2.search && (e.2.core.map (·.toNat)) == some core).map (·.1)

/-- A core holds a task of the job. -/
def coreBusy (j : Job) (core : Nat) : Bool := !(tasksOn j core).isEmpty || !(walkersOn j core).isEmpty

/-- A core may take one more task of the job (R289). -/
def coreHasRoom (m : Sys) (j : Job) (core : Nat) : Bool :=
  coreIn m core && decide ((tasksOn j core).length + (walkersOn j core).length < j.plan.tasksPerCore)

/-- A core may take a task of the job (R289). -/
def coreTakes (m : Sys) (j : Job) (t core : Nat) : Bool :=
  coreHasRoom m j core && (!(taskDescs j.plan (entryOf j t)).any fullEngine || wholeEngine (coreOf m core))

/-- The sequencer's queue of a core takes further descriptors of its tasks while it holds fewer than 64 (R189; which task's come first the
manual leaves open: the lower task's, DESIGN CHOICE, log entry 36). -/
def fillQueue (core : Nat) (m : Sys) : Sys :=
  forEach ((m.jobs.job.map fun j => tasksOn j core).getD []) (fun t m =>
    match m.jobs.job with
    | none => m
    | some j =>
      let x := taskAt j t
      let k := min (64 - (coreOf m core).queue.length) ((entryOf j t).descCount - x.queued)
      onCore core (fun c => { c with queue := c.queue ++ ((span x.queued k).filter fun i => !x.issued.contains i).map fun i => (t, i) })
        (onTaskRun t (fun x => { x with queued := x.queued + k }) m)) m

/-- A ready task is placed on the first free core, if there is one (R289). -/
def placeTask (t : Nat) (m : Sys) : Option Sys :=
  (activeJob m).bind fun j => ((List.range 4096).find? fun c => coreTakes m j t c).map fun c =>
    fillQueue c (onTaskRun t (fun x => { x with phase := .placed (BitVec.ofNat 12 c), queued := 0, scratch := freshStore false }) m)

/-- The walker task of an active search context is placed on the first free core, if there is one (R289, R317). -/
def placeWalker (no : Nat) (m : Sys) : Option Sys :=
  (activeJob m).bind fun j => ((List.range 4096).find? (coreHasRoom m j)).bind fun c => (tfind no j.ctxs).map fun x =>
    onJob (fun j => { j with ctxs := tset no { x with core := some (BitVec.ofNat 12 c) } j.ctxs }) m

/-- Walker tasks to place, by context number, those of merges last (R317, R336; which of the others comes first is a DESIGN CHOICE, log
entry 23). No more are begun once the job is to end. -/
def walkersDue (j : Job) : List Nat :=
  let l := if j.stopping.isNone && j.enders.isEmpty then j.ctxs.filter fun e => e.2.search && e.2.core.isNone else []
  ((l.filter fun e => e.2.cmd.opcode != 0x27) ++ l.filter fun e => e.2.cmd.opcode == 0x27).map (·.1)

/-- Place each of a list while some of the turn's 16 placements are left. -/
def placeUpTo {α : Type} (f : α → Sys → Option Sys) (l : List α) (acc : Nat × Sys) : Nat × Sys :=
  l.foldl (fun acc x => if acc.1 = 0 then acc else match f x acc.2 with
    | some m => (acc.1 - 1, m)
    | none => acc) acc

/-- Ready tasks are placed in task order, at most 16 in a turn, and the walker tasks after them; one that finds no free core waits (R289,
R317). -/
def taskPlacement (m : Sys) : Sys :=
  match activeJob m with
  | none => m
  | some j =>
    if !coresPowered m || !(j.stopping.isNone || j.stopping == some .budget) then m
    else (placeUpTo placeWalker (walkersDue j)
      (placeUpTo placeTask ((j.tasks.filter fun e => e.2.phase == .ready).map (·.1)) (16, m))).2

/-- TASK_PLACEMENT (R289). -/
def execTaskPlacement (s : State) : Host.Outcome State Fault Refusal := done s (whileLive taskPlacement)

/-! ### DESCRIPTOR_ISSUE (R189) -/

/-- Descriptor `i` of a task. -/
def taskDesc (j : Job) (t i : Nat) : Option Desc :=
  if i < (entryOf j t).descCount then j.plan.descs[(entryOf j t).firstDesc + i]? else none

/-- Where a use lies in core stores: scratch, or a tensor with its home in T0. -/
def inCoreStore (m : Sys) (j : Job) (u : Use) : Bool :=
  match u.ref with
  | .scratch _ => true
  | .slot s _ => (match tensorOf m (slotNumber j s.toNat) with
    | some t => (match t.place with
      | .t0 _ => true
      | _ => false)
    | none => false)
  | _ => false

/-- An earlier use `u` orders a later use `v` in the current step: the earlier writes a core-store byte that the later reads or
writes, or reads a byte that the later writes (R189). -/
def usesOrder (m : Sys) (j : Job) (u v : Use) : Bool :=
  ((u.out && inCoreStore m j u && inCoreStore m j v) || (!u.out && v.out)) &&
    match u.ref, v.ref with
    | .scratch o, .scratch q => spansMeet (o.toNat + u.off, o.toNat + u.off + u.len) (q.toNat + v.off, q.toNat + v.off + v.len)
    | .slot s o, .slot t q =>
      let x := slotAddr j s.toNat (o.toNat + u.off)
      let y := slotAddr j t.toNat (q.toNat + v.off)
      spansMeet (x, x + u.len) (y, y + v.len)
    | _, _ => false

/-- A tensor descriptor (R281). -/
def isTensorDesc (d : Desc) : Bool := decide (0x60 ≤ d.op.toNat ∧ d.op.toNat ≤ 0x68)

/-- Descriptor `i` waits for the earlier descriptor `e` of its task (R189). A tensor descriptor that ends DONE lets its task continue,
so the later descriptors wait for it (R281; log entry 37). -/
def descAfter (m : Sys) (j : Job) (t i e : Nat) : Bool :=
  ((taskDesc j t e).map isTensorDesc).getD false ||
  match (taskDesc j t i).bind (shapeNow j), (taskDesc j t e).bind (shapeNow j) with
  | some a, some b => a.uses.any fun u => b.uses.any fun v => usesOrder m j v u
  | _, _ => false

/-- A half of a core is in service. -/
def halfServes (c : Core) (h : Nat) : Bool := !c.halfOut.getLsbD h

/-- A half of a core holds no tile. -/
def halfFree (c : Core) (h : Nat) : Bool := (halfOf c h).holder.isNone

/-- Halves that an engine descriptor may take, each choice the halves of one engine: a full-mode descriptor an engine with both halves in
service and empty, a half-engine descriptor one half in service; an engine changes its mode only while both its halves are empty (R182,
R195). -/
def engineChoices (c : Core) (d : Desc) : List (List Nat) :=
  (List.range 8).flatMap fun e =>
    let l := 2 * e
    let r := 2 * e + 1
    let idle := halfFree c l && halfFree c r
    if d.half then ([l, r].filter fun h => halfServes c h && halfFree c h && (idle || (engineOf c e).split)).map fun h => [h]
    else if idle && halfServes c l && halfServes c r then [[l, r]] else []

/-- The task may take an engine for a descriptor: it holds none, and one is free (R182, R189, R195). -/
def engineReady (c : Core) (t : Nat) (d : Desc) : Bool := !onEngine d || ((halvesOf c t).isEmpty && !(engineChoices c d).isEmpty)

/-- The sequencer has reached descriptor `i` of a task: it is in the queue, what must come before it has completed, and the unit it runs on
is free (R189, R293, R294). -/
def mayIssue (m : Sys) (j : Job) (t i : Nat) : Bool :=
  let x := taskAt j t
  let c := coreOf m (coreOfTask x)
  (match x.phase with
    | .placed _ => true
    | _ => false) && !x.failed && !x.issued.contains i && inBudget j t i &&
    (j.stopping.isNone || j.stopping == some .budget) && c.queue.contains (t, i) &&
    ((taskDesc j t i).map (engineReady c t)).getD false &&
    (List.range i).all fun e => x.done.contains e || !descAfter m j t i e

/-- Operands of descriptor `i` have not arrived, or are held by a motion (R151, R164). -/
def waitsOperands (m : Sys) (j : Job) (t i : Nat) : Bool := match taskDesc j t i with
  | some d => ((shapeNow j d).map (operandWaits m j d)).getD false
  | none => false

/-- Some core waits under R164: an issued descriptor waits for its operands, and the array fills with bubbles. -/
def coreWaits (m : Sys) : Bool := match activeJob m with
  | none => false
  | some j => j.tasks.any fun e => (match e.2.phase with
    | .placed _ => true
    | _ => false) && e.2.issued.any fun i => !e.2.ran.contains i && !e.2.waits.contains i && waitsOperands m j e.1 i

/-- Halves of a core take a descriptor: their engine is in the descriptor's mode, and their clocks run again (R182, R184). -/
def takeHalves (t i : Nat) (d : Desc) (l : List Nat) (c : Core) : Core :=
  l.foldl (fun c h =>
    let c := onHalf h (fun x => { x with holder := some (t, i), idle := 0 }) c
    { c with
      clockOff := setBit c.clockOff h false
      engines := tupd engineReset (h / 2) (fun e => { e with split := d.half }) c.engines }) c

/-- An engine descriptor takes an engine or a half of one; which, among those that are free, the manual leaves open: a free value (R189;
log entry 2). -/
def takeEngine (core t i : Nat) (d : Desc) (m : Sys) : Sys :=
  let l := engineChoices (coreOf m core) d
  let v := draw m
  onCore core (takeHalves t i d (l.getD (v.1.toNat % l.length) [])) v.2

/-- The sequencer issues a descriptor (R189). -/
def descIssue (t i : Nat) (m : Sys) : Sys :=
  match activeJob m with
  | none => m
  | some j =>
    if mayIssue m j t i then
      let core := coreOfTask (taskAt j t)
      let m := match taskDesc j t i with
        | some d => onlyIf (onEngine d) (takeEngine core t i d) m
        | none => m
      fillQueue core (onCore core (fun c => { c with queue := c.queue.filter (· != (t, i)) })
        (onTaskRun t (fun x => { x with issued := x.issued ++ [i] }) m))
    else m

/-- DESCRIPTOR_ISSUE (R189). -/
def execDescriptorIssue (task desc : BitVec 16) (s : State) : Host.Outcome State Fault Refusal :=
  done s (whileLive (descIssue task.toNat desc.toNat))

/-! ### DESCRIPTOR_COMPLETE (R173) -/

/-- The array part of a descriptor's cost (R174, R200). -/
def arrayPart (j : Job) (d : Desc) : Nat :=
  if d.op = 0x01 then
    let a := dimVal (stepRows j) d.dim0
    let k := dimVal (stepRows j) d.dim1
    let n := dimVal (stepRows j) d.dim2
    if a = 0 ∨ n = 0 then 0 else productCost d.half a k n (d.fmt.toNat % 16)
  else if d.op = 0x02 ∨ d.op = 0x03 then descCost j d
  else 0

/-- The job is charged a descriptor's nominal cost, once, and the core's valid pips rise by its array part (R173, R200, R292). -/
def chargeDesc (j : Job) (t i : Nat) (d : Desc) (m : Sys) : Sys :=
  let x := taskAt j t
  let a := arrayPart j d
  let m := addTotal 30 a (onCore (coreOfTask x) (fun c => { c with validPips := satAdd c.validPips a }) m)
  if x.charged.contains i then m
  else onJob (fun j => { j with pips := j.pips + descCost j d }) (onTaskRun t (fun x => { x with charged := x.charged ++ [i] }) m)

/-! ### TASK_COMPLETE (R278) -/

/-- Prefetch pins of a task are lowered when it completes (R299). -/
def lowerTaskPins (pos : Nat) (m : Sys) : Sys :=
  match m.jobs.job with
  | none => m
  | some j =>
    forEach (j.pfPins.filter fun e => e.1 == pos) (fun e => lowerPin e.2.toNat)
      (onJob (fun j => { j with pfPins := j.pfPins.filter fun e => e.1 != pos }) m)

/-- Every descriptor of a placed task has completed: later tasks become ready (R278). -/
def taskComplete (t : Nat) (m : Sys) : Sys :=
  match activeJob m with
  | none => m
  | some j =>
    let x := taskAt j t
    match x.phase with
    | .placed _ =>
      if !x.failed && (List.range (entryOf j t).descCount).all x.done.contains then
        wakeTasks (retryWaits (lowerTaskPins (flatPos j t)
          (onTaskRun t (fun x => { x with phase := .done, scratch := freshStore false }) m)))
      else m
    | _ => m

/-- TASK_COMPLETE (R278). -/
def execTaskComplete (task : BitVec 16) (s : State) : Host.Outcome State Fault Refusal := done s (whileLive (taskComplete task.toNat))

/-! ### STEP_END (R290) -/

/-- The scale history of a completed step: SEED, STEP and the rows that the step sent (R221). A data error stops the job. -/
def writeHistory (m : Sys) : Sys :=
  match m.jobs.job with
  | none => m
  | some j =>
    match historySlot j.plan with
    | none => m
    | some s =>
      let r := addrWrite (histAddr j s 0) (leBytes 8 j.seed.toNat ++ leBytes 4 j.step ++ zeros 4) (runOf 0 m)
      let r := (j.hist.filter fun e => decide (e.1 < j.plan.histRows)).foldl (fun r e =>
        addrWrite (histAddr j s (16 + 4 * e.1)) (leBytes 4 e.2.toNat) r) r
      if r.failed then stopJob .condition (keepRun r r.sys) else r.sys

/-- Every task of the step has completed. -/
def stepDone (j : Job) : Bool :=
  j.inStep && j.stopping.isNone && (List.range j.plan.tasks.length).all fun t => (taskAt j t).phase == .done

/-- A step ends: history, step counter, contexts that end; the job ends or its next step begins (R290, R295, R303). -/
def stepEnd (m : Sys) : Sys :=
  match activeJob m with
  | none => m
  | some j =>
    if !stepDone j || j.expiry.isSome then m
    else
      let m := writeHistory m
      if ((m.jobs.job.map (·.stopping.isSome)).getD false) then onJob (fun j => { j with inStep := false }) m
      else
        let m := onJob (fun j => { j with step := j.step + 1, stepsDone := j.stepsDone + 1, inStep := false, tasks :=
          (j.tasks.map fun e => (e.1, { taskFresh with replaced := e.2.replaced })).filter fun e => e.2.replaced != 0 }) m
        let m := endStepCtxs false (onJob endAtMaxPos m)
        if !j.enders.isEmpty || (!j.plan.serving && decide (j.startStep + j.steps ≤ j.step + 1)) || drained m then endClean m
        else if j.plan.serving then m
        else beginStep m

/-- STEP_END (R290). -/
def execStepEnd (s : State) : Host.Outcome State Fault Refusal := done s (whileLive stepEnd)

/-! ### SERVING_STEP_START (R301, R302) -/

/-- A serving step starts: contexts join, rows are formed and the row map is written; without a row no step runs (R301, R302). -/
def servingStep (m : Sys) : Sys :=
  match activeJob m with
  | none => m
  | some j =>
    if !j.plan.serving || j.inStep || j.stopping.isSome then m
    else if !j.enders.isEmpty || drained m then endClean m
    else
      let r := joinOf m j (fun x => !x.search)
      let rows := formRows j.plan (rowOrder { j with ctxs := r.2 }) []
      let m := onJob (fun j => { j with
        waiting := r.1, rows, lastRow := (rows.getLast?.map (·.ctx)).getD j.lastRow,
        ctxs := r.2.map fun e => (e.1, { e.2 with pos := e.2.pos + (rows.filter fun x => x.ctx == e.1).length }) }) m
      if rows.isEmpty then m
      else
        let m := writeRowMap m
        if ((m.jobs.job.map (·.stopping.isSome)).getD false) then m else beginStep m

/-- SERVING_STEP_START (R301). -/
def execServingStepStart (s : State) : Host.Outcome State Fault Refusal := done s (whileLive servingStep)

/-! ### JOB_FAULT (R194 to R197, R292) -/

/-- The domain that a detector takes out (R194). -/
def domainOf (d : Detector) (core : BitVec 12) (half : BitVec 4) : Domain :=
  match d with
  | .residue => .half core half
  | .parity => .half core half
  | .protocol => .half core half
  | .engineCtrl => .engine core (half.extractLsb' 1 3)
  | .vector => .core core
  | .sequencer => .core core
  | .square => .square (core.extractLsb' 4 8)

/-- CORE.FAULT bit of a detector (R200). -/
def detectorBit : Detector → Nat
  | .residue => 1
  | .parity => 2
  | .protocol => 3
  | .engineCtrl => 4
  | .vector => 5
  | .sequencer => 6
  | .square => 7

/-- Kind code of a domain (R443). -/
def domainKind : Domain → Nat
  | .half _ _ => 0
  | .engine _ _ => 1
  | .core _ => 2
  | .square _ => 3

/-- The core that a domain is reported under: for a square its first. -/
def domainCore : Domain → Nat
  | .half c _ => c.toNat
  | .engine c _ => c.toNat
  | .core c => c.toNat
  | .square q => 16 * q.toNat

/-- Engine and half of a domain as one number. -/
def domainHalf : Domain → Nat
  | .half _ h => h.toNat
  | .engine _ e => 2 * e.toNat
  | _ => 0

/-- Key of a domain. -/
def domainKey (d : Domain) : Nat := domainKind d * 65536 + domainCore d * 16 + domainHalf d

/-- The cores of a domain. -/
def domainCores : Domain → List Nat
  | .half c _ => [c.toNat]
  | .engine c _ => [c.toNat]
  | .core c => [c.toNat]
  | .square q => span (16 * q.toNat) 16

/-- The domain is out of service already. -/
def domainIsOut (m : Sys) (d : Domain) : Bool :=
  match d with
  | .half c h => (coreOf m c.toNat).halfOut.getLsbD h.toNat || !coreIn m c.toNat
  | .engine c e =>
    ((coreOf m c.toNat).halfOut.getLsbD (2 * e.toNat) && (coreOf m c.toNat).halfOut.getLsbD (2 * e.toNat + 1)) || !coreIn m c.toNat
  | .core c => !coreIn m c.toNat
  | .square q => (coreOf m (16 * q.toNat)).squareOut

/-- Mark a domain out of service (R195, R200). -/
def markOut (d : Domain) (m : Sys) : Sys :=
  match d with
  | .half c h =>
    onCore c.toNat (fun x => { x with halfOut := setBit x.halfOut h.toNat true, lastEngine := h.extractLsb' 1 3, lastHalf := h.getLsbD 0 }) m
  | .engine c e =>
    onCore c.toNat (fun x => { x with
      halfOut := setBit (setBit x.halfOut (2 * e.toNat) true) (2 * e.toNat + 1) true, lastEngine := e, lastHalf := false }) m
  | .core c => onCore c.toNat (fun x => { x with coreOut := true }) m
  | .square q => forEach (span (16 * q.toNat) 16) (fun n => onCore n fun x => { x with squareOut := true }) m

/-- A core leaves service: its movable homes move to T1, or to TN, at eviction priority; its sealed copies are dropped (R196). A motion
into it runs to its end first (R153). -/
def emptyCore (core : Nat) (m : Sys) : Sys :=
  forEach m.range.tensors (fun e m =>
    leaveIf e.1 (onlyIf (match e.2.copy0 with
      | some c => (coreList c.1).contains core
      | none => false) (dropCopy0 e.1) m)) m

/-- The unit is held, now, at a place in the cores: at its home, or already at the destination of its motion (R151, R196). -/
def heldIn (t : Tensor) (cores : List Nat) (u : Nat) : Bool :=
  match (sourcesOf t u).headD .home with
  | .dest => (t.motion.map fun mo => unitMeets t.size mo.dest cores u).getD false
  | _ => unitMeets t.size t.place cores u

/-- A square leaves service: the units of T0 homes that are held there are uncorrectable, T0 copies there are dropped, and what lay there
is gone for good (R196, R197). -/
def loseSquare (cores : List Nat) (m : Sys) : Sys :=
  forEach m.range.tensors (fun e m =>
    let t := e.2
    let m := onlyIf (match t.copy0 with
      | some c => (coreList c.1).any cores.contains
      | none => false) (dropCopy0 e.1) m
    if t.isSealed then m
    else
      let m := updTensor e.1 (fun t => { t with
        lostCores := t.lostCores ++ cores, motion := t.motion.map fun mo => { mo with lostCores := mo.lostCores ++ cores } }) m
      forEach ((List.range (unitCount t.size)).filter (heldIn t cores)) (fun u => damage e.1 u (tensorAddr e.1 (u * unitSize))) m) m

/-- A DOMAIN record (R452). -/
def domainRec (d : Domain) (returned : Bool) (m : Sys) : Sys :=
  let perm := m.health.permanent.contains d
  ledgerRec 0x07 perm (leBytes 2 (domainCore d) ++ leBytes 1 (domainKind d) ++ leBytes 1 (min 255 (tget 0 (domainKey d) m.health.outs)) ++
    leBytes 1 (flagAt perm 0 + flagAt returned 1)) m

/-- DETAIL of DOMAIN_OUT (R443). -/
def domainDetail (m : Sys) (d : Domain) : List Byte :=
  leBytes 2 (domainCore d) ++ leBytes 1 (domainKind d) ++ leBytes 1 (domainHalf d) ++ leBytes 1 (flagAt (m.health.permanent.contains d) 0)

/-- A domain leaves service: counted in the life of the part, for good the third time; record and notice (R197, R393, R443, R452). -/
def takeOut (d : Domain) (m : Sys) : Sys :=
  let m := addTotal 53 1 (onHealth (fun h => { h with
    outs := tupd 0 (domainKey d) (· + 1) h.outs, outNow := h.outNow ++ [d] }) (markOut d m))
  let third := decide (3 ≤ tget 0 (domainKey d) m.health.outs) && !m.health.permanent.contains d
  let m := onlyIf third (fun m => forEach (domainCores d) (fun n => onCore n fun x => { x with permanent := true })
    (addTotal 54 1 (onHealth (fun h => { h with permanent := h.permanent ++ [d] }) m))) m
  let m := notice 0x03 1 (domainDetail m d) (domainRec d false m)
  match d with
  | .core c => emptyCore c.toNat m
  | .square q => loseSquare (span (16 * q.toNat) 16) m
  | _ => m

/-- The task that holds a half of a core. -/
def holderOf (m : Sys) (core h : Nat) : List Nat := ((halfOf (coreOf m core) h).holder.map (·.1)).toList

/-- The tasks that hold any part of a domain (R195). -/
def holders (j : Job) (d : Domain) (m : Sys) : List Nat :=
  match d with
  | .half c h => holderOf m c.toNat h.toNat
  | .engine c e => (holderOf m c.toNat (2 * e.toNat) ++ holderOf m c.toNat (2 * e.toNat + 1)).eraseDups
  | .core c => tasksOn j c.toNat
  | .square q => (span (16 * q.toNat) 16).flatMap (tasksOn j)

/-- Contexts whose walker tasks hold a part of a domain; a walker holds no half of its own here (R195, R317). -/
def heldWalkers (j : Job) (d : Domain) : List Nat :=
  match d with
  | .core c => walkersOn j c.toNat
  | .square q => (span (16 * q.toNat) 16).flatMap (walkersOn j)
  | _ => []

/-- The task's access entries read a byte that they write (R292). -/
def rereads (j : Job) (t : Nat) : Bool :=
  let l := taskAccess j.plan (entryOf j t)
  l.any fun a => a.mode.getLsbD 0 && l.any fun b => b.mode.getLsbD 1 &&
    (accessSpan j a).1 == (accessSpan j b).1 &&
      spansMeet ((accessSpan j a).2.1, (accessSpan j a).2.2.1) ((accessSpan j b).2.1, (accessSpan j b).2.2.1)

/-- A task ends FAULT_CONTAINED: it is placed again from its first descriptor, or the job stops (R195, R292). What it has handed to
the fabric or to a tensor operation still runs to its end (log entry 22). -/
def faultTask (t : Nat) (m : Sys) : Sys :=
  match m.jobs.job with
  | none => m
  | some j =>
    let x := taskAt j t
    if (j.stopping.isNone || (j.stopping == some .budget && inBudget j t 0)) && decide (x.replaced < 2) && !rereads j t then
      onJobs (fun x => { x with faultRetries := satInc x.faultRetries })
        (onJob (fun j => { j with retries := satInc j.retries })
          (onTaskRun t (fun x => { x with
            phase := .ready, queued := 0, issued := x.waits, ran := [], done := [],
            scratch := freshStore false, replaced := x.replaced + 1 }) (releaseTask t m)))
    else failTask t (condition stFaultContained) 0 m

/-- The walker task of a search context ends FAULT_CONTAINED: it is placed again, or the job stops and the command ends with that status
(R292, R317). -/
def faultWalker (no : Nat) (m : Sys) : Sys :=
  match m.jobs.job.bind fun j => (tfind no j.ctxs).map (j, ·) with
  | none => m
  | some (j, x) =>
    if j.stopping.isNone && decide (x.replaced < 2) then
      onJobs (fun x => { x with faultRetries := satInc x.faultRetries }) (onJob (fun j => { j with
        retries := satInc j.retries, ctxs := tset no { x with core := none, replaced := x.replaced + 1 } j.ctxs }) m)
    else
      let m := stopCmdSeals stFaultContained x.cmd (stopJob .condition (markJob (condition stFaultContained) m))
      if x.cmd.opcode = 0x24 ∨ walkRuns m x = false then dropSearch stFaultContained x.cmd m else m

/-- Core `n`, or one of its halves `hs`, is part of a domain. -/
def domainHas (d : Domain) (n : Nat) (hs : List Nat) : Bool := match d with
  | .half c h => c.toNat == n && hs.contains h.toNat
  | .engine c e => c.toNat == n && hs.any fun h => h / 2 == e.toNat
  | .core c => c.toNat == n
  | .square q => n / 16 == q.toNat

/-- A task on the domain has ended for another condition in this turn: both are recorded (R441). -/
def endedNow (m : Sys) (d : Domain) : Bool := match m.jobs.job with
  | some j => j.tasks.any fun e => match e.2.phase, e.2.stopped with
      | .placed n, some (turn, hs) => turn == now m && domainHas d n.toNat hs
      | _, _ => false
  | none => false

/-- A core-fault input is taken (R195); its EVENT record carries `detail`, once the domain is out. -/
def coreFaultAs (detail : Sys → List Byte) (d : Domain) (bit : Nat) (m : Sys) : Sys :=
  if domainIsOut m d then m
  else
    let m := forEach (domainCores d) (fun n m =>
      noteSet (coreFaultAddr n) bit (onCore n (fun x => { x with fault := setBit x.fault bit true }) m)) m
    let hit := match m.jobs.job with
      | some j => if j.admitting then ([], []) else (holders j d m, heldWalkers j d)
      | none => ([], [])
    let m := takeOut d (onlyIf (endedNow m d) (markJob (condition stFaultContained)) m)
    forEach hit.2 faultWalker (forEach hit.1 faultTask (eventRec 6 (domainKey d) (detail m) m))

/-- A core-fault input of a detector (R195). -/
def coreFault (d : Domain) (bit : Nat) (m : Sys) : Sys := coreFaultAs (fun m => domainDetail m d) d bit m

/-- JOB_FAULT (R195). A square's bit is set in all its cores; the others in the core whose detector fired (R200). -/
def execJobFault (d : Detector) (core : BitVec 12) (half : BitVec 4) (s : State) : Host.Outcome State Fault Refusal :=
  done s (asEvent 5 (coreFault (domainOf d core half) (detectorBit d)))

/-! ### DESCRIPTOR_COMPLETE (R173, R179) -/

/-- Halves that a task holds in which a value's residue does not match as it is copied to the drain register (R179). -/
def badHalves (c : Core) (t : Nat) : List Nat := (halvesOf c t).filter fun h => !(halfOf c h).shadow.all residueGood

/-- The shadow accumulators of a half are copied to its lanes of the drain register, which the vector unit consumes; the half is free
(R179, R182). -/
def drainHalf (c : Core) (h : Nat) : Core :=
  let v := (halfOf c h).shadow.map (·.value)
  let put (d : Drain) : Drain := { d with lanes := if h % 2 = 0 then v ++ d.lanes.drop 32 else d.lanes.take 32 ++ v }
  setLanes h false (onHalf h freeHalf { c with drains := tupd drainReset (h / 2) put c.drains })

/-- A descriptor whose operation has been carried out completes (R173); an engine descriptor drains, and a residue that does not match is
a core fault instead (R179, R194). -/
def descComplete (t i : Nat) (m : Sys) : Sys :=
  match activeJob m with
  | none => m
  | some j =>
    let x := taskAt j t
    match taskDesc j t i with
    | none => m
    | some d =>
      if x.ran.contains i && !x.done.contains i && mayRun j d then
        let n := coreOfTask x
        let bad := if onEngine d then badHalves (coreOf m n) t else []
        if !bad.isEmpty then
          forEach bad (fun h => coreFault (.half (BitVec.ofNat 12 n) (BitVec.ofNat 4 h)) 1) (takeEvent 5 m)
        else
          onTaskRun t (fun x => { x with done := x.done ++ [i] }) (chargeDesc j t i d (takeEvent 8
            (onlyIf (onEngine d) (onCore n fun c => (halvesOf c t).foldl drainHalf c) m)))
      else m

/-- DESCRIPTOR_COMPLETE (R173). -/
def execDescriptorComplete (task desc : BitVec 16) (s : State) : Host.Outcome State Fault Refusal :=
  done s (whileLive (descComplete task.toNat desc.toNat))

/-! ### BUDGET_EXPIRY (R293) -/

/-- The running sum in plan order up to and including the expiry descriptor: what the job is charged in the end. -/
def expirySum (j : Job) : Nat :=
  (stepCosts j).foldl (fun n e =>
    if inBudget j e.1 e.2.1 && !(taskAt j e.1).charged.contains e.2.1 then n + e.2.2 else n) j.pips

/-- The expiry descriptor has completed: the job will end BUDGET_OVER (R293). -/
def budgetExpiry (m : Sys) : Sys :=
  match activeJob m with
  | none => m
  | some j =>
    match j.expiry with
    | none => m
    | some (t, i) =>
      if !(taskAt j t).done.contains i || j.conds &&& condition stBudgetOver != 0 then m
      else
        ledgerRec 0x09 false (leBytes 4 j.no.toNat ++ zeros 4 ++ leBytes 8 (expirySum j - j.budget))
          (stopJob .budget (markJob (condition stBudgetOver) (takeEvent 6 m)))

/-- BUDGET_EXPIRY (R293). -/
def execBudgetExpiry (s : State) : Host.Outcome State Fault Refusal := done s (whileLive budgetExpiry)

/-! ### JOB_STOP_COMPLETE (R294) -/

/-- Descriptors of the job that must run to their ends before it has stopped (R293, R294). -/
def stillRuns (j : Job) : Bool :=
  if j.stopping = some .budget then
    (stepCosts j).any fun e => inBudget j e.1 e.2.1 && !(taskAt j e.1).done.contains e.2.1
  else
    j.tasks.any fun e => e.2.issued.any fun i => !e.2.done.contains i && !(e.2.failed && !e.2.waits.contains i && !e.2.ran.contains i) &&
      ((taskDesc j e.1 i).map indivisible).getD false

/-- Seals and appends that descriptors of the job asked for stop at their next step boundary (R147, R294). -/
def stopSeals (m : Sys) : Sys := onFlash (fun x => { x with seals := x.seals.map fun s => match s.asker with
  | .desc _ _ => { s with stop := s.stop.orElse fun _ => some stFlushed }
  | _ => s }) m

/-- An asker that is a descriptor of the job, handed over to the module itself: what it asked for goes on for no one (R294). -/
def orphan (a : Asker) : Asker := match a with
  | .desc _ _ => .engine
  | x => x

/-- Abandoned tensor descriptors: requests that wait are withdrawn, motions and flushes go on for no one (R294). -/
def abandonAsks (m : Sys) : Sys :=
  let m := onRange (fun r => { r with
    waits := r.waits.filter fun w => match w.asker with
      | .desc _ _ => false
      | _ => true
    tensors := r.tensors.map fun e => (e.1, { e.2 with motion := e.2.motion.map fun mo => { mo with asker := orphan mo.asker } }) }) m
  onFlash (fun x => { x with bound := x.bound.map fun b => (b.1, orphan b.2.1, b.2.2) }) m

/-- Collectives that a task of the step has not contributed to. -/
def unmadeColls (j : Job) (t : Nat) : List Desc :=
  let x := taskAt j t
  match x.phase with
  | .placed _ => ((List.range (entryOf j t).descCount).filter fun i => !x.done.contains i && !x.ran.contains i && !x.waits.contains i).filterMap
      fun i => (taskDesc j t i).filter fun d => d.op == 0x38 || d.op == 0x39 || (d.op == 0x31 && dpar d 104 4 != 0xFFFFFFFF)
  | _ => []

/-- Tasks that end before they contribute to a collective tell its other ranks (R263). -/
def abandonColls (j : Job) (m : Sys) : Sys :=
  forEach (List.range j.plan.tasks.length) (fun t m => forEach (unmadeColls j t) (fun d m =>
    let e := collEntry m d
    let k := readRanks e (runOf t m)
    abandonTo e.id k.1 k.2.sys) m) m

/-- A stopping job: its seals and those of its walker tasks are asked to stop; once nothing of it still runs it ends (R294, R317). -/
def jobStop (m : Sys) : Sys :=
  match activeJob m with
  | none => m
  | some j =>
    match j.stopping with
    | none => m
    | some cause =>
      let m := stopWalks (reported (jobStatuses j)) j (onlyIf (cause != .budget) stopSeals m)
      if stillRuns j || walkersRun m j then m else endStopped (abandonAsks (onlyIf (cause != .fabricReset) (abandonColls j) m))

/-- JOB_STOP_COMPLETE (R294). -/
def execJobStopComplete (s : State) : Host.Outcome State Fault Refusal := done s (whileLive jobStop)

/-! ### ENGINE_IDLE_GATE (R184) -/

/-- A core is powered for the job that holds the complex (R185). -/
def jobPowers (m : Sys) (n : Nat) : Bool := coreIn m n && (match m.jobs.job with
  | some j => !j.admitting && coresPowered m
  | none => false)

/-- A core is powered: in service while a job holds the complex, or under a test (R185). -/
def corePowered (m : Sys) (n : Nat) : Bool :=
  jobPowers m n || m.health.tests.any (fun t => match t with
    | .half c _ => c.toNat == n
    | .vector c => c.toNat == n
    | .store c => c.toNat == n
    | _ => false)

/-- What a half has to present: nothing, valid slots of the descriptor that it holds, or bubbles inside a tile whose operands have not
arrived (R164, R178). -/
inductive Presents where
  | nothing | valid | bubble
deriving DecidableEq, Repr

/-- What a half of a core has to present. -/
def presents (m : Sys) (core h : Nat) : Presents := match (halfOf (coreOf m core) h).holder with
  | none => .nothing
  | some (t, i) => match m.jobs.job with
    | none => .nothing
    | some j => if !(taskAt j t).ran.contains i && waitsOperands m j t i then .bubble else .valid

/-- A half takes `k` cycles without a valid slot: dummy slots in its 32 cells up to 2,000 cycles in a row, and inside a tile bubbles too
(R184, R455). -/
def dummyCycles (core h k : Nat) (bubbles : Bool) (m : Sys) : Sys :=
  let d := 32 * min k (2000 - (halfOf (coreOf m core) h).idle)
  let b := if bubbles then 32 * k else 0
  addTotal 31 d (addTotal 32 b (onCore core (fun c => { onHalf h (fun x => { x with idle := min 2000 (x.idle + k) }) c with
    dummyPips := satAdd c.dummyPips d, bubblePips := satAdd c.bubblePips b }) m))

/-- A half-engine has presented dummy slots for 2,000 admitted cycles, and its clock is gated (R184). -/
def idleGate (core half : Nat) (m : Sys) : Sys :=
  let c := coreOf m core
  if corePowered m core && halfServes c half && !c.clockOff.getLsbD half && presents m core half != .valid then
    onCore core (fun c => { c with clockOff := setBit c.clockOff half true })
      (dummyCycles core half (2000 - (halfOf c half).idle) (presents m core half == .bubble) m)
  else m

/-! ### The engine-cycles of a turn (R27, R184) -/

/-- A half is under test: its test counts its own slots as dummy slots when it ends (R456, R457). -/
def underTest (m : Sys) (core h : Nat) : Bool := m.health.tests.contains (.half (BitVec.ofNat 12 core) (BitVec.ofNat 4 h))

/-- A half of a core takes `k` cycles (R184); under test they are those of the test. -/
def halfCycles (core k : Nat) (m : Sys) (h : Nat) : Sys :=
  let c := coreOf m core
  if !halfServes c h || c.clockOff.getLsbD h || underTest m core h then m
  else match presents m core h with
    | .valid => onCore core (onHalf h fun x => { x with idle := 0 }) m
    | x => dummyCycles core h k (x == .bubble) m

/-- An engine of a core would take cycles: a half in service whose clock runs. -/
def engineRuns (c : Core) (e : Nat) : Bool :=
  (halfServes c (2 * e) && !c.clockOff.getLsbD (2 * e)) || (halfServes c (2 * e + 1) && !c.clockOff.getLsbD (2 * e + 1))

/-- A core takes its 16 cycles of the turn in each engine, as far as the allowance that is left goes; the rest is withheld (R27). -/
def coreCycles (acc : Nat × Sys) (core : Nat) : Nat × Sys :=
  if !jobPowers acc.2 core then acc
  else ((List.range 8).filter (engineRuns (coreOf acc.2 core))).foldl (fun (acc : Nat × Sys) e =>
    let k := min 16 acc.1
    let m := addTotal 33 (16 - k) (onCore core (fun c => { c with capHeld := satAdd c.capHeld (16 - k) }) acc.2)
    (acc.1 - k, [2 * e, 2 * e + 1].foldl (halfCycles core k) m)) acc

/-- The engine-cycles of a turn, shared among the squares in round-robin order: the square that comes first moves on by one in each turn (R27;
DESIGN CHOICE, log entry 36). -/
def engineCycles (m : Sys) : Sys :=
  if m.jobs.job.isNone then m
  else ((List.range 4096).foldl (fun acc i => coreCycles acc ((16 * now m + i) % 4096)) (m.power.allow, m)).2

/-- ENGINE_IDLE_GATE (R184). -/
def execEngineIdleGate (core : BitVec 12) (half : BitVec 4) (s : State) : Host.Outcome State Fault Refusal :=
  done s (whileLive (idleGate core.toNat half.toNat))

end Sys2Proof.Machine
end

