-- ==== Sys2Proof/Machine/JobCmd.lean ====
section
/-!
DEFINITION. The job commands JOB_SUBMIT, JOB_END, JOB_QUERY, CTX_OPEN and CTX_CLOSE, and SERVICE_DISABLE (R283 to R286, R296, R300,
R304, R307).
-/
namespace Sys2Proof.Machine

/-! ### JOB_SUBMIT (R284) -/

/-- SERVICE of a plan that waits, as its tensor holds it; a byte that cannot be read names no service. -/
def peekService (n : Nat) (m : Sys) : Byte := ((admitRead n 8 1 m).1.1.headD 0)

/-- A tensor-range address with offset zero of a number in use (R131, R284). -/
def wholeTensor (m : Sys) (a : Nat) : Bool := a % 2 ^ 40 == 0 && userNumber (a / 2 ^ 40) && (tensorOf m (a / 2 ^ 40)).isSome

/-- JOB_SUBMIT's checks at dispatch, its number and its place in the queue (R33, R284, R307, R461). -/
def jobSubmit (c : Cmd) (m : Sys) : Sys :=
  if m.jobs.queue.any (fun w => sameCmd w.cmd c) || ((m.jobs.job.map fun j => sameCmd j.cmd c).getD false) then m
  else
    let service := peekService (subPlan c) m
    if !wholeTensor m (par c 32 8) || !wholeTensor m (par c 40 8) || decide (2 ^ 32 < subStart c + subSteps c) ||
        serviceOff m service.toNat then endWith c stBadCommand m
    else if 64 ≤ m.jobs.queue.length ∨ m.power.entry.isSome = true ∨ m.health.selftest.isSome = true then endWith c stBusy m
    else
      let no := m.jobs.nextNo
      onJobs (fun x => { x with
        queue := x.queue ++ [{ no, cmd := c, service }], nextNo := if no + 1 = 0 then 1 else no + 1,
        wrapped := x.wrapped || no + 1 == 0 }) m

/-- JOB_SUBMIT (R284). -/
def execJobSubmit (c : Cmd) (s : State) : Host.Outcome State Fault Refusal := done s (asCommand c (jobSubmit c))

/-! ### JOB_END, JOB_QUERY (R286, R296) -/

/-- A job has had this number since reset (R284). -/
def wasGiven (m : Sys) (no : BitVec 32) : Bool := no != 0 && (m.jobs.wrapped || decide (no.toNat < m.jobs.nextNo.toNat))

/-- JOB_END (R296). A number that no job has had is refused. -/
def jobEndCmd (c : Cmd) (m : Sys) : Sys :=
  let no : BitVec 32 := BitVec.ofNat 32 (par c 32 4)
  match m.jobs.job.filter fun j => no == 0 || j.no == no with
  | some j =>
    if j.enders.any (sameCmd c) then m
    else if j.admitting then endWith c stBusy m
    else if j.stopping.isSome then complete c (enderEnding true) m
    else onJob (fun j => { j with enders := j.enders ++ [c] }) m
  | none =>
    if m.jobs.queue.any (fun w => w.no == no) then endWith c stBusy m
    else if wasGiven m no then complete c (enderEnding true) m
    else endWith c stBadCommand m

/-- JOB_END (R296). -/
def execJobEnd (c : Cmd) (s : State) : Host.Outcome State Fault Refusal := done s (asCommand c (jobEndCmd c))

/-- STATE of GLB.JOB_STATUS (R308). -/
def jobState (m : Sys) : Nat :=
  match m.jobs.job with
  | none => 0
  | some j => if j.admitting then 1 else if j.stopping.isSome then 4 else if j.paused then 3 else 2

/-- RESULT of JOB_QUERY (R286). -/
def jobQueryResult (no : BitVec 32) (st step ctxs : Nat) : List Byte :=
  resultOf [(40, leBytes 4 no.toNat), (44, leBytes 1 st), (48, leBytes 4 step), (52, leBytes 2 ctxs)]

/-- JOB_QUERY (R286). A waiting job has no current step: that field is free (log entry 2). -/
def jobQuery (c : Cmd) (m : Sys) : Sys :=
  let no : BitVec 32 := BitVec.ofNat 32 (par c 32 4)
  match m.jobs.job.filter fun j => no == 0 || j.no == no with
  | some j =>
    complete c { doneWith (jobQueryResult j.no (jobState m) j.step j.ctxs.length) with pips := j.pips } m
  | none =>
    match m.jobs.queue.find? fun w => w.no == no with
    | some w =>
      let v := draw m
      complete c (doneWith (jobQueryResult w.no 0 (v.1.toNat % 2 ^ 32) 0)) v.2
    | none => endWith c stBadCommand m

/-- JOB_QUERY (R286). -/
def execJobQuery (c : Cmd) (s : State) : Host.Outcome State Fault Refusal := done s (asCommand c (jobQuery c))

/-! ### CTX_OPEN, CTX_CLOSE (R300, R304) -/

/-- The running serving job of a service. -/
def servingJob (m : Sys) (service : Nat) : Option Job :=
  m.jobs.job.filter fun j => j.plan.serving && !j.admitting && j.stopping.isNone && j.service.toNat == service

/-- A context that waits to join. -/
def newCtx (c : Cmd) (prompt : List (BitVec 32)) (search : Bool) (m : Sys) : Ctx :=
  { cmd := c, prompt, maxNew := par c 40 4, stop := BitVec.ofNat 32 (par c 44 4), emitted := [], pos := 0, ending := none, search,
    turn := now m, conds := 0, closers := [], core := none, replaced := 0 }

/-- What CTX_OPEN's own fields allow, whatever job runs (R99, R300). -/
def ctxAskGood (c : Cmd) (m : Sys) : Bool :=
  decide (1 ≤ par c 36 4) && decide (1 ≤ par c 40 4) && decide (4 * par c 40 4 ≤ c.length.toNat) && userNumber (tnumOf c.tensor) &&
    (match tensorOf m (tnumOf c.tensor) with
      | some t => decide (offsetOf c.tensor + 4 * par c 36 4 ≤ t.size)
      | none => false)

/-- CTX_OPEN: its checks, BAD_COMMAND before BUSY (R14), then the prompt is read once and the context waits (R300, R307). -/
def ctxOpen (c : Cmd) (m : Sys) : Sys :=
  let service := par c 32 1
  let len := par c 36 4
  let n := tnumOf c.tensor
  let mine (x : Ctx) := sameCmd x.cmd c
  let job := servingJob m service
  if (m.jobs.job.map fun j => j.waiting.any mine || j.ctxs.any fun e => mine e.2).getD false then m
  else if serviceOff m service || !ctxAskGood c m ||
      (job.any fun j => decide (j.plan.maxPos < len + 1) || decide (j.plan.maxPos < len + par c 40 4)) then endWith c stBadCommand m
  else if job.isNone || ((tensorOf m n).map (·.state)) == some .building then endWith c stBusy m
  else if unitsBusy c n (offsetOf c.tensor) (4 * len) m ||
      ((tensorOf m n).map fun t => stackWaits m t (offsetOf c.tensor) (4 * len)).getD false then m
  else
    let r := readTensor n (offsetOf c.tensor) (4 * len) m
    let e := readEnding n r.1
    if e.status ≠ stDone then complete c e r.2
    else
      let prompt := (List.range len).map fun i => BitVec.ofNat 32 (leAt r.1.bytes (4 * i) 4)
      onJob (fun j => { j with waiting := j.waiting ++ [newCtx c prompt false m] }) r.2

/-- CTX_OPEN (R300). -/
def execCtxOpen (c : Cmd) (s : State) : Host.Outcome State Fault Refusal := done s (asCommand c (ctxOpen c))

/-- The free context numbers, ascending, `n` of them. -/
def freeNumbers (t : Tab Ctx) (n : Nat) : List Nat := ((List.range (t.length + n)).filter fun i => (tfind i t).isNone).take n

/-- The place in the queue of the waiting context that a number names: the one that would be given it next (R301, R304; log entry
23). -/
def waitingNamed (j : Job) (no : Nat) : Option Nat := indexOf? (· == no) (freeNumbers j.ctxs j.waiting.length)

/-- CTX_CLOSE (R304). -/
def ctxClose (c : Cmd) (m : Sys) : Sys :=
  let no := par c 32 2
  match m.jobs.job with
  | none => endWith c stBadCommand m
  | some j =>
    if !j.plan.serving || j.admitting then endWith c stBadCommand m
    else if j.ctxs.any (fun e => e.2.closers.any (sameCmd c)) then m
    else match (tfind no j.ctxs).filter fun x => !x.search with
      | some x =>
        onJob (fun j => { j with
          ctxs := tset no { x with ending := x.ending.orElse fun _ => some stDone, closers := x.closers ++ [c] } j.ctxs }) m
      | none =>
        match (waitingNamed j no).bind fun i => (j.waiting[i]?).map (i, ·) with
        | some (i, x) =>
          endWith c stDone (endCtx no stDone x (onJob (fun j => { j with waiting := j.waiting.take i ++ j.waiting.drop (i + 1) }) m))
        | none => endWith c stBadCommand m

/-- CTX_CLOSE (R304). -/
def execCtxClose (c : Cmd) (s : State) : Host.Outcome State Fault Refusal := done s (asCommand c (ctxClose c))

/-! ### SERVICE_DISABLE (R307) -/

/-- The service of a command (R307). -/
def cmdService (c : Cmd) (m : Sys) : Nat :=
  if 0x20 ≤ c.opcode ∧ c.opcode ≤ 0x2F then 1
  else if c.opcode = 0x18 then par c 32 1
  else if c.opcode = 0x10 then (peekService (subPlan c) m).toNat
  else 0

/-- A command of a disabled service, undispatched at this rook or relayed here and not started, ends FLUSHED (R307). -/
def flushService (service : Nat) (m : Sys) : Sys :=
  let m := forEach (List.range 16) (fun e m => forEach ((epOf m e).held.map (·.2)) (fun h m =>
    if h.phase = .waiting ∧ h.cmd.exec = ownAddr m ∧ cmdService h.cmd m = service then endWith h.cmd stFlushed m else m) m) m
  forEach m.task.relayed (fun c m =>
    if m.task.running.any (sameCmd c) = false ∧ cmdService c m = service then endWith c stFlushed m else m) m

/-- One service becomes disabled: its commands, waiting jobs and waiting contexts end FLUSHED, and a running merge stops (R307, R336). -/
def disableOne (service : Nat) (m : Sys) : Sys :=
  let m := flushService service m
  let gone := m.jobs.queue.filter fun w => w.service.toNat == service
  let m := forEach gone (fun w => refuseJob w 0 { ending stFlushed with conds := 0 })
    (onJobs (fun x => { x with queue := x.queue.filter fun w => w.service.toNat != service }) m)
  let m := match m.jobs.job with
    | some j =>
      if j.service.toNat ≠ service then m
      else if j.admitting then
        refuseJob { no := j.no, cmd := j.cmd, service := j.service } 0 (ending stFlushed) (freeComplex j m)
      else
        forEach ((j.ctxs.map (·.2)).filter fun x => x.search && x.cmd.opcode == 0x27)
          (fun x m => if walkRuns m x then stopCmdSeals stFlushed x.cmd m else dropSearch stFlushed x.cmd m)
          (forEach j.waiting (dropCtx stFlushed none) (onJob (fun j => { j with waiting := [] }) m))
    | none => m
  onlyIf (drained m) endClean m

/-- GLB.SVC_CTRL is written: bits newly set disable their services in this turn; clearing a bit changes no job (R307). -/
def serviceCtrl (mask : BitVec 3) (m : Sys) : Sys :=
  let fresh := mask &&& ~~~m.jobs.svcOff
  let m := onJobs (fun x => { x with svcOff := mask }) m
  forEach ((List.range 3).filter fun i => fresh.getLsbD i) (fun i => disableOne (i + 1)) m

/-- SERVICE_DISABLE (R307). -/
def execServiceDisable (mask : BitVec 3) (s : State) : Host.Outcome State Fault Refusal := done s (whileLive (serviceCtrl mask))

end Sys2Proof.Machine
end

