-- ==== Sys2Proof/Machine/SearchIndex.lean ====
section
/-!
DEFINITION. Indexes: the root and its components, rows and vectors, query sketches and scores, segments and liveness (R309 to R314,
R321, R331, R332).
-/
namespace Sys2Proof.Machine

/-! ### The root (R310) -/

/-- A root as read (R310). -/
structure Root where
  cluster : Bool
  metric : Nat
  dim : Nat
  fmt : Nat
  bits : Nat
  degree : Nat
  entries : Nat
  count : Nat
  clusters : Nat
  attr : Nat
  payload : Nat
  shift : Nat
  comps : List Nat
  points : List Nat
deriving DecidableEq, Repr

/-- A row length of R310: 0 or a multiple of 8 up to 4,096. -/
def rowField (n : Nat) : Bool := n % 8 == 0 && decide (n ≤ 4096)

/-- The field ranges of R310. -/
def rootRanges (x : Root) : Bool :=
  decide (x.metric ≤ 1) && decide (8 ≤ x.dim) && decide (x.dim ≤ 4096) && x.dim % 8 == 0 && decide (x.fmt ≤ 2) &&
    rowField x.attr && rowField x.payload && decide (10 ≤ x.shift) && decide (x.shift ≤ 32) &&
    (if x.cluster then
      x.degree == 0 && x.entries == 0 && decide (1 ≤ x.clusters) && decide (x.clusters ≤ 1048576) && decide (x.count ≤ 10 ^ 11)
    else
      decide (1 ≤ x.degree) && decide (x.degree ≤ 64) && decide (x.entries ≤ 64) && (x.entries != 0 || x.count == 0) &&
        x.clusters == 0 && decide (x.count ≤ 4 * 10 ^ 9))

/-- The root that 4,096 bytes spell, with its checks (R310, R312). -/
def readRoot (l : List Byte) : Option Root :=
  let x : Root :=
    { cluster := leAt l 6 1 == 1, metric := leAt l 7 1, dim := leAt l 8 2, fmt := leAt l 10 1, bits := sketchBits (leAt l 11 1),
      degree := leAt l 12 2, entries := leAt l 14 2, count := leAt l 16 8, clusters := leAt l 24 4, attr := leAt l 28 2,
      payload := leAt l 30 2, shift := leAt l 32 1, comps := (List.range 10).map fun i => leAt l (64 + 4 * i) 4,
      points := (List.range 64).map fun i => leAt l (128 + 4 * i) 4 }
  if leAt l 0 4 = 0x5849584A ∧ leAt l 4 2 = 1 ∧ leAt l 6 1 ≤ 1 ∧ leAt l 11 1 ≤ 2 ∧ allZero (bytesAt l 33 31) = true ∧
      allZero (bytesAt l 104 24) = true ∧ allZero (bytesAt l 384 3708) = true ∧ (x.comps.all fun n => decide (n < 2 ^ 24)) = true ∧
      ((x.points.drop x.entries).all fun n => n == 0xFFFFFFFF) = true ∧
      bytesAt l 4092 4 = crcBytes (bytesAt l 0 4092) ∧ rootRanges x = true then some x
  else none

/-- The bytes of a root (R310). -/
def rootBytes (x : Root) : List Byte :=
  withCrc (leBytes 4 0x5849584A ++ leBytes 2 1 ++ leBytes 1 (if x.cluster then 1 else 0) ++ leBytes 1 x.metric ++ leBytes 2 x.dim ++
    leBytes 1 x.fmt ++ leBytes 1 (if x.bits = 256 then 0 else if x.bits = 512 then 1 else 2) ++ leBytes 2 x.degree ++
    leBytes 2 x.entries ++ leBytes 8 x.count ++ leBytes 4 x.clusters ++ leBytes 2 x.attr ++ leBytes 2 x.payload ++
    leBytes 1 x.shift ++ zeros 31 ++ x.comps.flatMap (leBytes 4) ++ zeros 24 ++ x.points.flatMap (leBytes 4) ++ zeros 3708)

/-! ### Components (R311) -/

/-- Bytes of a vector in the FULL layout. -/
def fullBytes (x : Root) : Nat := if x.fmt = 0 then 4 * x.dim else if x.fmt = 1 then x.dim + 8 else x.dim / 2 + 8

/-- Component `i` is needed in the root's mode. -/
def compNeeded (x : Root) (i : Nat) : Bool :=
  match i with
  | 0 => !x.cluster
  | 3 => !x.cluster
  | 4 => x.cluster
  | 5 => x.cluster
  | 6 => x.cluster
  | 8 => x.attr != 0
  | 9 => x.payload != 0
  | _ => true

/-- Row bytes of a component that is cut into pieces; 0 for a single tensor. -/
def compRow (x : Root) (i : Nat) : Nat :=
  match i with
  | 0 => x.bits / 8
  | 1 => fullBytes x
  | 2 => 8
  | 3 => 4 * x.degree
  | 6 => x.bits / 8 + 8
  | 8 => x.attr
  | 9 => x.payload
  | _ => 0

/-- Bytes of a component that is a single tensor. -/
def compSingle (x : Root) (i : Nat) : Nat :=
  match i with
  | 4 => 4 * x.clusters * x.dim
  | 5 => 16 * x.clusters
  | _ => 4 * x.bits * (x.dim + 1)

/-- Sizes of the tensors of a component, in order. Every list position holds one node, so LISTS has COUNT rows (log entry 24). -/
def compSizes (x : Root) (i : Nat) : List Nat :=
  if compRow x i = 0 then [compSingle x i]
  else (List.range (cquo x.count (2 ^ x.shift))).map fun j => min (2 ^ x.shift) (x.count - j * 2 ^ x.shift) * compRow x i

/-- The components that a root needs. -/
def compsOf (x : Root) : List Nat := (List.range 10).filter (compNeeded x)

/-- First tensor number of a component. -/
def compFirst (x : Root) (i : Nat) : Nat := x.comps.getD i 0

/-- The tensors of the components. -/
def compTensors (x : Root) : List TNum :=
  (compsOf x).flatMap fun i => (span (compFirst x i) (compSizes x i).length).map (BitVec.ofNat 24)

/-- The checks of R312 on the components. -/
def compsGood (m : Sys) (x : Root) : Bool :=
  (List.range 10).all fun i =>
    if compNeeded x i then
      compFirst x i != 0 && ((compSizes x i).zip (span (compFirst x i) (compSizes x i).length)).all fun e =>
        userNumber e.2 && decide (e.1 ≤ 2 ^ 40) && (match tensorOf m e.2 with
          | some t => t.isSealed && t.state == .live && t.size == e.1
          | none => false)
    else compFirst x i == 0

/-! ### Reading (R311) -/

/-- The root of an index. -/
def rootOf (x : Index) (r : Run) : Option Root × Run :=
  let v := addrRead (x.root.toNat * 2 ^ 40) 4096 r
  (readRoot v.1, v.2)

/-- The first `len` bytes of row `n` of a component cut into pieces. A number at or beyond COUNT is refused (R131, R312; log entry
24). -/
def compRead (x : Root) (i n len : Nat) (r : Run) : List Byte × Run :=
  if x.count ≤ n then (zeros len, { r with bad := true })
  else addrRead ((compFirst x i + n / 2 ^ x.shift) * 2 ^ 40 + n % 2 ^ x.shift * compRow x i) len r

/-- Row `n` of a component. -/
def compAt (x : Root) (i n : Nat) (r : Run) : List Byte × Run := compRead x i n (compRow x i) r

/-- Bytes of a component that is a single tensor. -/
def singleAt (x : Root) (i off len : Nat) (r : Run) : List Byte × Run := addrRead (compFirst x i * 2 ^ 40 + off) len r

/-- The object number of a base node. -/
def objectAt (x : Root) (n : Nat) (r : Run) : Nat × Run :=
  let v := compAt x 2 n r
  (leNat v.1, v.2)

/-- Exact values of finite binary32 numbers; none when one is not finite. -/
def exactAll (l : List F32) : Option (List Frac) := if l.all isFin then some (l.map val32) else none

/-- The vector in the FULL layout carries no malformed scale (R204, R311). -/
def fullGood (x : Root) (l : List Byte) : Bool := x.fmt == 0 || scGood (leAt l (if x.fmt = 1 then x.dim else x.dim / 2) 2)

/-- What a vector in the FULL layout holds (R311): its exact values; none when a binary32 value is not finite; a malformed scale is
refused (R204). -/
def fullVector (x : Root) (l : List Byte) (r : Run) : Option (List Frac) × Run :=
  if x.fmt = 0 then (exactAll (f32List (l.take (4 * x.dim))), r)
  else
    let bytes := if x.fmt = 1 then x.dim else x.dim / 2
    let s := leAt l bytes 2
    let codes := unpackRow (if x.fmt = 1 then 8 else 4) x.dim (l.take bytes)
    if fullGood x l then (some (codes.map fun q => fmul (fracOf q) (scValue s)), r) else (none, { r with bad := true })

/-! ### Query sketches and scores (R313, R314) -/

/-- Exact sum of products. -/
def dotExact (a b : List Frac) : Frac := ((a.zip b).map fun p => fmul p.1 p.2).foldl fadd (fracOf 0)

/-- Exact sum of squared differences. -/
def distExact (a b : List Frac) : Frac := ((a.zip b).map fun p => fmul (fsub p.1 p.2) (fsub p.1 p.2)).foldl fadd (fracOf 0)

/-- KIND of the index's scores (R314). -/
def scoreKind (x : Root) : Nat := if x.metric = 0 then 2 else 1

/-- The score of a candidate (R314); against a vector that is not finite the manual states none (log entry 2). -/
def scoreOf (x : Root) (q : List Frac) (v : Option (List Frac)) (r : Run) : F32 × Run :=
  match v with
  | some v => (rne32 (if x.metric = 0 then dotExact q v else distExact q v), r)
  | none =>
    let d := draw r.sys
    (d.1.truncate 32, { r with sys := d.2 })

/-- The sketch of a vector under a projection read as bytes; a projection that is not finite states none (R313; log entry 2). -/
def sketchWith (x : Root) (proj : List Byte) (q : List Frac) (r : Run) : List Byte × Run :=
  match exactAll (f32List proj) with
  | some p =>
    (bitBytes ((List.range x.bits).map fun i =>
      let sum := dotExact q ((List.range x.dim).map fun d => p.getD (d * x.bits + i) (fracOf 0))
      flt (p.getD (x.dim * x.bits + i) (fracOf 0)) sum), r)
  | none =>
    let b := openBytes (x.bits / 8) r.sys
    (b.1, { r with sys := b.2 })

/-- The projection's bytes. -/
def projection (x : Root) (r : Run) : List Byte × Run := singleAt x 7 0 (compSingle x 7) r

/-! ### Segments (R321, R331, R332) -/

/-- Bytes of an insert record (R331). -/
def insertBytes (x : Root) : Nat := 8 + x.bits / 8 + fullBytes x + x.attr + x.payload

/-- Fields of an insert record. -/
def recObject (l : List Byte) : Nat := leAt l 0 8
def recSketch (x : Root) (l : List Byte) : List Byte := bytesAt l 8 (x.bits / 8)
def recFull (x : Root) (l : List Byte) : List Byte := bytesAt l (8 + x.bits / 8) (fullBytes x)
def recAttr (x : Root) (l : List Byte) : List Byte := bytesAt l (8 + x.bits / 8 + fullBytes x) x.attr
def recPayload (x : Root) (l : List Byte) : List Byte := bytesAt l (8 + x.bits / 8 + fullBytes x + x.attr) x.payload

/-- The header of a segment (R331). -/
def segmentHead (tomb : Bool) (index rows : Nat) : List Byte :=
  withCrc (leBytes 4 0x4753584A ++ leBytes 1 (if tomb then 1 else 0) ++ zeros 1 ++ leBytes 2 index ++ leBytes 4 rows ++ zeros 48)

/-- The records of an insert segment in row order: (ordinal, record). -/
def segmentRecords (x : Root) (s : Segment) (r : Run) : List (Nat × List Byte) × Run :=
  if s.tomb then ([], r)
  else (List.range s.rows).foldl (fun (acc : List (Nat × List Byte) × Run) i =>
    let v := addrRead (s.tensor.toNat * 2 ^ 40 + 64 + i * insertBytes x) (insertBytes x) acc.2
    (acc.1 ++ [(s.ordinal, v.1)], v.2)) ([], r)

/-- The records of every insert segment, in ordinal and then row order (R325). -/
def sideRecords (x : Root) (l : List Segment) (r : Run) : List (Nat × List Byte) × Run :=
  (sortBy (fun a b => decide (a.ordinal < b.ordinal)) l).foldl (fun (acc : List (Nat × List Byte) × Run) s =>
    let v := segmentRecords x s acc.2
    (acc.1 ++ v.1, v.2)) ([], r)

/-- An entry of ordinal `ord` is live: no segment of a higher ordinal holds its object (R321). -/
def liveAt (x : Index) (ord object : Nat) : Bool := match tfind object x.objects with
  | some h => decide (h ≤ ord)
  | none => true

/-- Side records of an index, insert rows and tombstones together (R332). -/
def sideRows (x : Index) : Nat := x.segments.foldl (fun n s => n + s.rows) 0

/-- Live side entries: objects whose highest ordinal is that of an insert segment. -/
def liveSide (x : Index) : Nat :=
  (x.objects.filter fun e => x.segments.any fun s => s.ordinal == e.2 && !s.tomb).length

/-- Live base nodes, in node order, with their object numbers (R321, R333). -/
def liveBase (i : Index) (x : Root) (r : Run) : List (Nat × Nat) × Run :=
  (List.range x.count).foldl (fun (acc : List (Nat × Nat) × Run) n =>
    let v := objectAt x n acc.2
    (if liveAt i 0 v.1 then acc.1 ++ [(n, v.1)] else acc.1, v.2)) ([], r)

/-! ### Outcomes -/

/-- The outcome of a command whose reading met conditions (R14, R470). -/
def runEnding (r : Run) : Ending :=
  let st := reported ((if r.bad then [stBadCommand] else []) ++ (if r.busy then [stBusy] else []) ++ statusesOf r.conds)
  { ending st with conds := if st = stBusy then 0 else r.conds, err := if r.bad || r.busy then 0 else r.err }

/-- Change an index of the registry: its version rises by 1 (R309). -/
def onIndex (i : Nat) (f : Index → Index) : Sys → Sys := onSearch fun x => { x with
  registry := match tfind i x.registry with
    | some v => tset i { f v with version := v.version + 1 } x.registry
    | none => x.registry }

end Sys2Proof.Machine
end

