-- ==== Sys2Proof/Machine/SearchRun.lean ====
section
/-!
DEFINITION. One search on one module: its parameters, the walk, probe or scan, the pool and the rerank, and its charge (R314, R315,
R320 to R328).
-/
namespace Sys2Proof.Machine

/-! ### Parameters (R320) -/

/-- The parameters of a SEARCH. -/
structure SearchAsk where
  k : Nat
  l : Nat
  rerank : Nat
  nprobe : Nat
  expand : Nat
  exhaustive : Bool
  noRerank : Bool
  sharded : Bool
  isPartial : Bool
  limit : Nat
  termCounts : List Nat
  fanin : Nat
  termsAddr : Nat
  shards : Nat
  shardCount : Nat
  rowlen : Nat
deriving DecidableEq, Repr

/-- The parameters as the command block holds them. -/
def searchAsk (c : Cmd) : SearchAsk :=
  let flags := par c 43 1
  { k := par c 34 2, l := par c 36 2, rerank := par c 38 2, nprobe := par c 40 2, expand := par c 42 1,
    exhaustive := flags.testBit 0, noRerank := flags.testBit 1, sharded := flags.testBit 2, isPartial := flags.testBit 3,
    limit := par c 44 4, termCounts := (List.range (min 4 (par c 48 1))).map fun i => par c (49 + i) 1, fanin := par c 53 1,
    termsAddr := par c 56 8, shards := par c 64 8, shardCount := par c 72 4, rowlen := par c 76 4 }

/-- A value lies in a range. -/
def within (lo hi n : Nat) : Bool := decide (lo ≤ n) && decide (n ≤ hi)

/-- Every parameter lies in its range for an index (R320); a sub-search keeps the fan-in fields of the command it serves (R338). -/
def searchGood (c : Cmd) (sub : Bool) (x : Root) : Bool :=
  let a := searchAsk c
  within 1 1024 a.k && within a.k 1024 a.rerank && decide (par c 43 1 < 16) && decide (par c 48 1 ≤ 4) &&
    (par c 48 1 == 0 || x.attr != 0) && a.termCounts.all (within 1 16) &&
    (List.range 4).all (fun i => decide (i < par c 48 1) || par c (49 + i) 1 == 0) && par c 54 2 == 0 &&
    (if x.cluster then a.l == 0 && within 1 (min 4096 x.clusters) a.nprobe && a.expand == 0 && a.limit == 0
     else within a.k 1024 a.l && a.nprobe == 0 && within 1 16 a.expand && within a.l 65536 a.limit) &&
    (if a.sharded then within 2 64 a.fanin && within 1 4096 a.shardCount else sub || (a.fanin == 0 && a.shardCount == 0)) &&
    a.rowlen % 8 == 0 && decide (a.rowlen ≤ x.payload) && decide (listBytes a.k a.rowlen ≤ c.length.toNat)

/-- Terms of all groups together. -/
def termTotal (a : SearchAsk) : Nat := a.termCounts.foldl (· + ·) 0

/-- Cut a list of terms into groups. -/
def groupTerms : List Nat → List Term → List (List Term)
  | [], _ => []
  | n :: t, l => l.take n :: groupTerms t (l.drop n)

/-! ### Pool (R315, R326) -/

/-- Where a candidate lies: a base node, or a row of an insert segment. -/
inductive CandAt where
  | base (node : Nat)
  | side (record : List Byte)
deriving DecidableEq, Repr

/-- A candidate: its entry of KIND 0, and where it lies. -/
abbrev Cand := Entry16 × CandAt

/-- An entry of a distance or score, a segment ordinal and an object. -/
def candEntry (score ord object : Nat) : Entry16 :=
  { score := BitVec.ofNat 32 score, payload := BitVec.ofNat 32 ord, object := BitVec.ofNat 64 object }

/-- The best `n` candidates under a kind (R315). -/
def bestOf (kind n : Nat) (l : List Cand) : List Cand := (sortBy (fun a b => better kind a.1 b.1) l).take n

/-! ### The walk (R322) -/

/-- What the walk holds: the queue of (distance, node, expanded), best first; visited nodes with their distances, and in order. -/
structure Walk where
  queue : List (Nat × Nat × Bool)
  seen : Tab Nat
  order : List (Nat × Nat)
  full : Bool
deriving DecidableEq, Repr

/-- A walk that has visited nothing. -/
def walkStart : Walk := { queue := [], seen := [], order := [], full := false }

/-- Order of the queue: distance, then node number (R315). -/
def queueLess (a b : Nat × Nat × Bool) : Bool := decide (a.1 < b.1) || (a.1 == b.1 && decide (a.2.1 < b.2.1))

/-- Distances and neighbours as a walk reads them. -/
structure Graph where
  /-- distance from the query to a node -/
  dist : Nat → Run → Nat × Run
  /-- neighbours of a node in list order -/
  near : Nat → Run → List Nat × Run

/-- visit(n) (R322). -/
def visit (g : Graph) (l n : Nat) (w : Walk × Run) : Walk × Run :=
  let d := g.dist n w.2
  ({ w.1 with
      queue := (insertBy queueLess (d.1, n, false) w.1.queue).take l, seen := tset n d.1 w.1.seen, order := w.1.order ++ [(n, d.1)] }, d.2)

/-- Visit one neighbour unless it is visited; at the limit the walk is full (R322). -/
def visitNear (g : Graph) (l limit : Nat) (w : Walk × Run) (n : Nat) : Walk × Run :=
  if w.1.full || n == 0xFFFFFFFF || (tfind n w.1.seen).isSome then w
  else if w.1.seen.length = limit then ({ w.1 with full := true }, w.2)
  else visit g l n w

/-- One pass of the loop over its picks (R322). -/
def walkPass (g : Graph) (l limit : Nat) (picks : List Nat) (w : Walk × Run) : Walk × Run :=
  picks.foldl (fun w p =>
    if w.1.full then w
    else
      let v := g.near p w.2
      let marked := { w.1 with queue := w.1.queue.map fun e => if e.2.1 = p then (e.1, e.2.1, true) else e }
      v.1.foldl (visitNear g l limit) (marked, v.2)) w

/-- The loop (R322); `fuel` exceeds the number of passes, since every pass expands a node visited. -/
def walkLoop (g : Graph) (l expand limit : Nat) : Nat → Walk × Run → Walk × Run
  | 0, w => w
  | fuel + 1, w =>
    let picks := ((w.1.queue.filter fun e => !e.2.2).take expand).map (·.2.1)
    if picks.isEmpty || w.1.full then w else walkLoop g l expand limit fuel (walkPass g l limit picks w)

/-- The walk from entry points (R322). -/
def walkFrom (g : Graph) (points : List Nat) (l expand limit : Nat) (r : Run) : Walk × Run :=
  walkLoop g l expand limit (limit + points.length + 1) (points.foldl (fun w n => visit g l n w) (walkStart, r))

/-- The base as a graph for a query sketch. -/
def baseGraph (x : Root) (qs : List Byte) : Graph :=
  { dist := fun n r =>
      let v := compAt x 0 n r
      (hamming qs v.1, v.2)
    near := fun n r =>
      let v := compAt x 3 n r
      ((List.range x.degree).map fun i => leAt v.1 (4 * i) 4, v.2) }

/-! ### Lists (R323, R324) -/

/-- The members of list `i`, in position order: (node, distance). -/
def listMembers (x : Root) (qs : List Byte) (i : Nat) (r : Run) : List (Nat × Nat) × Run :=
  let e := singleAt x 5 (16 * i) 16 r
  (List.range (leAt e.1 8 8)).foldl (fun (acc : List (Nat × Nat) × Run) j =>
    let v := compAt x 6 (leAt e.1 0 8 + j) acc.2
    (acc.1 ++ [(leAt v.1 (x.bits / 8) 8, hamming qs (v.1.take (x.bits / 8)))], v.2)) ([], e.2)

/-- Members of lists in order. -/
def membersOf (x : Root) (qs : List Byte) (l : List Nat) (r : Run) : List (Nat × Nat) × Run :=
  l.foldl (fun (acc : List (Nat × Nat) × Run) i =>
    let v := listMembers x qs i acc.2
    (acc.1 ++ v.1, v.2)) ([], r)

/-- Scores of all centroids: (score, cluster) as entries (R314, R315). -/
def centroidScores (x : Root) (q : List Frac) (r : Run) : List Entry16 × Run :=
  (List.range x.clusters).foldl (fun (acc : List Entry16 × Run) i =>
    let v := singleAt x 4 (4 * x.dim * i) (4 * x.dim) acc.2
    let s := scoreOf x q (exactAll (f32List v.1)) v.2
    (acc.1 ++ [candEntry s.1.toNat 0 i], s.2)) ([], r)

/-- Clusters best first (R315). -/
def clusterOrder (x : Root) (l : List Entry16) : List Nat :=
  (sortBy (better (scoreKind x)) l).map fun e => e.object.toNat

/-- Every base node in order, with its distance (R324). -/
def everyNode (x : Root) (qs : List Byte) (r : Run) : List (Nat × Nat) × Run :=
  (List.range x.count).foldl (fun (acc : List (Nat × Nat) × Run) n =>
    let v := compAt x 0 n acc.2
    (acc.1 ++ [(n, hamming qs v.1)], v.2)) ([], r)

/-- The base nodes that a search compares, with their distances, and whether VISIT_LIMIT was reached (R322 to R324). -/
def baseMet (x : Root) (a : SearchAsk) (q : List Frac) (qs : List Byte) (r : Run) : List (Nat × Nat) × Bool × Run :=
  if x.cluster then
    if a.exhaustive then
      let v := membersOf x qs (List.range x.clusters) r
      (v.1, false, v.2)
    else
      let s := centroidScores x q r
      let v := membersOf x qs ((clusterOrder x s.1).take a.nprobe) s.2
      (v.1, false, v.2)
  else if a.exhaustive then
    let v := everyNode x qs r
    (v.1, false, v.2)
  else
    let w := walkFrom (baseGraph x qs) (x.points.take x.entries) a.l a.expand a.limit r
    (w.1.order, w.1.full, w.2)

/-! ### Eligibility (R321) -/

/-- The candidate of a base node if it is eligible. -/
def baseCand (i : Index) (x : Root) (g : List (List (Term × List (List Byte)))) (n d : Nat) (r : Run) : Option Cand × Run :=
  let o := objectAt x n r
  let live := liveAt i 0 o.1
  let v := if g.isEmpty || !live then ([], o.2) else compAt x 8 n o.2
  (if live && (g.isEmpty || recordMatches g v.1) then some (candEntry d 0 o.1, .base n) else none, v.2)

/-- The eligible candidates of the base. -/
def baseCands (i : Index) (x : Root) (g : List (List (Term × List (List Byte)))) (l : List (Nat × Nat)) (r : Run) : List Cand × Run :=
  l.foldl (fun (acc : List Cand × Run) e =>
    let v := baseCand i x g e.1 e.2 acc.2
    (acc.1 ++ v.1.toList, v.2)) ([], r)

/-- The eligible candidates of the insert segments (R325). -/
def sideCands (i : Index) (x : Root) (g : List (List (Term × List (List Byte)))) (qs : List Byte) (l : List (Nat × List Byte)) : List Cand :=
  l.filterMap fun e =>
    if liveAt i e.1 (recObject e.2) && (g.isEmpty || recordMatches g (recAttr x e.2)) then
      some (candEntry (hamming qs (recSketch x e.2)) e.1 (recObject e.2), .side e.2)
    else none

/-! ### Rerank and rows (R326) -/

/-- The FULL row of a candidate. -/
def candFull (x : Root) (c : CandAt) (r : Run) : List Byte × Run := match c with
  | .base n => compAt x 1 n r
  | .side l => (recFull x l, r)

/-- The first `n` bytes of a candidate's payload row. -/
def candRow (x : Root) (n : Nat) (c : CandAt) (r : Run) : List Byte × Run :=
  if n = 0 then ([], r)
  else match c with
    | .base b => compRead x 9 b n r
    | .side l => ((recPayload x l).take n, r)

/-- Full vectors are read and scored; the score replaces the distance (R326 step 2). -/
def rerankAll (x : Root) (q : List Frac) (l : List Cand) (r : Run) : List Cand × Run :=
  l.foldl (fun (acc : List Cand × Run) c =>
    let v := candFull x c.2 acc.2
    let f := fullVector x v.1 v.2
    let s := scoreOf x q f.1 f.2
    (acc.1 ++ [({ c.1 with score := s.1 }, c.2)], s.2)) ([], r)

/-- Payload rows of the selected candidates. -/
def gatherRows (x : Root) (n : Nat) (l : List Cand) (r : Run) : List (Entry16 × List Byte) × Run :=
  l.foldl (fun (acc : List (Entry16 × List Byte) × Run) c =>
    let v := candRow x n c.2 acc.2
    (acc.1 ++ [(c.1, v.1)], v.2)) ([], r)

/-! ### One module's search -/

/-- What a module's own search gives. -/
structure SearchGot where
  picked : Picked
  kind : Nat
  compared : Nat
  reranked : Nat
  hitLimit : Bool
  charge : Nat
deriving DecidableEq, Repr

/-- Pips of one reranked vector (R328). -/
def rerankCost (x : Root) : Nat := x.dim * (if x.fmt = 0 then 16 else if x.fmt = 1 then 8 else 4)

/-- Pips of eligibility tests: base and side entries count apart, as the worked case does (R328; log entry 24). -/
def eligCost (groups : Bool) (n t : Nat) : Nat := if groups then filterCost n t else 0

/-- The search of an index by one module (R320 to R328). -/
def searchIndex (i : Index) (x : Root) (a : SearchAsk) (q : List Frac) (terms : List (List Term)) (r : Run) : SearchGot × Run :=
  let p := projection x r
  let s := sketchWith x p.1 q p.2
  let g := readSets terms s.2
  let b := baseMet x a q s.1 g.2
  let bc := baseCands i x g.1 b.1 b.2.2
  let side := sideRecords x i.segments bc.2
  let met := bc.1 ++ sideCands i x g.1 s.1 side.1
  let pool := bestOf 0 a.rerank met
  let once := dedupe 0 pool
  let kind := if a.noRerank then 0 else scoreKind x
  let v := if a.noRerank then (once, side.2) else rerankAll x q once side.2
  let twice := dedupe kind v.1
  let entries := twice.map (·.1)
  let best := (netBest kind a.k entries).take (min a.k entries.length)
  let chosen := best.filterMap fun e => twice.find? fun c => c.1 == e
  let rows := gatherRows x a.rowlen chosen v.2
  let compared := b.1.length + side.1.length
  let t := termWeight terms.flatten
  ({ picked :=
      { entries := rows.1, valid := (met.length : Int) - (pool.length - once.length : Nat) - (v.1.length - twice.length : Nat),
        tied := (tiedWith kind best entries : Int) - tiedWith kind best best }
     kind, compared, reranked := if a.noRerank then 0 else once.length, hitLimit := b.2.1
     charge := 16 * x.dim * x.bits + compared * (x.bits / 16) + eligCost (!terms.isEmpty) b.1.length t +
      eligCost (!terms.isEmpty) side.1.length t + (if x.cluster && !a.exhaustive then 16 * x.clusters * x.dim else 0) +
      (if a.noRerank then 0 else once.length * rerankCost x) + topkCost entries.length a.k },
   rows.2.on (countNan kind entries))

end Sys2Proof.Machine
end

