-- ==== Sys2Proof/Machine/TaskReg.lean ====
section
/-!
DEFINITION. Task registers and command flow at the rook: acceptance, credits, dispatch, relays, completion records and their
repeats (R93 to R110, R114, R126).
-/
namespace Sys2Proof.Machine

/-- The rook accepts commands: it serves, or the recovery loader runs its task-register functions (R409, R427). -/
def rookServes (m : Sys) : Bool :=
  live m && m.fabric.rook && !m.task.stopped && (m.boot.stage == stageServing || m.boot.stage == stageLoader)

/-- Report the credit of an endpoint on the active host port (R73, R94, R112, R409). -/
def reportCredit (e : Nat) (m : Sys) : Sys :=
  onEp e (fun x => { x with
    credit := if rookServes m && !x.resetBusy then BitVec.ofNat 9 (256 - x.held.length) else 0 }) m

/-- RESET_BUSY clears once every relay answer is held and every record of the old epoch has been sent (R114). -/
def settleReset (e : Nat) (m : Sys) : Sys :=
  let x := epOf m e
  if x.resetBusy && x.awaited.isEmpty && !x.held.any (fun h => h.2.cmd.epoch != x.epoch) then
    reportCredit e (onEp e (fun x => { x with resetBusy := false, resets := satInc x.resets }) m)
  else m

/-- Forget a block that a stream has passed up. -/
def consumed (b : Block) : Sys → Sys := onFabric fun x => { x with taken := x.taken.erase b }

/-! ### Arrival (R73, R94 to R96) -/

/-- The task register that a TARGET names for an endpoint (R93). -/
def taskRegister (ep : BitVec 4) (target : Word) : Option Nat :=
  let base := 0x100000 + 0x10000 * ep.toNat
  let a := target.toNat
  if base ≤ a ∧ a < base + 0x8000 ∧ a % 0x80 = 0 then some ((a - base) / 0x80) else none

/-- The checks of R95 on an arriving TASK_WRITE; the register it names when all hold. -/
def acceptable (port : Nat) (b : Block) (m : Sys) : Option Nat :=
  let x := epOf m b.ep.toNat
  if activeHost m = some port ∧ rookServes m = true ∧ b.host = true ∧ b.dst = ownAddr m ∧
      b.ep.toNat < (portOf m port).endpoints.toNat ∧ b.body.length = 128 ∧ x.credit ≠ 0 ∧ x.resetBusy = false then
    match taskRegister b.ep b.target with
    | some i => if (tfind i x.held).isNone then some i else none
    | none => none
  else none

/-- Refuse a TASK_WRITE: TASK_REFUSED goes back and the endpoint's refusal count rises (R73). -/
def refuseTask (b : Block) (m : Sys) : Sys :=
  toHost { newBlock (ownAddr m) (ownAddr m) kTaskRefused with host := true, ep := b.ep, target := b.target, tag := b.tag }
    (onEp b.ep.toNat (fun x => { x with refused := satInc x.refused }) m)

/-- Opcodes whose TENSOR and LENGTH the rook adds (R99). -/
def usesRange (o : Byte) : Bool := o == 0x01 || o == 0x02 || o == 0x18 || o == 0x24

/-- The checks of R99 that an accepted command meets at once: CCRC, opcode, range and TAG. Whether its parameters are in range is its own
opcode's matter, and the route to EXEC_ADDR is judged at dispatch. -/
def acceptChecks (c : Cmd) (block : List Byte) (m : Sys) : Bool :=
  commandCrcHolds block && opcodeAssigned c.opcode && (!usesRange c.opcode || decide (offsetOf c.tensor + c.length.toNat ≤ 2 ^ 40)) &&
    !(epOf m c.ep.toNat).held.any (fun x => x.2.cmd.tag == c.tag)

/-- Accept a TASK_WRITE: the register is HELD in this turn (R94). A command that fails a check of R99 ends at once. -/
def acceptTask (i : Nat) (b : Block) (m : Sys) : Sys :=
  let e := b.ep.toNat
  let c := readCommand (ownAddr m) b.ep (BitVec.ofNat 8 i) (epOf m e).epoch b.body
  let h : Held := { block := b.body, cmd := c, order := m.task.order, turn := now m, phase := .waiting }
  let good := acceptChecks c b.body m
  onlyIf (!good) (endWith c stBadCommand) (reportCredit e (onTask (fun t => { t with order := t.order + 1 })
    (onEp e (fun x => { x with held := tset i h x.held, accepted := satInc x.accepted }) m)))

/-- A task-register arrival: event position 8 (R436). A TASK_WRITE for another module is discarded and counted (R74). -/
def taskWrite (port : Nat) (b : Block) (m : Sys) : Sys :=
  let m := consumed b m
  asEvent 7 (fun m =>
    if b.dst ≠ ownAddr m ∨ b.bcast ≠ 0 then badBlock m
    else match acceptable port b m with
      | some i => acceptTask i b m
      | none => refuseTask b m) m

/-- TASK_WRITE (R95). -/
def execTaskWrite (port : BitVec 3) (b : Block) (s : State) : Host.Outcome State Fault Refusal := done s (taskWrite port.toNat b)

/-! ### Dispatch (R99, R101 to R103) -/

/-- The check of R99 that the rook makes at dispatch: the route to EXEC_ADDR. -/
def routeGood (c : Cmd) (m : Sys) : Bool := c.exec == ownAddr m || (routeOf c.exec m).valid

/-- Undispatched commands of an endpoint, oldest first. -/
def undispatched (e : Endpoint) : Option Held :=
  minBy (fun a b => decide (a.order < b.order)) ((e.held.map (·.2)).filter fun h => h.phase == .waiting)

/-- A FENCE command starts only after every earlier command of the endpoint has had its completion sent (R97, R102). -/
def fenceMet (e : Endpoint) (h : Held) : Bool := !h.cmd.fence || !e.held.any (fun x => decide (x.2.order < h.order))

/-- Response blocks that wait in the rook's VC2 egress queue for the active host port (R102). -/
def egressWaits (m : Sys) : Nat :=
  (match activeHost m with
    | some p => ((portOf m p).egress.filter fun b => b.vc == 2).length
    | none => 0) + m.fabric.hostWait.length

/-- The endpoints in round-robin order after the one served last (R101). -/
def roundRobin (m : Sys) : List Nat := (span (m.task.lastEp + 1) 16).map (· % 16)

/-- The command to dispatch next: none while the egress queue holds (R102); an ABORT_TAG ahead of the round-robin (R118); else the oldest
eligible command of the next endpoint that has one (R101, R102). -/
def nextCommand (m : Sys) : Option (Nat × Held) :=
  let aborts := (List.range 16).flatMap fun e =>
    (((epOf m e).held.map (·.2)).filter fun h => h.phase == .waiting && h.cmd.opcode == 0x0A).map fun h => (e, h)
  if 64 ≤ egressWaits m then none
  else match minBy (fun a b => decide (a.2.order < b.2.order)) aborts with
    | some a => some a
    | none => (roundRobin m).findSome? fun e =>
        match undispatched (epOf m e) with
        | some h => if fenceMet (epOf m e) h then some (e, h) else none
        | none => none

/-- The relay header and command block of a relayed command (R103). -/
def relayBody (c : Cmd) (block : List Byte) (rook : Addr) : List Byte :=
  leBytes 2 rook.toNat ++ leBytes 1 c.ep.toNat ++ leBytes 1 c.reg.toNat ++ leBytes 1 c.epoch.toNat ++ zeros 27 ++ block

/-- The address of the relay window (R103). -/
def relayWindow : Word := 0xFFFFFF0000000000

/-- The rook's own transaction tag for a relayed command, a relay-reset read, or another request (log entry 14). -/
def relayTag (ep reg : Nat) : BitVec 32 := BitVec.ofNat 32 (0x10000 + ep * 256 + reg)
def resetTag (ep : Nat) : BitVec 32 := BitVec.ofNat 32 (0x20000 + ep)

/-- Relay a command to a module (R103). -/
def sendRelay (e : Nat) (h : Held) (dst : Addr) (m : Sys) : Sys :=
  sendBlock { newBlock (ownAddr m) dst kTensorWrite with
    target := relayWindow, tag := relayTag e h.cmd.reg.toNat, body := relayBody h.cmd h.block (ownAddr m) }
    (setPhase e h.cmd.reg.toNat (.relayed dst) m)

/-- The module that an ABORT_TAG asks: the one to which its target has been relayed, whatever its own EXEC_ADDR (R117). -/
def abortAt (e : Nat) (h : Held) (m : Sys) : Option Addr :=
  (abortTarget (epOf m e) (BitVec.ofNat 16 (par h.cmd 32 2)) h.order).bind fun t => match t.phase with
    | .relayed d => some d
    | .relayStarted d => some d
    | _ => none

/-- Dispatch a command: the route check of R99, then local execution or a relay (R103). An ABORT_TAG is settled here, unless its target has
been relayed (R117). -/
def dispatchHeld (e : Nat) (h : Held) (m : Sys) : Sys :=
  let c := h.cmd
  let m := onTask (fun t => { t with lastEp := if c.opcode = 0x0A then t.lastEp else e }) m
  if !routeGood c m then endWith c stBadCommand m
  else if c.opcode = 0x0A then
    match abortAt e h m with
    | some d => sendRelay e h d m
    | none => abortTagCmd c m
  else if c.exec = ownAddr m then startCmd c (setPhase e c.reg.toNat .running m)
  else sendRelay e h c.exec m

/-- The rook dispatches at most one command in a turn (R101). -/
def commandDispatch (m : Sys) : Sys :=
  if rookServes m then
    match nextCommand m with
    | some (e, h) => dispatchHeld e h m
    | none => m
  else m

/-- COMMAND_DISPATCH (R101). -/
def execCommandDispatch (s : State) : Host.Outcome State Fault Refusal := done s commandDispatch

/-! ### Records (R94, R106, R110, R111) -/

/-- A completion record of endpoint and register still waits to leave a host port: blocks placed at one stay there when another becomes the
active one (R51). -/
def recordWaits (e reg : Nat) (m : Sys) : Bool :=
  let mine (b : Block) := b.kind == kCompletion && b.host && b.dst == ownAddr m && b.ep.toNat == e && (recordReg b.body).toNat == reg
  m.fabric.hostWait.any mine || (List.range 8).any fun p => (portOf m p).egress.any mine

/-- The last frame of a completion record has left the host port: the register is FREE and a credit report follows (R94). -/
def taskFree (e reg : Nat) (m : Sys) : Sys :=
  match heldOf m e reg with
  | some h =>
    if h.phase = .recordSent ∧ recordWaits e reg m = false then
      asEvent 8 (fun m =>
        let m := onEp e (fun x => { x with
          held := tdel reg x.held,
          latMax := if h.cmd.opcode = 0x01 ∨ h.cmd.opcode = 0x02 then satMax x.latMax (now m - h.turn) else x.latMax }) m
        settleReset e (reportCredit e m)) m
    else m
  | none => m

/-- TASK_REGISTER_FREE (R94). -/
def execTaskRegisterFree (ep : BitVec 4) (reg : BitVec 8) (s : State) : Host.Outcome State Fault Refusal :=
  done s (taskFree ep.toNat reg.toNat)

/-- A COMPLETION block reaches the rook: it goes out of the host port, unless its epoch is stale or its command has ended
(R106, R114). -/
def completionArrives (b : Block) (m : Sys) : Sys :=
  let m := consumed b m
  asEvent 8 (fun m =>
    let e := (recordEp b.body).toNat
    let reg := (recordReg b.body).toNat
    let x := epOf m e
    if !x.resetBusy && recordEpoch b.body != x.epoch then m
    else match tfind reg x.held with
      | some h =>
        if h.phase = .recordSent ∨ h.phase = .waiting ∨ h.cmd.epoch ≠ recordEpoch b.body then m
        else toHost b (setPhase e reg .recordSent m)
      | none => m) m

/-- Send again a completion record that a broken stream dropped (R110). -/
def resendRecord (rook : Addr) (ep : BitVec 4) (reg : BitVec 8) (m : Sys) : Sys :=
  match m.task.resends.find? fun r => r.rook == rook && r.ep == ep && r.reg == reg with
  | some r =>
    sendBlock { newBlock (ownAddr m) r.rook kCompletion with
      host := true, ep := r.ep, tag := BitVec.ofNat 32 (leAt r.record 0 2), body := r.record } m
  | none => m

/-- COMPLETION_RESEND (R110): a timer of 10 ms. -/
def execCompletionResend (rook : Addr) (ep : BitVec 4) (reg : BitVec 8) (s : State) : Host.Outcome State Fault Refusal :=
  done s (asEvent 10 (resendRecord rook ep reg))

/-- The answer to a relay: BUSY ends the command with BUSY (R104). -/
def relayAnswer (b : Block) (m : Sys) : Sys :=
  let m := consumed b m
  if !live m then m
  else
    let tag := b.tag.toNat
    if 0x10000 ≤ tag ∧ tag < 0x11000 then
      let e := (tag - 0x10000) / 256
      let reg := (tag - 0x10000) % 256
      match heldOf m e reg with
      | some h =>
        match h.phase with
        | .relayed d =>
          if d ≠ b.src then m
          else if leAt b.body 0 1 = stBusy.toNat then settleReset e (endWith h.cmd stBusy m)
          else setPhase e reg (.relayStarted d) m
        | _ => m
      | none => m
    else m

/-- The rook ends every command relayed to a lost or restarted module with UNCORRECTABLE, ERR_ADDR zero (R126). Its answers to
relay resets are no longer awaited (R115). -/
def moduleLost (a : Addr) (m : Sys) : Sys :=
  let m := forEach (List.range 16) (fun e m =>
    forEach ((epOf m e).held.map (·.2)) (fun h m =>
      if h.phase = .relayed a ∨ h.phase = .relayStarted a then endWith h.cmd stUncorrectable m else m) m) m
  forEach (List.range 16) (fun e m =>
    settleReset e (onEp e (fun x => { x with awaited := x.awaited.filter (· != a) }) m)) m

/-- Clear TRF.EP_COUNT and TRF.EP_LAT of an endpoint (chapter 03, EP_CTRL). -/
def clearEp (e : Nat) : Sys → Sys := onEp e fun x => { x with accepted := 0, refused := 0, resets := 0, latMax := 0 }

/-- EP_CNT_CLR (R9). -/
def execEpCntClr (ep : BitVec 4) (s : State) : Host.Outcome State Fault Refusal := done s (whileLive (clearEp ep.toNat))

/-! ### Relay-reset reads (R114) -/

/-- A command of endpoint `e` covered by the last relay reset is still here. -/
def covered (e : Nat) (m : Sys) : Bool :=
  let x := epOf m e
  m.task.relayed.any fun c => c.rook == x.relayRook && c.ep.toNat == e && c.epoch != x.relayEpoch

/-- Value of TRF.RELAY_RESET (chapter 03). -/
def relayResetValue (x : Endpoint) : Word := word [place x.relayEpoch.toNat 16 4, x.relayRook.toNat]

/-- The response to a register read (R65). -/
def regResp (m : Sys) (dst : Addr) (host : Bool) (ep : BitVec 4) (tag : BitVec 32) (target value : Word) (status : Byte) : Block :=
  { newBlock (ownAddr m) dst kRegReadResp with
    host, ep, tag, target, body := leBytes 8 value.toNat ++ [status] ++ zeros 7 }

/-- Answer the relay-reset reads that wait for records now sent (R114). -/
def answerReads (e : Nat) (m : Sys) : Sys :=
  let x := epOf m e
  if x.readsHeld.isEmpty || covered e m then m
  else
    forEach x.readsHeld (fun r m =>
      toRook r.1 (regResp m r.1 r.2.2.isSome (r.2.2.getD 0) r.2.1 (BitVec.ofNat 64 (0x108040 + 0x10000 * e)) (relayResetValue (epOf m e)) stDone) m)
      (onEp e (fun x => { x with readsHeld := [] }) m)

/-- A read of TRF.RELAY_RESET waits until the records of every covered command have been sent (R114). -/
def relayResetRead (e : Nat) (src : Addr) (host : Option (BitVec 4)) (tag : BitVec 32) (m : Sys) : Sys :=
  answerReads e (onEp e (fun x => { x with readsHeld := x.readsHeld ++ [(src, tag, host)] }) m)

/-- RELAY_RESET_READ (R114). -/
def execRelayResetRead (ep : BitVec 4) (src : Addr) (tag : BitVec 32) (s : State) : Host.Outcome State Fault Refusal :=
  done s (whileLive (relayResetRead ep.toNat src none tag))

/-- A register read response: a host's is forwarded by the rook; a relay-reset answer is taken (R74, R114). -/
def readResponse (b : Block) (m : Sys) : Sys :=
  let m := consumed b m
  if !live m then m
  else if b.host then onlyIf (m.fabric.rook) (toHost b) m
  else
    let tag := b.tag.toNat
    if 0x20000 ≤ tag ∧ tag < 0x20010 then
      let e := tag - 0x20000
      settleReset e (onEp e (fun x => { x with awaited := x.awaited.filter (· != b.src) }) m)
    else m

/-- REG_READ_RESP (R114). -/
def execRegReadResp (b : Block) (s : State) : Host.Outcome State Fault Refusal := done s (readResponse b)

end Sys2Proof.Machine
end

