-- ==== Sys2Proof/Machine/SearchCmd.lean ====
section
/-!
DEFINITION. SEARCH and its shards, INDEX_CREATE, INDEX_DROP and INDEX_QUERY, with the arrivals that sharded searches share with the
command flow (R312, R316 to R320, R327, R337 to R340).
-/
namespace Sys2Proof.Machine

/-! ### Reading what a command names -/

/-- What a read of a user's range at dispatch finds (R99, R128, R131, R141). -/
inductive Asked where
  | bad | busy | wait
  | got (bytes : List Byte)
deriving DecidableEq, Repr

/-- Read a range that a command names. -/
def userRead (c : Cmd) (a len : Nat) (r : Run) : Asked × Run :=
  let n := a / 2 ^ 40
  let off := a % 2 ^ 40
  if len = 0 then (.got [], r)
  else if !userNumber n then (.bad, r)
  else match tensorOf r.sys n with
    | none => (.bad, r)
    | some t =>
      if t.size < off + len then (.bad, r)
      else if t.state = .building then (.busy, r)
      else if unitsBusy c n off len r.sys || stackWaits r.sys t off len then (.wait, r)
      else
        let v := addrRead a len r
        (.got v.1, v.2)

/-! ### Contexts of search commands (R317) -/

/-- The running search serving job (R317). -/
def searchJob (m : Sys) : Option Job := servingJob m 1

/-- A command waits for a context with its snapshot and what it read (R317, R318). -/
def waitCtx (c : Cmd) (i : Index) (bytes : List Byte) (m : Sys) : Sys :=
  onJob (fun j => { j with waiting := j.waiting ++ [newCtx c [] true m] })
    (onSearch (fun x => { x with snaps := x.snaps ++ [(c, i, bytes)] }) m)

/-- The snapshot of a command that waits for a context or has one, and what it read at dispatch. -/
def snapOf (m : Sys) (c : Cmd) : Option (Index × List Byte) := (m.search.snaps.find? fun e => sameCmd e.1 c).map (·.2)

/-- The walker task of the command's context is placed, and its job is not paused (R40, R317). -/
def walks (m : Sys) (c : Cmd) : Bool :=
  ((activeJob m).map fun j => j.ctxs.any fun e => sameCmd e.2.cmd c && e.2.core.isSome).getD false

/-! ### The end of a SEARCH (R327, R339, R343) -/

/-- COLLECTIVE of a sharded search (R339). -/
def searchColl (c : Cmd) : Nat := c.ep.toNat * 256 + c.reg.toNat

/-- Bytes for the host buffer from an offset on. -/
def sendAt (c : Cmd) (off : Nat) (bytes : List Byte) (m : Sys) : Sys :=
  if bytes.isEmpty then m else sendData { c with hostAddr := c.hostAddr + BitVec.ofNat 64 off } bytes m

/-- RESULT of a SEARCH (R327). -/
def searchResult (count tied compared units shards : Nat) (hit omitted : Bool) : List Byte :=
  resultOf [(40, leBytes 4 count), (44, leBytes 4 tied), (48, leBytes 4 (min compared 0xFFFFFFFF)), (52, leBytes 4 units),
    (56, leBytes 2 shards), (58, leBytes 1 (flagAt hit 0 + flagAt omitted 1))]

/-- The charge of a search falls to the search serving job in the turn of its completion, also while the job stops (R317, R328). -/
def chargeSearch (pips : Nat) : Sys → Sys :=
  onJob fun j => if j.plan.serving && j.service == 1 then { j with pips := j.pips + pips } else j

/-- Deliver a selection in the layout of R254, the slots from COUNT on unsent, and end the SEARCH (R327). How many flash units were
read is left open where a unit serves several rows (log entry 2). -/
def finishSearch (c : Cmd) (a : SearchAsk) (kind compared shards charge : Nat) (hit omitted : Bool) (p : Picked) (m : Sys) : Sys :=
  let v := count32 p.valid (runOf 0 m)
  let t := count32 p.tied v.2
  let u := draw t.2.sys
  let n := p.entries.length
  let head := listHeader n v.1 t.1 a.k a.rowlen kind
  let m := chargeSearch charge u.2
  let e : Ending :=
    { ending (if n < a.k then stShort else stDone) with
      count := p.valid.toNat, pips := charge, result := searchResult n t.1 compared (u.1.toNat % 2 ^ 32) shards hit omitted }
  match leaderOf m c with
  | some (l, _) => endSearch c e (sendList l (BitVec.ofNat 32 (searchColl c)) (listImage head a.k a.rowlen p.entries) m)
  | none =>
    endSearch c { e with len := 32 + (16 + a.rowlen) * n }
      (sendAt c (32 + 16 * a.k) (p.entries.flatMap (·.2))
        (sendAt c 0 (head ++ p.entries.flatMap fun x => entryBytes x.1) m))

/-! ### Sharded search (R337 to R340) -/

/-- The shard table as read: (address, index identifier). -/
def shardTable (l : List Byte) : List (Addr × Nat) := (pieces 4 l).map fun e => (BitVec.ofNat 16 (leAt e 0 2), leAt e 2 2)

/-- The groups that the rook leads: those whose first entry it is while more than one group exists, and the last one (R337); `fuel`
exceeds the number of levels. -/
def ledGroups (own : Addr) (fanin : Nat) : Nat → List (Addr × Nat) → List (List (Addr × Nat))
  | 0, _ => []
  | fuel + 1, l =>
    if l.length ≤ fanin then [l]
    else
      let g := pieces fanin l
      (g.filter fun p => (p.head?.map (·.1)) == some own) ++ ledGroups own fanin fuel (g.filterMap List.head?)

/-- The members that the rook sends sub-searches to. -/
def subMembers (own : Addr) (a : SearchAsk) (table : List (Addr × Nat)) : List (Addr × Nat) :=
  (ledGroups own a.fanin table.length table).flatMap fun g => g.filter fun e => e.1 != own

/-- The charge of the merges that the rook performs (R328). -/
def mergeCost (own : Addr) (a : SearchAsk) (table : List (Addr × Nat)) : Nat :=
  (ledGroups own a.fanin table.length table).foldl (fun n g =>
    n + selectCost (if g.any fun e => e.1 == own then g.length else g.length + 1) a.k) 0

/-- The command block of a sub-search: SHARDED cleared and the member's index (R338). -/
def subCommand (c : Cmd) (index : Nat) : Cmd :=
  let p := putBytes (fitBytes 92 c.param) 0 (leBytes 2 index)
  { c with param := putBytes p 11 [(p.getD 11 0) &&& 0xFB] }

/-- Send a sub-search: relay header and block, then the query and terms at ascending offsets (R338). -/
def sendSub (c : Cmd) (data : List Byte) (e : Addr × Nat) (m : Sys) : Sys :=
  let tag := relayTag c.ep.toNat c.reg.toNat
  let m := sendBlock { newBlock (ownAddr m) e.1 kTensorWrite with
    target := relayWindow, tag, body := relayBody c (commandBytes (subCommand c e.2)) c.rook } m
  ((pieces 4096 data).foldl (fun (acc : Nat × Sys) p =>
    (acc.1 + p.length, sendBlock { newBlock (ownAddr acc.2) e.1 kTensorWrite with
      target := relayWindow + BitVec.ofNat 64 acc.1, tag, body := p } acc.2)) (160, m)).2

/-- All members have answered or failed: the lists are joined and delivered, or the failing status is reported (R339, R340). -/
def finishShard (s : Shard) (m : Sys) : Sys :=
  if s.failed ≠ [] ∧ s.isPartial = false then
    let st := reported s.failed
    endSearch s.cmd { ending st with conds := s.failed.foldl (fun a x => a ||| condition x) 0, pips := s.pips } (chargeSearch s.pips m)
  else
    let p := joinLists s.kind.toNat s.k (readList s.k s.rowlen s.own :: s.lists.map fun e => readList s.k s.rowlen e.2)
    finishSearch s.cmd (searchAsk s.cmd) s.kind.toNat (leAt s.result 8 4) s.answered s.pips
      ((leAt s.result 18 1).testBit 0) s.omitted p m

/-- Store a shard, its members that have answered in full counted; it ends when none is awaited and its own search has ended (R339). -/
def settleShard (s : Shard) (m : Sys) : Sys :=
  let full (a : Addr) : Bool := (tget [] a.toNat s.lists).length == listBytes s.k s.rowlen
  let ready := s.heard.filter fun e => s.waiting.contains e.1 && full e.1
  let s := { s with
    waiting := s.waiting.filter fun a => !ready.any fun e => e.1 == a, answered := ready.foldl (fun n e => n + e.2) s.answered }
  let m := onSearch (fun x => { x with shards := x.shards.map fun t => if sameCmd t.cmd s.cmd then s else t }) m
  if s.waiting.isEmpty && s.walked then finishShard s m else m

/-- A member fails: its list is left out (R340). -/
def shardFails (s : Shard) (a : Addr) (status : Byte) (m : Sys) : Sys :=
  settleShard { s with
    waiting := s.waiting.filter (· != a), failed := s.failed ++ [status], omitted := true, lists := tdel a.toNat s.lists }
    (onSearch (fun x => { x with shardFail := satInc x.shardFail }) m)

/-- The shard that awaits a member under a collective number. -/
def shardAwaiting (m : Sys) (coll : Nat) (a : Addr) : Option Shard :=
  m.search.shards.find? fun s => s.coll.toNat == coll && s.waiting.contains a

/-- A member's COMPLETION (R339, R340). -/
def shardAnswer (s : Shard) (b : Block) (m : Sys) : Sys :=
  let st : Byte := BitVec.ofNat 8 (leAt b.body 2 1)
  if st = stDone ∨ st = stShort ∨ st = stScaleSaturated then
    settleShard { s with heard := s.heard ++ [(b.src, max 1 (leAt b.body 56 2))] } m
  else shardFails s b.src st m

/-- A list block of a member (R339). -/
def shardList (s : Shard) (b : Block) (m : Sys) : Sys :=
  let old := tget [] b.src.toNat s.lists
  if leAt b.body 4 1 = 2 ∧ listPlace (leAt b.body 8 8) = old.length then
    settleShard { s with lists := tset b.src.toNat (old ++ b.body.drop 16) s.lists } m
  else m

/-- Lead a sharded search: its sub-searches go out at dispatch (R338). -/
def leadSearch (c : Cmd) (x : Root) (bytes : List Byte) (m : Sys) : Sys :=
  let a := searchAsk c
  let own := ownAddr m
  let n := 4 * x.dim + 24 * termTotal a
  let table := shardTable (bytes.drop n)
  let members := subMembers own a table
  let s : Shard :=
    { coll := BitVec.ofNat 32 (searchColl c), cmd := c, k := a.k, rowlen := a.rowlen,
      kind := BitVec.ofNat 8 (if a.noRerank then 0 else scoreKind x), waiting := members.map (·.1), heard := [], lists := [], own := [],
      walked := false, answered := 1, isPartial := a.isPartial, omitted := false, failed := [], pips := mergeCost own a table, result := [],
      conds := 0 }
  forEach members (sendSub c (bytes.take n)) (onSearch (fun x => { x with shards := x.shards ++ [s] }) m)

/-- The leader's own list joins those of its members (R339). -/
def joinOwn (c : Cmd) (g : SearchGot) (m : Sys) : Sys :=
  match m.search.shards.find? fun s => sameCmd s.cmd c with
  | none => m
  | some s =>
    let v := count32 g.picked.valid (runOf 0 m)
    let t := count32 g.picked.tied v.2
    settleShard { s with
      walked := true, pips := s.pips + g.charge, result := searchResult 0 0 g.compared 0 0 g.hitLimit false,
      own := listImage (listHeader g.picked.entries.length v.1 t.1 s.k s.rowlen g.kind) s.k s.rowlen g.picked.entries } t.2.sys

/-! ### SEARCH (R316 to R320) -/

/-- Run a search in its walker task, on its snapshot and what it read at dispatch. -/
def runSearch (c : Cmd) (i : Index) (bytes : List Byte) (m : Sys) : Sys :=
  let a := searchAsk c
  let r := rootOf i (runOf 0 m)
  match r.1 with
  | none => endSearch c (runEnding r.2) r.2.sys
  | some x =>
    match exactAll (f32List (bytes.take (4 * x.dim))), readTerms x.attr ((bytes.drop (4 * x.dim)).take (24 * termTotal a)) (termTotal a) with
    | some q, some terms =>
      let g := searchIndex i x a q (groupTerms a.termCounts terms) r.2
      let m := onSearch (fun s => { s with cmp := satAdd s.cmp g.1.compared, rerank := satAdd s.rerank g.1.reranked }) g.2.sys
      if g.2.failed then endSearch c { runEnding g.2 with pips := g.1.charge } (chargeSearch g.1.charge m)
      else if a.sharded then joinOwn c g.1 m
      else finishSearch c a g.1.kind g.1.compared 0 g.1.charge g.1.hitLimit false g.1.picked m
    | _, _ => endSearch c (ending stBadCommand) r.2.sys

/-- What a SEARCH read at dispatch passes the checks that depend on it (R313, R320, R337). -/
def searchInput (a : SearchAsk) (x : Root) (bytes : List Byte) : Bool :=
  (f32List (bytes.take (4 * x.dim))).all isFin &&
    (match readTerms x.attr ((bytes.drop (4 * x.dim)).take (24 * termTotal a)) (termTotal a) with
      | some l => !(a.sharded && l.any fun t => t.op == 7)
      | none => false) &&
    (let table := (shardTable (bytes.drop (4 * x.dim + 24 * termTotal a))).map (·.1)
     !a.sharded || table.eraseDups.length == table.length)

/-- Read the query, the terms and the shard table at dispatch (R320). -/
def readSearch (c : Cmd) (x : Root) (r : Run) : List Asked × Run :=
  let a := searchAsk c
  let q := userRead c c.tensor.toNat (4 * x.dim) r
  let t := userRead c a.termsAddr (24 * termTotal a) q.2
  let s := userRead c a.shards (if a.sharded then 4 * a.shardCount else 0) t.2
  ([q.1, t.1, s.1], s.2)

/-- The bytes of what was read. -/
def askedBytes (l : List Asked) : List Byte := l.flatMap fun a => match a with
  | .got b => b
  | _ => []

/-- A SEARCH is dispatched: its checks in the order of R14, what it names is read, and it waits for a context (R317, R320, R337). -/
def openSearch (c : Cmd) (i : Index) (x : Root) (r : Run) (m : Sys) : Sys :=
  let v : List Asked × Run := match leaderOf m c with
    | some (_, bytes) => ([.got bytes], r)
    | none => readSearch c x r
  let waits := v.1.contains .wait
  let bytes := askedBytes v.1
  let read := !waits && !v.1.contains .busy && !v.2.failed
  if v.1.contains .bad || (read && !searchInput (searchAsk c) x bytes) then refuseSearch c (ending stBadCommand) v.2.sys
  else if v.1.contains .busy || (searchJob m).isNone then refuseSearch c (ending stBusy) v.2.sys
  else if waits then m
  else if v.2.failed then endSearch c (runEnding v.2) v.2.sys
  else onlyIf (searchAsk c).sharded (leadSearch c x bytes) (waitCtx c i bytes v.2.sys)

/-- SEARCH (R320): its dispatch, and once its walker task is placed its work. -/
def searchCmd (c : Cmd) (m : Sys) : Sys :=
  match snapOf m c with
  | some (i, bytes) =>
    onlyIf (walks m c && !m.search.shards.any fun s => sameCmd s.cmd c && s.walked) (runSearch c i bytes) m
  | none =>
    match indexOf m c with
    | none => refuseSearch c (ending stBadCommand) m
    | some i =>
      if serviceOff m 1 then refuseSearch c (ending stBadCommand) m
      else
        let r := rootOf i (runOf 0 m)
        match r.1 with
        | none =>
          if !r.2.failed then refuseSearch c (ending stBadCommand) r.2.sys
          else if (searchJob m).isNone then refuseSearch c (ending stBusy) r.2.sys
          else endSearch c (runEnding r.2) r.2.sys
        | some x =>
          if !searchGood c (leaderOf m c).isSome x then refuseSearch c (ending stBadCommand) r.2.sys else openSearch c i x r.2 m

/-- SEARCH (R320). -/
def execSearch (c : Cmd) (s : State) : Host.Outcome State Fault Refusal := done s (asCommand c (searchCmd c))

/-- SHARD_TIMEOUT (R340): a member that sends nothing within 1 s counts as failed with UNCORRECTABLE. -/
def execShardTimeout (coll : BitVec 32) (member : Addr) (s : State) : Host.Outcome State Fault Refusal :=
  done s (asEvent 10 fun m => match shardAwaiting m coll.toNat member with
    | some s => shardFails s member stUncorrectable m
    | none => m)

/-! ### Arrivals that a sharded search shares (R106, R259, R339) -/

/-- A COMPLETION: a member's for its leader, or a relayed command's for the rook (R106, R339). -/
def completionBlockArrives (b : Block) (m : Sys) : Sys :=
  match shardAwaiting m ((recordEp b.body).toNat * 256 + (recordReg b.body).toNat) b.src with
  | some s => asEvent 8 (shardAnswer s b) (consumed b m)
  | none => completionArrives b m

/-- COMPLETION (R106). -/
def execCompletion (b : Block) (s : State) : Host.Outcome State Fault Refusal := done s (completionBlockArrives b)

/-- A relay answer: BUSY of a member fails it; any other goes to the relayed command (R104, R340). -/
def writeAck (b : Block) (m : Sys) : Sys :=
  match shardAwaiting m (b.tag.toNat - 0x10000) b.src with
  | some s => (consumed b m |> fun m => if leAt b.body 0 1 = stBusy.toNat then whileLive (shardFails s b.src stBusy) m else m)
  | none => relayAnswer b m

/-- TENSOR_WRITE_ACK (R104). -/
def execTensorWriteAck (b : Block) (s : State) : Host.Outcome State Fault Refusal := done s (writeAck b)

/-- A COLL_RAW: a member's list for a sharded search led here, or a block of a plan's collective (R259, R262, R339). -/
def rawBlock (b : Block) (m : Sys) : Sys :=
  match shardAwaiting m (leAt b.body 0 4) b.src with
  | some s => shardList s b m
  | none => planRaw b m

/-- COLL_RAW (R262). -/
def execCollRaw (b : Block) (s : State) : Host.Outcome State Fault Refusal := done s fun m => whileLive (rawBlock b) (consumed b m)

/-! ### INDEX_CREATE, INDEX_DROP, INDEX_QUERY (R312, R319) -/

/-- INDEX_CREATE: checks, then the index is registered; flush-bound (R312, R359). The identifier stands in bytes 32 to 33, as for
every other opcode (log entry 24); it is free in the snapshot and in the registry (R318). -/
def indexCreate (c : Cmd) (m : Sys) : Sys :=
  let id := par c 32 2
  if askUnderWay (.cmd c) m then m
  else if serviceOff m 1 || !within 1 1023 id || (indexOf m c).isSome || (tfind id m.search.registry).isSome then endWith c stBadCommand m
  else match (namedTensor c.tensor).bind fun n => (tensorOf m n).map (n, ·) with
    | none => endWith c stBadCommand m
    | some (n, t) =>
      if t.isSealed = false ∨ t.state ≠ .live ∨ t.size ≠ 4096 then endWith c stBadCommand m
      else
        let r := addrRead (n * 2 ^ 40) 4096 (runOf 0 m)
        if r.2.failed then complete c (runEnding r.2) r.2.sys
        else match readRoot r.1 with
          | none => endWith c stBadCommand r.2.sys
          | some x =>
            if !compsGood m x then endWith c stBadCommand r.2.sys
            else
              bindFlush (.cmd c) stDone [] (journal (.registry id) (onSearch (fun s => { s with
                registry := tset id
                  { root := BitVec.ofNat 24 n, parts := compTensors x, version := 0, segments := [], nextOrd := 1, merge := none,
                    objects := [], old := [] } s.registry }) r.2.sys))

/-- INDEX_CREATE (R312). -/
def execIndexCreate (c : Cmd) (s : State) : Host.Outcome State Fault Refusal := done s (asCommand c (indexCreate c))

/-- Another command that searches or writes the index is in progress: it has a context, or waits for one, or writes a segment or base (R319,
R341; log entry 24). -/
def indexActive (m : Sys) (c : Cmd) : Bool :=
  m.search.seen.any fun e => !sameCmd c e.1 && decide (0x24 ≤ e.1.opcode.toNat) && par e.1 32 2 == par c 32 2

/-- INDEX_DROP: BUSY while it is in use; else it is unregistered and its side segments are deleted; flush-bound (R319, R359). -/
def indexDrop (c : Cmd) (m : Sys) : Sys :=
  let id := par c 32 2
  if askUnderWay (.cmd c) m then m
  else if serviceOff m 1 || (indexOf m c).isNone then endWith c stBadCommand m
  else if indexActive m c then endWith c stBusy m
  else
    let gone := ((tfind id m.search.registry).map fun i => i.segments.map (·.tensor)).getD []
    bindFlush (.cmd c) stDone [] (journal (.registry id)
      (removeAll gone (onSearch (fun s => { s with registry := tdel id s.registry }) m)))

/-- INDEX_DROP (R319). -/
def execIndexDrop (c : Cmd) (s : State) : Host.Outcome State Fault Refusal := done s (asCommand c (indexDrop c))

/-- Tensors of a base of `n` nodes, besides the root (R319, R333). -/
def baseTensors (x : Root) (n : Nat) : Nat := (compsOf { x with count := n }).foldl (fun a i => a + (compSizes { x with count := n } i).length) 0

/-- INDEX_QUERY (R319). -/
def indexQuery (c : Cmd) (m : Sys) : Sys :=
  match (indexOf m c).filter fun _ => !serviceOff m 1 with
  | none => endWith c stBadCommand m
  | some i =>
    let r := rootOf i (runOf 0 m)
    match r.1 with
    | none => complete c (runEnding { r.2 with bad := r.2.bad || !r.2.failed }) r.2.sys
    | some x =>
      let b := liveBase i x r.2
      if b.2.failed then complete c (runEnding b.2) b.2.sys
      else
        complete c (doneWith (resultOf
          [(40, leBytes 8 x.count), (48, leBytes 4 (liveSide i)), (52, leBytes 1 (i.segments.filter fun s => !s.tomb).length),
           (53, leBytes 1 (i.segments.filter fun s => s.tomb).length), (54, leBytes 1 (flagAt i.merge.isSome 0)),
           (56, leBytes 4 (baseTensors x (b.1.length + liveSide i)))])) b.2.sys

/-- INDEX_QUERY (R319). -/
def execIndexQuery (c : Cmd) (s : State) : Host.Outcome State Fault Refusal := done s (asCommand c (indexQuery c))

end Sys2Proof.Machine
end

