-- ==== Sys2Proof/Machine/Streams.lean ====
section
/-!
DEFINITION. Streams at both ends: acknowledgements, resends, broken and reopened streams, and what their dropped blocks mean (R66 to
R69, R71, R110, R115).
-/
namespace Sys2Proof.Machine

/-! ### Acknowledgements (R66) -/

/-- A completion record has reached its rook: it is not sent again (R110). -/
def recordHeld (b : Block) (m : Sys) : Sys :=
  if b.kind ≠ kCompletion then m
  else
    let mine (ep : BitVec 4) (reg : BitVec 8) : Bool := ep == recordEp b.body && reg == recordReg b.body
    onTask (fun t => { t with
      ended := t.ended.filter fun c => !(c.rook == b.dst && mine c.ep c.reg && c.epoch == recordEpoch b.body),
      resends := t.resends.filter fun r => !(r.rook == b.dst && mine r.ep r.reg && recordEpoch r.record == recordEpoch b.body) }) m

/-- Blocks leave the replay store, and waiting blocks follow (R66, R69). -/
def releaseAcked (k : StreamKey) (acked : Block → Bool) (acks : Tab (BitVec 16)) (m : Sys) : Sys :=
  let t := txOf m k
  let held := t.unacked.filter acked
  if held.isEmpty then (if t.unacked.isEmpty then m else setTx k { t with acks } m)
  else
    drainBlocks (forEach held recordHeld
      (setTx k { t with unacked := t.unacked.filter (fun b => !acked b), acks, resends := 0, used := now m } m))

/-- Blocks of a unicast stream up to a number are acknowledged (R66). -/
def ackStream (k : StreamKey) (seq : BitVec 16) (m : Sys) : Sys := releaseAcked k (fun b => seqUpTo b.seq seq) [] m

/-- Every receiver that a broadcast stream reaches has acknowledged a block. -/
def ackedByAll (m : Sys) (k : StreamKey) (acks : Tab (BitVec 16)) (b : Block) : Bool :=
  (receivers m k).all fun a => match tfind a.toNat acks with
    | some s => seqUpTo b.seq s
    | none => false

/-- A receiver of a broadcast stream has acknowledged up to a number; a block leaves the replay store once every receiver has it (R66,
R70). -/
def ackBroadcast (k : StreamKey) (src : Addr) (seq : BitVec 16) (m : Sys) : Sys :=
  let acks := tset src.toNat seq (txOf m k).acks
  releaseAcked k (ackedByAll m k acks) acks m

/-- Send unacknowledged blocks of a stream again (R66, R67). -/
def resendAfter (k : StreamKey) (again : Block → Bool) (m : Sys) : Sys := forEach ((txOf m k).unacked.filter again) launch m

/-- Send every unacknowledged block of a stream again (R66, R67). -/
def resendStream (k : StreamKey) (m : Sys) : Sys := resendAfter k (fun _ => true) m

/-- Number blocks from `n` on, the first of a stream opening it (R67, R68). -/
def renumberBlocks : Nat → List Block → List Block
  | _, [] => []
  | n, b :: rest => sealBlock { b with seq := BitVec.ofNat 16 n, opens := n == 0 } :: renumberBlocks (n + 1) rest

/-- The destination knows no such stream: the source reopens it (R68). -/
def reopenStream (k : StreamKey) (m : Sys) : Sys :=
  let t := txOf m k
  let l := renumberBlocks 0 t.unacked
  resendStream k (setTx k { t with next := BitVec.ofNat 16 l.length, unacked := l, acks := [], reopen := l.isEmpty } m)

/-! ### Dropped blocks (R67, R110, R115) -/

/-- A dropped data block belongs to this command. -/
def pieceOf (c : Cmd) (b : Block) : Bool :=
  b.kind == kTensorReadResp && b.host && b.dst == c.rook && b.ep == c.ep && b.tag == c.tag.zeroExtend 32

/-- The record of a command that lost data: UNCORRECTABLE at the first byte of its first dropped piece (R110). -/
def lostRecord (c : Cmd) (lost : Block) (record : List Byte) : List Byte :=
  let conds := BitVec.ofNat 16 (leAt record 8 2) ||| condition stUncorrectable
  withCrc ((putBytes (putBytes (putBytes record 2 [stUncorrectable]) 8 (leBytes 2 conds.toNat)) 32
    (leBytes 8 (c.tensor + (lost.target - c.hostAddr)).toNat)).take 60)

/-- A completion record among or behind the dropped blocks, as it is to be sent (R110). -/
def recordAfter (m : Sys) (dropped : List Block) (b : Block) : Block :=
  if b.kind ≠ kCompletion then b
  else match m.task.ended.find? fun c => c.rook == b.dst && c.ep == recordEp b.body && c.reg == recordReg b.body &&
      c.epoch == recordEpoch b.body with
    | some c => match dropped.find? (pieceOf c) with
      | some l => { b with body := lostRecord c l b.body }
      | none => b
    | none => b

/-- Commands that touch a tensor by their TENSOR field: reads, writes and the tensor commands (R98, R142). -/
def namesTensor (c : Cmd) (n : Nat) : Bool :=
  (c.opcode == 0x01 || c.opcode == 0x02 || (decide (0x30 ≤ c.opcode) && decide (c.opcode ≤ 0x39))) && tnumOf c.tensor == n

/-- A motion that a command asked for goes on as the module's own (R153). -/
def motionGoesOn (c : Cmd) : Sys → Sys := onRange fun r => { r with
  waits := r.waits.filter fun w => w.asker != .cmd c
  tensors := tmap (fun t => match t.motion with
    | some mo => if mo.asker == .cmd c then { t with motion := some { mo with asker := .engine } } else t
    | none => t) r.tensors }

/-- The job that uses a tensor meets lost data: it stops at its next step boundary with UNCORRECTABLE (R67, R291). -/
def jobLoses (n : Nat) (err : Word) (m : Sys) : Sys :=
  if (boundSlots m n).isEmpty then m
  else stopJob .condition (onJob (fun j => { j with
    conds := j.conds ||| condition stUncorrectable, errAddr := mergeErr j.conds (condition stUncorrectable) j.errAddr err }) m)

/-- Dropped tensor data fails every command here that touches the tensor, with UNCORRECTABLE (R67): seals at their step boundary, the job
at its own, and every other at once, but for one whose work is done and whose record only waits for its flush. -/
def failTouching (n : Nat) (err : Word) (m : Sys) : Sys :=
  let m := onFlash (fun x => { x with seals := x.seals.map fun s =>
    if s.target.toNat == n || s.source.toNat == n then { s with stop := s.stop.orElse fun _ => some stUncorrectable } else s }) m
  let hit := m.task.running.filter fun c => namesTensor c n &&
    !(m.flash.seals.any fun s => s.asker == .cmd c) && !(m.flash.bound.any fun e => e.2.1 == .cmd c)
  let m := forEach hit (fun c m => complete c (failedAt stUncorrectable err)
    (motionGoesOn c (onTask (fun t => { t with fetches := t.fetches.filter fun f => !sameCmd f.cmd c }) m))) m
  jobLoses n err m

/-- The request for a piece of a fetch was dropped: its command ends UNCORRECTABLE, and so does every other that touches the tensor that
the piece was for (R67). -/
def fetchLost (b : Block) (m : Sys) : Sys :=
  match m.task.fetches.find? fun f => f.cmd.rook == b.dst && f.cmd.ep == b.ep && f.cmd.tag.zeroExtend 32 == b.tag with
  | some f =>
    let err := f.cmd.tensor + (b.target - f.cmd.hostAddr)
    let m := complete f.cmd (failedAt stUncorrectable err)
      (onTask (fun t => { t with fetches := t.fetches.filter fun g => !sameCmd g.cmd f.cmd }) m)
    onlyIf (f.cmd.opcode == 0x02) (failTouching (tnumOf f.cmd.tensor) err) m
  | none => m

/-- Data of a READ was dropped: every other command that touches the tensor ends UNCORRECTABLE; the READ's own record is changed on its
way (R67, R110). -/
def dataLost (b : Block) (m : Sys) : Sys :=
  match m.task.ended.find? fun c => c.opcode == 0x01 && pieceOf c b with
  | some c => failTouching (tnumOf c.tensor) (c.tensor + (b.target - c.hostAddr)) m
  | none => m

/-- A read or write of leased memory was dropped: the commands that touch the tensor there fail (R67, R86). -/
def leasedLost (b : Block) (m : Sys) : Sys :=
  match leasedAt m b.dst b.target with
  | some (n, off) => failTouching n (tensorAddr n off) m
  | none => m

/-- A relay or a sub-search was dropped: its command ends UNCORRECTABLE, or its member has failed (R67, R340). -/
def relayLost (b : Block) (m : Sys) : Sys :=
  match shardAwaiting m (b.tag.toNat - 0x10000) b.dst with
  | some s => shardFails s b.dst stUncorrectable m
  | none =>
    let e := (b.tag.toNat - 0x10000) / 256
    match heldOf m e ((b.tag.toNat - 0x10000) % 256) with
    | some h => if h.phase = .relayed b.dst then settleReset e (endWith h.cmd stUncorrectable m) else m
    | none => m

/-- Collectives with a rank at an address lose it (R67, R263). -/
def collsLost (a : Addr) (m : Sys) : Sys :=
  match m.jobs.job with
  | some j => forEach (j.colls.filter fun c => c.rankAddrs.contains a) breakColl m
  | none => m

/-- What a dropped block means (R67, R110, R115). -/
def dropBlock (b : Block) (m : Sys) : Sys :=
  if b.vc = 0 then onFabric (fun x => { x with droppedCtl := x.droppedCtl ++ [b] }) m
  else if b.kind = kCompletion then
    let r : Resend := { rook := b.dst, ep := b.ep, reg := recordReg b.body, record := b.body }
    sendBlock b (onTask (fun t => { t with resends := t.resends ++ [r] }) m)
  else if b.kind = kTensorReadResp ∧ b.host = true then dataLost b m
  else if b.kind = kTensorRead then (if b.host then fetchLost b m else leasedLost b m)
  else if b.kind = kTensorWrite then (if tnumOf b.target = 0xFFFFFF then relayLost b m else leasedLost b m)
  else if (b.kind = kRegRead ∨ b.kind = kRegWrite) ∧ b.host = false then moduleLost b.dst m
  else if b.kind = kRegRead then toHost (regResp m (ownAddr m) true b.ep b.tag b.target 0 stUncorrectable) m
  else if b.kind = kCollScale ∨ b.kind = kCollData ∨ b.kind = kCollRaw then collsLost b.dst m
  else m

/-- A stream breaks: its unacknowledged blocks are dropped, and it reopens at its next block (R67). -/
def breakStream (k : StreamKey) (m : Sys) : Sys :=
  let t := txOf m k
  let dropped := t.unacked
  let m := setTx k { t with next := 0, unacked := [], acks := [], resends := 0, reopen := true } m
  let m := onFabric (fun x => { x with waiting := x.waiting.map fun b => if streamKey b = k then recordAfter m dropped b else b }) m
  let m := notice 0x10 1 (leBytes 2 k.dst.toNat ++ leBytes 1 k.vc.toNat)
    (addTotal 44 1 (onFabric (fun x => { x with broken := satInc x.broken }) m))
  drainBlocks (forEach (dropped.map (recordAfter m dropped)) dropBlock m)

/-- 200 µs without progress: the blocks are sent again, and after eight resends the stream is broken (R67). A broadcast no longer waits for
receivers that have become unreachable. -/
def streamTimeout (k : StreamKey) (m : Sys) : Sys :=
  let m := if k.bcast = 0 then m else releaseAcked k (ackedByAll m k (txOf m k).acks) (txOf m k).acks m
  let t := txOf m k
  if t.unacked.isEmpty then m
  else if 8 ≤ t.resends then breakStream k m
  else resendStream k (setTx k { t with resends := t.resends + 1 } m)

/-- STREAM_RESEND_TIMEOUT (R67): a timer. -/
def execStreamResendTimeout (key : StreamKey) (s : State) : Host.Outcome State Fault Refusal := done s (asEvent 10 (streamTimeout key))

/-- A stream without blocks outstanding is closed at this end, and the receive stream of the same partner and channel (R68). -/
def closeStream (k : StreamKey) (m : Sys) : Sys :=
  let open_ := !(txOf m k).unacked.isEmpty || m.fabric.waiting.any fun b => streamKey b == k
  onFabric (fun x => { x with
    tx := if open_ then x.tx else x.tx.filter fun e => e.1 != k
    rx := x.rx.filter fun e => e.1 != k }) m

/-- STREAM_CLOSE (R68): a timer. -/
def execStreamClose (key : StreamKey) (s : State) : Host.Outcome State Fault Refusal := done s (asEvent 10 (closeStream key))

/-- Dropped control blocks are sent again (R67). -/
def reissueControl (m : Sys) : Sys :=
  forEach m.fabric.droppedCtl sendBlock (onFabric (fun x => { x with droppedCtl := [] }) m)

/-- CONTROL_REISSUE (R67): a timer of 10 ms. -/
def execControlReissue (s : State) : Host.Outcome State Fault Refusal := done s (asEvent 10 reissueControl)

/-- REPLAY_SHARE_ROOM (R69): blocks that waited for room in a share are sent, in their order. -/
def execReplayShareRoom (_vc : BitVec 2) (s : State) : Host.Outcome State Fault Refusal := done s (whileLive drainBlocks)

/-! ### E2E_ACK (R66, R68, R71) -/

/-- The answer says that its sender knows no such stream, which blocks that do not open it call for (R68). -/
def streamUnknown (t : TxStream) (seq : BitVec 16) (nak : Bool) : Bool :=
  nak && seq == 0xFFFF && !(t.unacked.any fun b => b.seq == 0xFFFF || b.opens) && !(t.unacked.head?.any fun b => b.seq == 0)

/-- The acknowledgement of a stream: progress, a gap, or a stream that the destination does not know (R66, R68). A broadcast's gap is
filled for the receiver that asks; the others know the repeats as duplicates. -/
def ackTaken (k : StreamKey) (src : Addr) (seq : BitVec 16) (nak : Bool) (m : Sys) : Sys :=
  if streamUnknown (txOf m k) seq nak then reopenStream k m
  else if k.bcast = 0 then onlyIf nak (resendStream k) (ackStream k seq m)
  else onlyIf nak (resendAfter k fun b => !seqUpTo b.seq seq) (ackBroadcast k src seq m)

/-- The transmit stream that an E2E_ACK is about (R66; log entry 26). -/
def ackKey (b : Block) : StreamKey :=
  if b.tag = 0 then { dst := b.src, vc := b.ackVc, bcast := 0 }
  else { dst := b.tag.extractLsb' 16 16, vc := 0, bcast := b.tag.extractLsb' 0 2 }

/-- Count a block whose BCRC fails (R92). -/
def bcrcError : Sys → Sys := onFabric fun x => { x with bcrcErr := satInc x.bcrcErr }

/-- An E2E_ACK (R66, R71): SCALE_RESEND asks for a scale and its data again. One whose BCRC fails is counted, and is made good like a lost
one (R69, R92). -/
def e2eAck (b : Block) (m : Sys) : Sys :=
  let m := consumed b m
  let flags := leAt b.body 0 1
  if !crcHolds b then bcrcError m
  else
    let m := onlyIf (flags.testBit 1) (resendScale b.src (BitVec.ofNat 16 (leAt b.body 2 2))) m
    onlyIf b.ackValid (ackTaken (ackKey b) b.src b.ackSeq (flags.testBit 0)) m

/-- E2E_ACK (R66). -/
def execE2eAck (b : Block) (s : State) : Host.Outcome State Fault Refusal := done s (whileLive (e2eAck b))

/-! ### Taking blocks (R66, R68) -/

/-- The stream of a list by its key, if open. -/
def openRx (l : List (StreamKey × RxStream)) (k : StreamKey) : Option RxStream := (l.find? (·.1 == k)).map (·.2)

/-- A list of receive streams with one of them stored. -/
def putRx (k : StreamKey) (r : RxStream) (l : List (StreamKey × RxStream)) : List (StreamKey × RxStream) :=
  if l.any (·.1 == k) then l.map fun e => if e.1 = k then (k, r) else e else l ++ [(k, r)]

/-- The receive stream of a key, if open. -/
def rxOf (m : Sys) (k : StreamKey) : Option RxStream := openRx m.fabric.rx k

/-- What the destination of a stream does with a block: it takes it; it knows it as a duplicate; it finds a gap in front of it, or its BCRC
bad; it knows no such stream (R66, R68). Each answer but the last names the last block taken. -/
inductive Verdict where
  | take
  | again (last : BitVec 16)
  | gap (last : BitVec 16)
  | corrupt (last : BitVec 16)
  | unknown
deriving DecidableEq, Repr

/-- The verdict on a block of a stream. A repeat of the opening block is known by its BCRC (log entry 26). -/
def verdict (r : Option RxStream) (b : Block) : Verdict :=
  if !crcHolds b then .corrupt ((r.map (·.last)).getD 0xFFFF)
  else match r with
    | none => if b.opens && b.seq == 0 then .take else .unknown
    | some r =>
      if (b.opens && b.seq == 0 && b.bcrc != r.opened) || b.seq == r.last + 1 then .take
      else if seqUpTo b.seq r.last then .again r.last
      else .gap r.last

/-- The stream after a block has been taken. -/
def rxAfter (r : Option RxStream) (b : Block) (t : Nat) : RxStream :=
  { last := b.seq, opened := if b.opens then b.bcrc else (r.map (·.opened)).getD 0, used := t }

/-- A receive stream that may be closed: idle for 10 ms (R68). -/
def rxIdle (m : Sys) (e : StreamKey × RxStream) : Bool := idleLong m e.2.used

/-- A place for a receive stream: it is open, or one is free or held by a stream that may be closed (R68). -/
def rxPlace (m : Sys) (k : StreamKey) : Bool :=
  (rxOf m k).isSome || decide (m.fabric.rx.length < maxStreams) || m.fabric.rx.any (rxIdle m)

/-- Store a receive stream; where a new one needs a place, one that may be closed is closed (R68). -/
def setRx (k : StreamKey) (r : RxStream) (m : Sys) : Sys :=
  let full := (rxOf m k).isNone && !decide (m.fabric.rx.length < maxStreams)
  let gone := if full then (m.fabric.rx.find? (rxIdle m)).map (·.1) else none
  onFabric (fun x => { x with rx := putRx k r (x.rx.filter fun e => some e.1 != gone) }) m

/-- Pass a block up: it waits for its arrival to be acted on. -/
def passUp (b : Block) : Sys → Sys := onFabric fun x => { x with taken := x.taken ++ [b] }

/-- The receive stream of a block from another module (R66, R70). -/
def rxKey (b : Block) : StreamKey := { dst := b.src, vc := if b.bcast = 0 then b.vc else 0, bcast := b.bcast }

/-- Acknowledge a block's stream, or ask for blocks of it again (R66). -/
def answerStream (b : Block) (seq : BitVec 16) (nak : Bool) (m : Sys) : Sys := sendAck b.src b.vc seq nak (ackTag (streamKey b)) m

/-- A block is taken: its own acknowledgement fields are used, and it is acknowledged (R66). -/
def takeInStream (b : Block) (m : Sys) : Sys :=
  let k := rxKey b
  let m := passUp b (setRx k (rxAfter (rxOf m k) b (now m)) m)
  let m := onlyIf b.ackValid (ackStream { dst := b.src, vc := b.ackVc, bcast := 0 } b.ackSeq) m
  answerStream b b.seq false m

/-- A block for this module arrives from its stream: it is taken in STREAM_SEQ order, discarded as a duplicate, or asked for again
(R66, R68, R92). Where no place for its stream is left, the stream is unknown. -/
def streamBlock (b : Block) (m : Sys) : Sys :=
  match verdict (rxOf m (rxKey b)) b with
  | .take => if rxPlace m (rxKey b) then takeInStream b m else answerStream b 0xFFFF true m
  | .again last => answerStream b last false m
  | .gap last => answerStream b last true m
  | .corrupt last => answerStream b last true (bcrcError m)
  | .unknown => answerStream b 0xFFFF true m

end Sys2Proof.Machine
end

