-- ==== Sys2Proof/Machine/Frames.lean ====
section
/-!
DEFINITION. The link layer: frames sent and received, credits, retry, reassembly and the first look at a block (R51 to R65, R74, R83,
R84).
-/
namespace Sys2Proof.Machine

/-! ### Retrains (R49, R50) -/

/-- Every port's entry to RETRAIN or full training is counted and noted (R49, R443). -/
def countTraining (p : Nat) (full : Bool) (m : Sys) : Sys :=
  notice 0x0E 0 (leBytes 1 p ++ leBytes 1 (flagAt full 0)) (addTotal (34 + p) 1 (onPort p (fun x => { x with retrains := satInc x.retrains }) m))

/-- A port in UP enters a fast retrain: it holds its traffic, and a replay stops (R49, R50, R92). -/
def enterRetrain (p : Nat) (m : Sys) : Sys :=
  if portUp' m p then countTraining p false (onPort p (fun x => { x with train := .retrain, resend := [], stalled := 0 }) m) else m
where
  /-- The port is UP. -/
  portUp' (m : Sys) (p : Nat) : Bool := (portOf m p).train == .up

/-! ### Sending (R51, R55, R57 to R60) -/

/-- Receive buffers of each virtual channel at a port, in frames (R57). -/
def vcBuffers : List Nat := [64, 512, 1024, 2048]

/-- Receive buffers that are free (R57, R58). -/
def freeBuffers (x : Port) : List Nat := List.zipWith (· - ·) vcBuffers x.occupied

/-- Bytes of a virtual channel wait at a port. -/
def vcWaits (x : Port) (vc : BitVec 2) : Bool := !(tget [] vc.toNat x.txRest).isEmpty || x.egress.any fun b => b.vc == vc

/-- A credit is held for a channel (R58). -/
def hasCredit (x : Port) (vc : BitVec 2) : Bool := decide (0 < x.credit.getD vc.toNat 0)

/-- A DATA frame of a channel may go: a credit is held, and fewer than 4,096 frames are unacknowledged (R58, R60). -/
def vcMay (x : Port) (vc : BitVec 2) : Bool := vcWaits x vc && hasCredit x vc && decide (x.retry.length < 4096)

/-- The channel served next: VC0 first, then VC1 to VC3 in turn (R59). -/
def nextVc (x : Port) : Option (BitVec 2) :=
  if vcMay x 0 then some 0
  else ((span x.lastVc.toNat 3).map fun i => BitVec.ofNat 2 (i % 3 + 1)).find? (vcMay x)

/-- The first block of a channel in the egress queue, and the queue without it. -/
def pullBlock (vc : BitVec 2) : List Block → Option (Block × List Block)
  | [] => none
  | b :: rest => if b.vc = vc then some (b, rest) else (pullBlock vc rest).map fun r => (r.1, b :: r.2)

/-- Fill a frame's payload with whole blocks; `fuel` is the number of blocks queued. -/
def fillPayload (vc : BitVec 2) : Nat → List Byte → List Block → List Byte × List Block
  | 0, l, q => (l, q)
  | fuel + 1, l, q =>
    if 256 ≤ l.length then (l, q)
    else match pullBlock vc q with
      | none => (l, q)
      | some (b, q) => fillPayload vc fuel (l ++ blockBytes b) q

/-- The DATA frame that a channel sends next: its payload and FIRST_BLOCK (R54, R59). The rest of an unfilled frame is padding, which
counts as a header of KIND 0. -/
def dataFrame (vc : BitVec 2) (x : Port) : TxFrame :=
  let rest := tget [] vc.toNat x.txRest
  let l := (fillPayload vc x.egress.length rest x.egress).1
  { no := x.txNo, vc, first := if rest.length < 256 then BitVec.ofNat 9 rest.length else 0x1FF, payload := fitBytes 256 l, paid := true }

/-- The port once that frame has been formed: it is kept for retry, has used a credit, and what it leaves of its blocks stands first in the
next frame of the channel (R58 to R60). -/
def dataFrameOut (vc : BitVec 2) (x : Port) : Port :=
  let (l, q) := fillPayload vc x.egress.length (tget [] vc.toNat x.txRest) x.egress
  { x with
    txNo := x.txNo + 1, retry := x.retry ++ [dataFrame vc x], egress := q, txRest := tset vc.toNat (l.drop 256) x.txRest,
    credit := lupd vc.toNat (· - 1) x.credit, lastVc := if vc = 0 then x.lastVc else vc }

/-- What stands in a frame on its way out: TYPE, VC, FRAME_NO, FIRST_BLOCK and payload (R54). -/
structure Outgoing where
  type : BitVec 6
  vc : BitVec 2
  no : BitVec 16
  first : BitVec 9
  payload : List Byte
deriving DecidableEq, Repr

/-- A frame of another type than DATA. -/
def plainFrame (type : BitVec 6) (payload : List Byte) : Outgoing := { type, vc := 0, no := 0, first := 0x1FF, payload }

/-- A DATA frame. -/
def dataGoing (f : TxFrame) : Outgoing := { type := 0x01, vc := f.vc, no := f.no, first := f.first, payload := f.payload }

/-- An ALIGN frame; its payload is zeros (DESIGN CHOICE: R56 gives none, log entry 8). -/
def alignFrame : Outgoing := plainFrame 0x3F (zeros 256)

/-- An IDLE frame carries the next bits of the lane test pattern (R55). -/
def idleFrame (x : Port) : Outgoing × Port :=
  (plainFrame 0x00 (idlePayload x.prbs).1, { x with prbs := (idlePayload x.prbs).2 })

/-- The frame that a port in UP sends next (R55, R56, R58, R59, R62, R63, R72): an ALIGN frame in place of one frame in every 16,384; a
repeat, which needs a credit where the last HELLO took its own away; a DATA frame that may go; else an IDLE frame. A host port that is not
active sends no DATA. -/
def frameNext (x : Port) : Outgoing × Port :=
  if x.alignAt = 16383 then (alignFrame, x)
  else if x.host && !x.hostActive then idleFrame x
  else match x.resend with
    | n :: rest =>
      match x.retry.find? fun f => f.no == n with
      | some f =>
        if f.paid then (dataGoing f, { x with resend := rest })
        else if hasCredit x f.vc then
          (dataGoing f, { x with
            resend := rest, credit := lupd f.vc.toNat (· - 1) x.credit,
            retry := x.retry.map fun g => if g.no = n then { g with paid := true } else g })
        else idleFrame x
      | none => idleFrame { x with resend := rest }
    | [] => match nextVc x with
      | some vc => (dataGoing (dataFrame vc x), dataFrameOut vc x)
      | none => idleFrame x

/-- The endpoint whose credit the next header of the active host port reports, and its credit (R73): in every fourth frame the next of the
rotation, so that each comes within 64 frames; in the others the first whose credit has changed since its last report, if one has. -/
def trReport (m : Sys) (x : Port) : Option (Nat × BitVec 9) :=
  if !(x.hostActive && m.fabric.rook) then none
  else
    let credit (e : Nat) : BitVec 9 := (tget endpointReset e m.task.eps).credit
    let turn := if x.trNext.toNat < x.endpoints.toNat then x.trNext.toNat else 0
    let changed := (List.range x.endpoints.toNat).find? fun e => credit e != tget 0 e x.trSent
    let e := if x.alignAt.toNat % 4 = 0 then turn else changed.getD turn
    some (e, credit e)

/-- A frame on the output: its header and payload, FEC, and the levels of its four scrambled lanes (R46, R52 to R54). -/
def putFrame (h : FrameHead) (payload : List Byte) (x : Port) : Port :=
  let bytes := fecEncode (frameContent h payload)
  let lanes := (List.range 4).map fun l => scrambleBits (bitsMsb (laneBytes l bytes)) (x.scram.getD l 0)
  { x with
    sent := x.sent ++ [{ bytes, levels := lanes.map fun s => pam4Levels s.1 }], scram := lanes.map (·.2), alignAt := x.alignAt + 1 }

/-- The header of a frame of a port in UP: ACK_NO, the buffers freed, NAK and a credit report (R54, R58, R61, R73). -/
def headOf (x : Port) (tr : Option (Nat × BitVec 9)) (g : Outgoing) : FrameHead :=
  { type := g.type, vc := g.vc, first := g.first, no := g.no, ack := x.rxLast, nak := x.nak, credits := x.freed.map (min · 255),
    trCredit := (tr.map (·.2)).getD 0, trEp := BitVec.ofNat 4 ((tr.map (·.1)).getD 0), trValid := tr.isSome, fcrc := 0 }

/-- One frame leaves a port that is UP; its header reports freed buffers, NAK and an endpoint's credit once (R51 to R62, R73). -/
def frameOut (p : Nat) (m : Sys) : Sys :=
  let x := portOf m p
  let tr := trReport m x
  let (g, y) := frameNext x
  let y := putFrame (headOf x tr g) g.payload { y with freed := y.freed.map (· - 255), nak := false }
  let y := match tr with
    | some (e, c) => { y with
        trSent := tset e c y.trSent, trNext := if x.alignAt.toNat % 4 = 0 then BitVec.ofNat 4 (e + 1) else y.trNext }
    | none => y
  onPort p (fun _ => y) m

/-- The payload of this module's HELLO on a port (R63, R76), laid out in the order in which R76 names its fields (DESIGN CHOICE, log
entry 8). -/
def helloPayload (m : Sys) (p : Nat) : List Byte :=
  let x := portOf m p
  fitBytes 256 (leBytes 8 identity.toNat ++ leBytes 2 m.fabric.group.toNat ++ leBytes 1 (flagAt m.fabric.groupSet 0) ++
    leBytes 2 (if m.fabric.assigned then (ownAddr m).toNat else 0) ++ leBytes 1 (flagAt m.fabric.assigned 0) ++ leBytes 1 p ++ leBytes 1 0 ++
    leBytes 2 (x.rxLast + 1).toNat ++ (freeBuffers x).flatMap fun n => leBytes 2 n)

/-- A frame of training leaves a port: no credit and no NAK stands in its header, for the HELLO gives the free buffers (R58, R63). -/
def trainFrame (p : Nat) (g : Outgoing) (m : Sys) : Sys :=
  let x := portOf m p
  onPort p (putFrame { headOf x none g with nak := false, credits := [0, 0, 0, 0] } g.payload) m

/-- The five frames of a turn on a port whose transmitter is on (R48, R51): ALIGN frames in ALIGN, HELLO frames in HELLO, four ALIGN frames
and a HELLO in a fast retrain (DESIGN CHOICE, log entry 8), and traffic in UP. -/
def portFrames (p : Nat) (m : Sys) : Sys :=
  let hello := plainFrame 0x02 (helloPayload m p)
  match (portOf m p).train with
  | .align => forEach (List.replicate 5 alignFrame) (trainFrame p) m
  | .hello => forEach (List.replicate 5 hello) (trainFrame p) m
  | .retrain => forEach (List.replicate 4 alignFrame ++ [hello]) (trainFrame p) m
  | .up => forEach (List.range 5) (fun _ => frameOut p) m
  | _ => m

/-- The transmitter of a port is on (R34, R38). -/
def transmits (m : Sys) (p : Nat) : Bool := m.power.txOn && !m.power.opticsOff.getLsbD p

/-- A turn of frames on every port (R51); those of the turn before no longer stand on the output. -/
def sendFrames (m : Sys) : Sys :=
  forEach ((List.range 8).filter (transmits m)) portFrames
    (onFabric (fun x => { x with ports := tmap (fun y => { y with sent := [] }) x.ports }) m)

/-! ### Headers (R54, R58, R61, R62) -/

/-- A replay: every frame from ACK_NO + 1 is sent again; the eighth without progress retrains the port (R49, R62). -/
def replay (p : Nat) (m : Sys) : Sys :=
  let m := addTotal 43 1 (onPort p (fun x => { x with resend := x.retry.map (·.no), replays := satInc x.replays, stalled := x.stalled + 1 }) m)
  onlyIf (decide (8 ≤ (portOf m p).stalled)) (enterRetrain p) m

/-- ACK_NO, credits and NAK of a frame header (R54). -/
def headerIn (p : Nat) (h : FrameHead) (m : Sys) : Sys :=
  let m := onPort p (fun x =>
    let retry := x.retry.filter fun f => !seqUpTo f.no h.ack
    { x with
      retry, acked := h.ack, resend := x.resend.filter fun n => !seqUpTo n h.ack,
      stalled := if retry.length < x.retry.length then 0 else x.stalled,
      credit := List.zipWith (· + ·) x.credit h.credits }) m
  onlyIf (h.nak && !(portOf m p).retry.isEmpty) (replay p) m

/-- REPLAY_TIMEOUT (R62): 10 µs without progress with frames outstanding. The hub handles it outside the precedence list (R90). -/
def execReplayTimeout (port : BitVec 3) (s : State) : Host.Outcome State Fault Refusal :=
  done s (whileLive fun m => onlyIf ((portOf m port.toNat).train == .up && !(portOf m port.toNat).retry.isEmpty) (replay port.toNat) m)

/-! ### Blocks that a port passes up (R65, R70, R74, R80, R83, R84) -/

/-- A block that may lawfully reach a halted module: a read of a register, or an acknowledgement (R410). -/
def heardHalted (m : Sys) (b : Block) : Bool := m.boot.stage != stageHalted || b.kind == kRegRead || b.kind == kE2eAck

/-- This module carries a block on its way: it has a number, or the block is the ASSIGN that gives modules theirs (R77). -/
def carries (m : Sys) (b : Block) : Bool := m.fabric.assigned || b.kind == kAssign

/-- Forward a block on its way; HOPS_LEFT never falls below 0 (R77, R80, R83). -/
def forwardBlock (b : Block) (m : Sys) : Sys :=
  if !carries m b then m
  else if b.hops = 0 then badBlock m
  else
    let r := routeOf b.dst m
    if r.valid && !r.isLocal then toPort r.port.toNat { b with hops := b.hops - 1 } m else badBlock m

/-- Forward a broadcast on the child ports of its source's tree (R84). DESIGN CHOICE (log entry 30): one whose source address the link state
does not show has no tree here, so it goes out on no port and is not counted. -/
def forwardTree (b : Block) (m : Sys) : Sys :=
  match identityAt m b.src with
  | some i =>
    let kids := childPorts m i
    if kids.isEmpty || !carries m b then m
    else if b.hops = 0 then badBlock m
    else forEach kids (fun p => toPort p { b with hops := b.hops - 1 }) m
  | none => m

/-- A broadcast's scope takes in this module (R64). -/
def inScope (m : Sys) (b : Block) : Bool := b.bcast == 2 || (b.bcast == 1 && b.dst.extractLsb' 6 10 == m.fabric.group)

/-- What a block from the host is about once it has been taken (R74, R105): a TASK_WRITE for the rook; another block for the rook; or an
access to registers anywhere, or read data for any module, which go on in the rook's own streams. A TASK_WRITE with any other destination
is discarded and counted. -/
def hostTaken (b : Block) (m : Sys) : Sys :=
  let onward := { b with ackValid := false, ackSeq := 0, ackVc := 0 }
  let moves := b.kind == kRegRead || b.kind == kRegWrite || b.kind == kTensorReadResp
  if b.kind = kTaskWrite then (if b.dst = ownAddr m ∧ b.bcast = 0 then passUp b m else badBlock m)
  else if b.bcast ≠ 0 then onlyIf (inScope m b) (passUp b) (sendBlock onward m)
  else if b.dst = ownAddr m then passUp b m
  else if moves then sendBlock onward m
  else badBlock m

/-- The stream of the host that a block belongs to: its destination and channel, and one for each scope of a broadcast (R66, R70). -/
def hostKey (b : Block) : StreamKey := streamKey b

/-- Answer a stream of the host in the name of its destination, out of the host port (R66, R74). -/
def answerHost (b : Block) (seq : BitVec 16) (nak : Bool) (m : Sys) : Sys :=
  toHost { newBlock b.dst (ownAddr m) kE2eAck with
    host := true, ep := b.ep, ackSeq := seq, ackVc := b.vc, ackValid := true, tag := ackTag (hostKey b),
    body := leBytes 1 (flagAt nak 0) ++ zeros 3 } m

/-- A block from the host on the active host port (R66, R74): the rook is the end of the host's streams (DEDUCED, log entry 30), takes their
blocks in order, and asks for those that are missing or whose BCRC fails. -/
def hostBlock (p : Nat) (b : Block) (m : Sys) : Sys :=
  if activeHost m ≠ some p ∨ b.host = false ∨ b.src ≠ ownAddr m then (if crcHolds b then badBlock m else bcrcError m)
  else if !heardHalted m b then m
  else if b.kind = kE2eAck then passUp b m
  else match verdict (openRx m.fabric.hostRx (hostKey b)) b with
    | .take =>
      let r := rxAfter (openRx m.fabric.hostRx (hostKey b)) b (now m)
      hostTaken b (answerHost b b.seq false (onFabric (fun x => { x with hostRx := putRx (hostKey b) r x.hostRx }) m))
    | .again last => answerHost b last false m
    | .gap last => answerHost b last true m
    | .corrupt last => answerHost b last true (bcrcError m)
    | .unknown => answerHost b 0xFFFF true m

/-- Pass up a block that goes from hop to hop outside every stream: one whose BCRC fails is counted and discarded (R66, R92). -/
def passUpGood (b : Block) (m : Sys) : Sys := if crcHolds b then passUp b m else bcrcError m

/-- A block that a port has put together (R65, R74, R80, R84). LINK_STATE goes from hop to hop outside every stream (R76), and so does
POWER_FAIL, which R89 sends on a port and not to a destination (DESIGN CHOICE, log entry 30). A block with the reserved BCAST value 3 is
discarded and counted as one of R65 (DESIGN CHOICE, log entry 30). -/
def blockIn (p : Nat) (b : Block) (m : Sys) : Sys :=
  if !kindGood b || b.bcast == 3 then badBlock m
  else if (portOf m p).host then hostBlock p b m
  else if b.kind = kLinkState ∨ b.kind = kPowerFail then passUpGood b m
  else if b.bcast ≠ 0 then
    let m := forwardTree b m
    onlyIf (inScope m b && heardHalted m b) (streamBlock b) m
  else if b.dst = ownAddr m ∧ m.fabric.assigned = true then
    if b.kind = kE2eAck then passUp b m else onlyIf (heardHalted m b) (streamBlock b) m
  else forwardBlock b m

/-- Whole blocks at the front of a channel's bytes, and the rest; a header of KIND 0 marks padding (R59). `fuel` bounds their number. -/
def cutBlocks : Nat → List Byte → List Block × List Byte
  | 0, l => ([], l)
  | fuel + 1, l =>
    if l.length < 5 then ([], l)
    else if l.getD 4 0 = 0 then ([], [])
    else if l.length < 32 then ([], l)
    else
      let n := 32 + bodyLength l
      if l.length < n then ([], l)
      else match readBlock (l.take n) with
        | none => ([], [])
        | some b =>
          let r := cutBlocks fuel (l.drop n)
          (b :: r.1, r.2)

/-- The payload of an accepted DATA frame: blocks that it completes, and the part it leaves (R59). -/
def payloadBlocks (part : List Byte) (first : Nat) (payload : List Byte) : List Block × List Byte :=
  if 256 ≤ first then (if part.isEmpty then ([], []) else cutBlocks 16 (part ++ payload))
  else
    let a := cutBlocks 16 (part ++ payload.take first)
    let b := cutBlocks 16 (payload.drop first)
    (a.1 ++ b.1, b.2)

/-- Receive buffers that a channel still occupies once a frame has been taken (R58): none if no block is left in part; this frame's if a
block begins in it; else one more than before. -/
def buffersHeld (before : Nat) (first : BitVec 9) (rest : List Byte) : Nat :=
  if rest.isEmpty then 0 else if first.toNat < 256 then 1 else before + 1

/-- A DATA frame: the next in order is accepted and its blocks passed up; any other is discarded, with NAK once per gap (R61). So is one
that meets no free buffer, which a peer that keeps to its credits does not send (R57, R58). -/
def dataIn (p : Nat) (h : FrameHead) (payload : List Byte) (m : Sys) : Sys :=
  let x := portOf m p
  let vc := h.vc.toNat
  if h.no ≠ x.rxLast + 1 ∨ (freeBuffers x).getD vc 0 = 0 then onPort p (fun x => { x with nak := x.nak || !x.gap, gap := true }) m
  else
    let r := payloadBlocks (tget [] vc x.part) h.first.toNat payload
    let old := x.occupied.getD vc 0
    let held := buffersHeld old h.first r.2
    let m := onPort p (fun x => { x with
      rxLast := h.no, gap := false, part := tset vc r.2 x.part, occupied := lupd vc (fun _ => held) x.occupied,
      freed := lupd vc (· + (old + 1 - held)) x.freed }) m
    forEach r.1 (blockIn p) m

/-- A frame that fails FEC or CRC is discarded (R52, R61). -/
def frameBad (p : Nat) (m : Sys) : Sys :=
  addTotal 42 1 (onPort p (fun x => { x with fecFail := satInc x.fecFail, nak := x.nak || !x.gap, gap := true }) m)

/-- A byte of the frame that carries payload, behind the 16 header bytes and before the parity (R52). -/
def payloadByte (i : Nat) : Bool := decide (16 ≤ i) && decide (i < 272)

/-- Count the bytes that FEC corrected: in units of 256, and per lane those of the payload of IDLE frames (R55, R92). -/
def countCorrections (p : Nat) (idle : Bool) (l : List Nat) (m : Sys) : Sys :=
  onPort p (fun x =>
    let n := x.fecRest + l.length
    { x with
      fecCorr := satAdd x.fecCorr (n / 256), fecRest := n % 256,
      laneErr := if idle then (l.filter payloadByte).foldl (fun t i => tupd 0 (laneOf i) (· + 1) t) x.laneErr else x.laneErr }) m

/-- A frame of 320 bytes arrives at a port that is UP (R52, R54, R55, R61). -/
def frameIn (p : Nat) (raw : List Byte) (m : Sys) : Sys :=
  if (portOf m p).train ≠ .up then m
  else match fecDecode (fitBytes 320 raw) with
    | none => frameBad p m
    | some (content, fixed) =>
      let h := readFrameHead content
      let payload := content.drop 16
      if frameCrc h payload ≠ h.fcrc then frameBad p m
      else
        let m := headerIn p h (countCorrections p (h.type == 0) fixed m)
        if h.type = 0x01 then dataIn p h payload m else m

/-- DATA_FRAME (R61). -/
def execDataFrame (port : BitVec 3) (raw : List Byte) (s : State) : Host.Outcome State Fault Refusal :=
  done s (whileLive (frameIn port.toNat raw))

/-- IDLE_FRAME (R55). -/
def execIdleFrame (port : BitVec 3) (raw : List Byte) (s : State) : Host.Outcome State Fault Refusal :=
  done s (whileLive (frameIn port.toNat raw))

end Sys2Proof.Machine
end

