-- ==== Sys2Proof/Machine/Link.lean ====
section
/-!
DEFINITION. Port training, host ports, discovery, election and routing (R48 to R50, R63, R72, R75 to R84).
-/
namespace Sys2Proof.Machine

/-! ### Link state (R76) -/

/-- Forget a block that has been passed up and whose contents a command carries. -/
def useTaken (p : Block → Bool) : Sys → Sys := onFabric fun x =>
  { x with taken := match x.taken.find? p with
      | some b => x.taken.erase b
      | none => x.taken }

/-- This module's own LINK_STATE (R76). -/
def ownLink (m : Sys) : LinkInfo :=
  { identity, group := m.fabric.group, addr := if m.fabric.assigned then some (ownAddr m) else none, starts := m.boot.starts,
    hostPort := (activeHost m).isSome, neighbours := (ownNeighbours m).map fun e => (BitVec.ofNat 3 e.1, BitVec.ofNat 64 e.2) }

/-- The body of a LINK_STATE block (log entry 8). -/
def linkBody (l : LinkInfo) : List Byte :=
  leBytes 8 l.identity.toNat ++ leBytes 2 l.group.toNat ++ leBytes 2 (l.addr.getD 0).toNat ++
    leBytes 4 (flagAt l.addr.isSome 0 + flagAt l.hostPort 1 + 256 * l.neighbours.length) ++ leBytes 4 l.starts.toNat ++
    l.neighbours.flatMap fun e => leBytes 4 e.1.toNat ++ leBytes 8 e.2.toNat

/-- Ports that carry a LINK_STATE: every UP port, but for a host port that is not active, which carries only IDLE frames (R72, R76). -/
def linkPorts (m : Sys) : List Nat :=
  (List.range 8).filter fun p => (portOf m p).train == .up && (!(portOf m p).host || (portOf m p).hostActive)

/-- Send a LINK_STATE block out of every such port but one (R76). -/
def sendLink (b : Block) (notOn : Option Nat) (m : Sys) : Sys :=
  forEach ((linkPorts m).filter fun p => some p != notOn) (fun p => toPort p b) m

/-- The LINK_STATE block of a module at an address. -/
def linkBlock (src : Addr) (l : LinkInfo) : Block := sealBlock { newBlock src 0 kLinkState with bcast := 2, body := linkBody l }

/-- Forward a LINK_STATE as it came, with HOPS_LEFT lowered; one that has no hop left is discarded and counted (R64, R76, R83). -/
def forwardLink (b : Block) (notOn : Option Nat) (m : Sys) : Sys :=
  if b.hops = 0 then badBlock m else sendLink { b with hops := b.hops - 1 } notOn m

/-- Flood this module's own LINK_STATE (R76). -/
def flood (m : Sys) : Sys := sendLink (linkBlock (ownAddr m) (ownLink m)) none m

/-! ### The rook's credits and the host port (R72, R73, R78) -/

/-- Report the credits of every endpoint (R73). -/
def reportAll (m : Sys) : Sys := forEach (List.range 16) reportCredit m

/-- This module becomes its group's rook (R77, R78). -/
def becomeRook (m : Sys) : Sys := reportAll (onFabric (fun x => { x with rook := true, rookAddr := some (ownAddr m) }) m)

/-- With no rook in the group, a module with an address and an active host port becomes it (R78). -/
def claimRook (m : Sys) : Sys :=
  if m.fabric.assigned && m.fabric.rookAddr.isNone && (activeHost m).isSome then becomeRook m else m

/-- What waited for a host port leaves through it (R72, R446). -/
def drainHost (m : Sys) : Sys :=
  match activeHost m with
  | some p =>
    let l := m.fabric.hostWait ++ m.health.forward
    forEach l (fun b => toPort p (sealBlock b))
      (onHealth (fun h => { h with forward := [] }) (onFabric (fun x => { x with hostWait := [] }) m))
  | none => m

/-- Ports that may be the active host port: UP, or in a fast retrain while they are it (R72). -/
def hostCandidate (x : Port) : Bool := x.host && (x.train == .up || (x.hostActive && x.train == .retrain))

/-- The lowest-numbered host port becomes the active one; its endpoints and the credits follow (R72, R73). Blocks that stand in the old
port's egress queue stay there (R51). -/
def chooseHost (m : Sys) : Sys :=
  let best := (List.range 8).find? fun p => hostCandidate (portOf m p)
  let old := activeHost m
  if best = old then m
  else
    let m := match old with
      | some p => onPort p (fun x => { x with hostActive := false }) m
      | none => m
    match best with
    | none => m
    | some p =>
      let n := (portOf m p).endpoints.toNat
      let m := onPort p (fun x => { x with hostActive := true }) m
      let m := forEach (List.range 16) (fun e => onEp e fun x => { x with valid := decide (e < n) }) m
      claimRook (reportAll (drainHost m))

/-! ### Leaving routing (R50, R82) -/

/-- Route entries through a lost port are not valid; a driver's entry returns to automatic, and is counted (R82). -/
def dropVia (auto : Bool) (p : Nat) (t : Tab Route) : Tab Route × Nat :=
  t.foldl (fun (acc : Tab Route × Nat) e =>
    if e.2.valid && !e.2.isLocal && e.2.port.toNat == p then
      if auto then (acc.1, acc.2 + (if e.2.driver then 1 else 0))
      else (acc.1 ++ [(e.1, { e.2 with valid := false })], acc.2)
    else (acc.1 ++ [e], acc.2)) ([], 0)

/-- A port leaves routing: its routes go, and the neighbour list is flooded anew (R50, R76, R82). -/
def leaveRouting (p : Nat) (m : Sys) : Sys :=
  if !(portOf m p).routed then m
  else
    let x := m.fabric
    let g := dropVia x.routeAuto p x.grp
    let k := dropVia x.routeAuto p x.mbr
    flood (onPort p (fun x => { x with routed := false })
      (onFabric (fun x => { x with grp := g.1, mbr := k.1, overrideLost := satAdd x.overrideLost (g.2 + k.2) }) m))

/-- A port begins a full training from DOWN (R49, R50). -/
def fullTraining (p : Nat) (m : Sys) : Sys :=
  leaveRouting p (countTraining p true (onPort p (fun x => { x with train := .down, lanes := 0, resend := [], stalled := 0 }) m))

/-! ### Training (R48, R49) -/

/-- Move a port from one training state to the next while the module runs. -/
def trainStep (p : Nat) (at_ next : Train) (f : Port → Port) (m : Sys) : Sys :=
  if (portOf m p).train = at_ then onPort p (fun x => { f x with train := next }) m else m

/-- SIGNAL_DETECT (R48): a port whose transmitter is off still trains its receiver. -/
def execSignalDetect (port : BitVec 3) (s : State) : Host.Outcome State Fault Refusal :=
  done s (whileLive (trainStep port.toNat .down .signal id))

/-- LANE_LOCK (R48). In a fast retrain the lanes lock again. -/
def execLaneLock (port : BitVec 3) (s : State) : Host.Outcome State Fault Refusal :=
  done s (whileLive fun m =>
    if (portOf m port.toNat).train = .retrain then onPort port.toNat (fun x => { x with lanes := 0xF }) m
    else trainStep port.toNat .signal .equalize (fun x => { x with lanes := 0xF }) m)

/-- EQUALISER_AGREED (R46, R48, R55): the settings are stored, and on entry to ALIGN the scramblers and the test pattern start afresh. -/
def execEqualiserAgreed (port : BitVec 3) (s : State) : Host.Outcome State Fault Refusal :=
  done s (whileLive (trainStep port.toNat .equalize .align fun x => { x with
    equalised := true, prbs := BitVec.allOnes 31, scram := [0, 0, 0, 0] }))

/-- FRAME_LOCK (R48). -/
def execFrameLock (port : BitVec 3) (s : State) : Host.Outcome State Fault Refusal :=
  done s (whileLive (trainStep port.toNat .align .hello id))

/-- The frames that the peer still expects, as the retry buffer keeps them after a HELLO: no credit has been used for any of them yet
(R58, R63). -/
def keptFrames (h : Hello) (x : Port) : List TxFrame :=
  (x.retry.filter fun f => !seqUpTo f.no (h.expected - 1)).map fun f => { f with paid := false }

/-- What a valid HELLO sets at a port: the peer, the credits and the resend point (R58, R63, R76). Frames sent again are a replay (R63). -/
def helloPort (h : Hello) (x : Port) : Port :=
  let retry := keptFrames h x
  { x with
    train := .up, lanes := 0xF, host := h.isHost, hostActive := x.hostActive && h.isHost, peerValid := true, peerPort := h.peerPort,
    peerAddr := h.addr.getD 0, peerId := h.identity, peerGroup := if h.groupSet then some h.group else none, endpoints := h.endpoints,
    acked := h.expected - 1, retry, resend := retry.map (·.no), replays := if retry.isEmpty then x.replays else satInc x.replays,
    stalled := 0, nak := false, gap := false,
    credit := (List.range 4).map fun v => h.free.getD v 0, freed := [0, 0, 0, 0], routed := !h.isHost }

/-- A module without a set group takes the group of its lowest-identity neighbour that has one (R75). -/
def adoptGroup (m : Sys) : Sys :=
  if m.fabric.groupSet || m.fabric.assigned then m
  else
    let l := ((List.range 8).map (portOf m)).filterMap fun x =>
      if x.routed then x.peerGroup.map fun g => (x.peerId, g) else none
    match minBy (fun (a b : Word × BitVec 10) => decide (a.1 < b.1)) l with
    | some e => onFabric (fun x => { x with group := e.2 }) m
    | none => m

/-- A valid HELLO: the port is UP, unless the peer asks for a retrain (R48, R49, R63, R76). -/
def helloIn (p : Nat) (h : Hello) (m : Sys) : Sys :=
  let x := portOf m p
  if h.retrain then
    if x.train = .up then enterRetrain p m
    else if x.train = .hello ∨ x.train = .retrain then countTraining p false (onPort p (fun x => { x with train := .retrain }) m)
    else m
  else if x.train = .hello ∨ x.train = .retrain then
    let known := x.routed && x.peerId == h.identity
    let m := onlyIf (!(keptFrames h x).isEmpty) (addTotal 43 1) m
    let m := onFabric (fun f => { f with firstUp := f.firstUp.orElse fun _ => some (now m) }) (onPort p (helloPort h) m)
    let m := chooseHost (adoptGroup m)
    if known then m else flood m
  else m

/-- HELLO (R63). -/
def execHello (port : BitVec 3) (h : Hello) (s : State) : Host.Outcome State Fault Refusal := done s (whileLive (helloIn port.toNat h))

/-- LOSS_OF_LOCK (R49). -/
def execLossOfLock (port : BitVec 3) (locked : BitVec 4) (s : State) : Host.Outcome State Fault Refusal :=
  done s (whileLive fun m => enterRetrain port.toNat (onPort port.toNat (fun x => { x with lanes := locked }) m))

/-- RETRAIN_TRIGGER (R49). -/
def execRetrainTrigger (port : BitVec 3) (s : State) : Host.Outcome State Fault Refusal :=
  done s (whileLive (enterRetrain port.toNat))

/-- FAST_RETRAIN_TIMEOUT (R49, R50); the hub handles it outside the precedence list (R90). -/
def execFastRetrainTimeout (port : BitVec 3) (s : State) : Host.Outcome State Fault Refusal :=
  done s (whileLive fun m => onlyIf ((portOf m port.toNat).train == .retrain) (fullTraining port.toNat) m)

/-- A port is in full training. -/
def inTraining (t : Train) : Bool := t == .down || t == .signal || t == .equalize || t == .align || t == .hello

/-- A full training has failed: the third in 1 s gives the port up (R49). -/
def trainingFailed (p : Nat) (m : Sys) : Sys :=
  let x := portOf m p
  if !inTraining x.train then m
  else
    let fails := (x.fails.filter fun t => decide (now m < t + secTurns)) ++ [now m]
    if 3 ≤ fails.length then
      notice 0x0F 2 (leBytes 1 p) (leaveRouting p (onPort p (fun x => { x with train := .failed, lanes := 0, fails := [] }) m))
    else fullTraining p (onPort p (fun x => { x with fails }) m)

/-- FULL_TRAINING_FAILED (R49). -/
def execFullTrainingFailed (port : BitVec 3) (s : State) : Host.Outcome State Fault Refusal :=
  done s (whileLive (trainingFailed port.toNat))

/-- FAILED_RETRY (R48): a timer of 10 s; the hub handles it outside the precedence list (R90). -/
def execFailedRetry (port : BitVec 3) (s : State) : Host.Outcome State Fault Refusal :=
  done s (whileLive fun m => onlyIf ((portOf m port.toNat).train == .failed) (fullTraining port.toNat) m)

/-- PORT_DISABLE holds ports in DISABLED or releases them to DOWN (R48). -/
def setDisable (mask : BitVec 8) (m : Sys) : Sys :=
  forEach (List.range 8) (fun p m =>
    let x := portOf m p
    if mask.getLsbD p && x.train != .disabled then
      leaveRouting p (onPort p (fun x => { x with train := .disabled, lanes := 0, resend := [], stalled := 0 }) m)
    else if !mask.getLsbD p && x.train == .disabled then fullTraining p m
    else m) (onFabric (fun x => { x with portDisable := mask }) m)

/-- PORT_DISABLE (R48). -/
def execPortDisable (mask : BitVec 8) (s : State) : Host.Outcome State Fault Refusal := done s (whileLive (setDisable mask))

/-- HOST_PORT_FAILOVER (R72): a timer. -/
def execHostPortFailover (s : State) : Host.Outcome State Fault Refusal :=
  done s (asEvent 10 fun m => if (activeHost m) = (List.range 8).find? fun p => hostCandidate (portOf m p) then m else flood (chooseHost m))

/-! ### LINK_STATE (R76, R78, R126) -/

/-- Members of the group whose address is known (R92 GROUP_SIZE). -/
def countGroup (m : Sys) : Sys := onFabric (fun x =>
  { x with groupSize := satOf 7 ((if x.assigned then 1 else 0) +
      (x.links.filter fun e => e.2.group == x.group && e.2.addr.isSome && e.1 != identity.toNat).length) }) m

/-- With no rook known, a member of the group that shows an address and an active host port is it (R78). -/
def noteRook (l : LinkInfo) : Sys → Sys := onFabric fun x =>
  if x.rookAddr.isNone && l.group == x.group && l.hostPort then { x with rookAddr := l.addr } else x

/-- A LINK_STATE arrives: forwarded once; its contents are held; a higher start count means that the module has restarted
(R76, R126). -/
def linkIn (p : Nat) (l : LinkInfo) (m : Sys) : Sys :=
  let shows (b : Block) : Bool := b.kind == kLinkState && leAt b.body 0 8 == l.identity.toNat
  let b := (m.fabric.taken.find? shows).getD (linkBlock (l.addr.getD 0) l)
  let m := useTaken shows m
  if l.identity = identity then m
  else
    let old := tfind l.identity.toNat m.fabric.links
    if old = some l then m
    else
      let m := forwardLink b (some p) (onFabric (fun x => { x with links := tset l.identity.toNat l x.links }) m)
      let m := match old with
        | some o => match o.addr with
          | some a => if o.starts < l.starts then moduleLost a m else m
          | none => m
        | none => m
      countGroup (noteRook l m)

/-- LINK_STATE (R76). -/
def execLinkState (port : BitVec 3) (ls : LinkInfo) (s : State) : Host.Outcome State Fault Refusal :=
  done s (whileLive (linkIn port.toNat ls))

/-! ### Assignment and election (R77, R78) -/

/-- A member of a group as the election sees it: identity, member number if it has one, rook candidate. -/
abbrev Voter := Nat × Option Nat × Bool

/-- This module's entry and those of its group's link state, by identity. -/
def voters (m : Sys) : List Voter :=
  let own : Voter := (identity.toNat, if m.fabric.assigned then some m.fabric.member.toNat else none, (activeHost m).isSome)
  sortBy (fun a b => decide (a.1 < b.1)) (own :: ((m.fabric.links.filter fun e => e.2.group == m.fabric.group && e.1 != identity.toNat).map
    fun e => (e.1, e.2.addr.map fun a => (a.extractLsb' 0 6).toNat, e.2.hostPort)))

/-- The identities that links inside the group join to a set; `fuel` bounds their number. -/
def joined (m : Sys) (group : List Nat) : Nat → List Nat → List Nat
  | 0, l => l
  | fuel + 1, l =>
    let next := ((l.flatMap fun i => (neighbours m i).map (·.2)).filter fun i => group.contains i && !l.contains i).eraseDups
    if next.isEmpty then l else joined m group fuel (l ++ next)

/-- The assigner among voters: who holds member 0; else the lowest candidate; else the lowest identity (R77). -/
def assignerOf (l : List Voter) : Option Nat :=
  ((l.find? fun v => v.2.1 == some 0).orElse fun _ => (l.find? fun v => v.2.2).orElse fun _ => l.head?).map (·.1)

/-- The lowest member number not in use; none beyond 63 (R77). -/
def freeMember (used : List Nat) : Option Nat := (List.range 64).find? fun n => !used.contains n

/-- Give each voter its former number, or the lowest free one (R77). -/
def numberVoters : List Voter → Tab Nat → Tab Nat
  | [], t => t
  | v :: rest, t =>
    if (tfind v.1 t).isSome then numberVoters rest t
    else
      let used := t.map (·.2)
      let n := match v.2.1 with
        | some k => if used.contains k then freeMember used else some k
        | none => freeMember used
      numberVoters rest (match n with
        | some k => tset v.1 k t
        | none => t)

/-- This module takes a member number and its address (R77). -/
def takeMember (n : Nat) (m : Sys) : Sys :=
  if m.fabric.assigned && m.fabric.member.toNat == n then onFabric (fun x => { x with conflict := false }) m
  else claimRook (flood (onFabric (fun x => { x with assigned := true, member := BitVec.ofNat 6 n, conflict := false }) m))

/-- Send an ASSIGN to the group (R77; log entry 8). -/
def sendAssign (e : Nat × Nat) (m : Sys) : Sys :=
  sendBlock { newBlock (ownAddr m) (m.fabric.group ++ (0 : BitVec 6)) kAssign with bcast := 1, body := leBytes 8 e.1 ++ leBytes 4 e.2 } m

/-- The assigner takes member 0, is the rook if it is a candidate, and assigns the others in order of identity (R77). -/
def assignAll (part : List Voter) (m : Sys) : Sys :=
  let own := identity.toNat
  let map := numberVoters (part.filter fun v => v.1 != own) (tset own 0 m.fabric.members)
  let m := takeMember 0 (onFabric (fun x => { x with members := map }) m)
  let others := (part.filter fun v => v.1 != own && v.2.1 != tfind v.1 map).filterMap fun v => (tfind v.1 map).map fun n => (v.1, n)
  forEach others sendAssign m

/-- ASSIGN reaches this module: its own number, or another member's (R77). -/
def assignIn (id : Word) (member : BitVec 6) (m : Sys) : Sys :=
  let m := useTaken (fun b => b.kind == kAssign && leAt b.body 0 8 == id.toNat) m
  countGroup (if id = identity then takeMember member.toNat m
    else match tfind id.toNat m.fabric.links with
      | some l =>
        let l := { l with addr := some (l.group ++ member) }
        noteRook l (onFabric (fun x => { x with links := tset id.toNat l x.links }) m)
      | none => m)

/-- ASSIGN (R77). -/
def execAssign (identity : Word) (member : BitVec 6) (s : State) : Host.Outcome State Fault Refusal :=
  done s (whileLive (assignIn identity member))

/-- The part of the group whose assigner has the higher identity drops its numbers (R78). -/
def dropNumbers (m : Sys) : Sys :=
  onFabric (fun x => { x with assigned := false, member := 0, rook := false, rookAddr := none, members := [], conflict := true }) m

/-- The election after 2 ms without a new LINK_STATE for the group (R77, R78). -/
def electNow (m : Sys) : Sys :=
  let all := voters m
  let ids := all.map (·.1)
  let mine := joined m ids all.length [identity.toNat]
  let part := all.filter fun v => mine.contains v.1
  let rivals := all.filter fun v => !mine.contains v.1 && v.2.1 == some 0
  match assignerOf part with
  | none => m
  | some a =>
    if rivals.any fun v => decide (v.1 < a) then dropNumbers m
    else
      let m := onFabric (fun x => { x with conflict := false }) m
      countGroup (if a = identity.toNat then assignAll part m else m)

/-- ELECTION (R77): a timer. -/
def execElection (s : State) : Host.Outcome State Fault Refusal := done s (asEvent 10 electNow)

/-! ### Routes (R81, R82) -/

/-- For each module reached: identity, hops, and the lowest first port of a minimal path (R81). -/
def paths (m : Sys) : List (Nat × Nat × Nat) :=
  let dist := distances m identity.toNat
  let via := (ownNeighbours m).map fun e => (e.1, distances m e.2)
  dist.filterMap fun e =>
    (via.find? fun v => match tfind e.1 v.2 with
      | some d => d + 1 == e.2
      | none => false).map fun v => (e.1, e.2, v.1)

/-- The route along the best of some paths: fewest hops, then the lowest port (R81). -/
def bestRoute (l : List (Nat × Nat × Nat)) : Route :=
  match minBy (fun (a b : Nat × Nat × Nat) => decide (a.2.1 < b.2.1 ∨ (a.2.1 = b.2.1 ∧ a.2.2 < b.2.2))) l with
  | some e => { driver := false, hops := BitVec.ofNat 4 (min e.2.1 15), valid := true, isLocal := false, port := BitVec.ofNat 3 e.2.2 }
  | none => routeReset

/-- The entry of the module's own address. -/
def localRoute : Route := { driver := false, hops := 0, valid := true, isLocal := true, port := 0 }

/-- Set every entry that is not a driver's; unlisted entries are as at reset. -/
def setRoutes (old : Tab Route) (l : List (Nat × Route)) : Tab Route :=
  l.foldl (fun t e =>
    let keep := (tget routeReset e.1 old).driver
    if keep then tset e.1 (tget routeReset e.1 old) t else if e.2 = routeReset then t else tset e.1 e.2 t) []

/-- Recompute both tables by breadth-first search (R81). -/
def recompute (m : Sys) : Sys :=
  if !m.fabric.routeAuto then m
  else
    let l := (paths m).filterMap fun e => (tfind e.1 m.fabric.links).map fun k => (k, e)
    let grp := (List.range 1024).map fun g =>
      (g, bestRoute ((l.filter fun e => e.1.group.toNat == g && e.1.group != m.fabric.group).map (·.2)))
    let mbr := (List.range 64).map fun k =>
      (k, if m.fabric.assigned && m.fabric.member.toNat == k then localRoute
        else bestRoute ((l.filter fun e => e.1.addr == some (m.fabric.group ++ BitVec.ofNat 6 k)).map (·.2)))
    onFabric (fun x => { x with grp := setRoutes x.grp grp, mbr := setRoutes x.mbr mbr }) m

/-- ROUTE_RECOMPUTE (R81). -/
def execRouteRecompute (s : State) : Host.Outcome State Fault Refusal := done s (whileLive recompute)

/-- Discovery is done: DISC_TIME counts microseconds from the first port UP (R79). -/
def discoveryDone : Sys → Sys := fun m => onFabric (fun x =>
  if x.done then x
  else match x.firstUp with
    | some t => { x with done := true, discTime := satOf 32 ((now m - t) * 16 / 1000) }
    | none => x) m

/-- ROUTE_SET: the entries that name this module are staged under their epoch (R82). -/
def routeSet (b : Block) (m : Sys) : Sys :=
  let m := consumed b m
  let epoch : Word := BitVec.ofNat 64 (leAt b.body 0 8)
  let mine := (pieces 8 (b.body.drop 8)).filter fun e => leAt e 0 2 == (ownAddr m).toNat
  onFabric (fun x => { x with staged := x.staged ++ mine.map fun e => (epoch, BitVec.ofNat 64 (leNat e)) }) m

/-- ROUTE_SET (R82). -/
def execRouteSet (b : Block) (s : State) : Host.Outcome State Fault Refusal := done s (whileLive (routeSet b))

/-- Apply a staged entry; it is marked DRIVER (R82). An entry for the module's own member index, which R80 keeps LOCAL, is not applied
(DESIGN CHOICE, log entry 30). -/
def applyRoute (e : Word) : Sys → Sys := onFabric fun x =>
  let i := wfield e 17 10
  let r : Route :=
    { driver := true, hops := 0xF, valid := e.getLsbD 30, isLocal := false, port := BitVec.ofNat 3 (wfield e 27 3) }
  if e.getLsbD 16 then
    if 64 ≤ i ∨ (x.assigned = true ∧ i = x.member.toNat) then x else { x with mbr := tset i r x.mbr }
  else { x with grp := tset i r x.grp }

/-- ROUTE_COMMIT: the entries staged under its epoch apply in this turn (R82). -/
def routeCommit (b : Block) (m : Sys) : Sys :=
  let m := consumed b m
  let epoch : Word := BitVec.ofNat 64 (leAt b.body 0 8)
  forEach (m.fabric.staged.filter fun e => e.1 == epoch) (fun e => applyRoute e.2)
    (onFabric (fun x => { x with staged := x.staged.filter fun e => e.1 != epoch }) m)

/-- ROUTE_COMMIT (R82). -/
def execRouteCommit (b : Block) (s : State) : Host.Outcome State Fault Refusal := done s (whileLive (routeCommit b))

/-- ROUTE_STAGE_EXPIRE (R82): a timer. -/
def execRouteStageExpire (epoch : Word) (s : State) : Host.Outcome State Fault Refusal :=
  done s (asEvent 10 (onFabric fun x => { x with staged := x.staged.filter fun e => e.1 != epoch }))

end Sys2Proof.Machine
end

