-- ==== Sys2Proof/Machine/Migration.lean ====
section
/-!
DEFINITION. The migration engine (R150 to R157, R168), and the pieces of a WRITE as they reach their tensor (R105, R151).
-/
namespace Sys2Proof.Machine

/-! ### Pieces of a WRITE (R105, R151) -/

/-- Write one piece of a WRITE at its place, noting the lowest address that fails, whatever the order of the pieces (R470).
What a write that races with a running job leaves is free (R297; log entry 2). -/
def putPiece (f : Fetch) (off : Nat) (data : List Byte) (m : Sys) : Fetch × Sys :=
  let n := tnumOf f.cmd.tensor
  let o := offsetOf f.cmd.tensor + off
  let b := if writeRaces m n then openBytes data.length m else (data, m)
  let r := writeTensor n o b.1 b.2
  let f := { f with taken := f.taken + data.length }
  match r.1 with
  | some a => ({ f with
      badUnits := f.badUnits ++ [a / unitSize]
      bad := match f.bad with
        | some (st, b) => some (st, if tensorAddr n a < b then tensorAddr n a else b)
        | none => some (stUncorrectable, tensorAddr n a)
      conds := f.conds ||| condition stUncorrectable }, r.2)
  | none => (f, r.2)

/-- A piece of a WRITE touches a unit in its tensor's window (R151), or a stack that retrains (R397). -/
def pieceWaits (f : Fetch) (off len : Nat) (m : Sys) : Bool :=
  match tensorOf m (tnumOf f.cmd.tensor) with
  | some t => inWindow t (offsetOf f.cmd.tensor + off) len || stackWaits m t (offsetOf f.cmd.tensor + off) len
  | none => false

/-- The damaged units of its tensor that a WRITE covers whole are repaired when its pieces are written (R167), but for one in which a
piece failed. -/
def repairCovered (f : Fetch) (m : Sys) : Sys :=
  let c := f.cmd
  match tensorOf m (tnumOf c.tensor) with
  | none => m
  | some t =>
    let a := offsetOf c.tensor
    forEach (t.damaged.filter fun u => !f.badUnits.contains u && decide (a ≤ u * unitSize) && decide (min ((u + 1) * unitSize) t.size ≤ a + c.length.toNat))
      (repairUnit (tnumOf c.tensor)) m

/-- Store a fetch, or end its WRITE when nothing of it is left (R105, R106). -/
def keepFetch (f : Fetch) (m : Sys) : Sys :=
  if f.todo.isEmpty && f.asked.isEmpty && f.blocked.isEmpty then
    let m := onTask (fun t => { t with fetches := t.fetches.filter fun g => !sameCmd g.cmd f.cmd }) m
    let m := onlyIf (f.cmd.opcode == 0x02) (repairCovered f) m
    match f.bad with
    | some (st, a) => complete f.cmd { failedAt st a with conds := f.conds } m
    | none => complete f.cmd (ending stDone) m
  else onTask (fun t => { t with fetches := t.fetches.map fun g => if sameCmd g.cmd f.cmd then f else g }) m

/-- Pieces of WRITEs to a tensor whose units have left the window are written (R151). -/
def releaseBlocked (n : Nat) (m : Sys) : Sys :=
  forEach (m.task.fetches.filter fun f => f.cmd.opcode == 0x02 && tnumOf f.cmd.tensor == n && !f.blocked.isEmpty) (fun f m =>
    let r := f.blocked.foldl (fun (acc : Fetch × Sys) p =>
      if pieceWaits f p.1 p.2.length acc.2 then ({ acc.1 with blocked := acc.1.blocked ++ [p] }, acc.2)
      else putPiece acc.1 p.1 p.2 acc.2) ({ f with blocked := [] }, m)
    keepFetch r.1 r.2) m

/-! ### Starting motions (R156, R157) -/

/-- The engine starts no unit while a sensor of class 2 is critical (R157). -/
def thermalHold (m : Sys) : Bool := m.power.critActs.getLsbD 2

/-- Motions in progress. -/
def activeMotions (m : Sys) : Nat := sumTensors (fun t => match t.motion with
  | some mo => if mo.started then 1 else 0
  | none => 0) m

/-- Motions that wait to start. -/
def queuedMotions (m : Sys) : Nat := sumTensors (fun t => match t.motion with
  | some mo => if mo.started then 0 else 1
  | none => 0) m

/-- The destination space of a waiting motion is free (R156, R159). -/
def destFree (m : Sys) (t : Tensor) (mo : Motion) : Bool :=
  mo.holds || (match mo.dest with
    | .t1 _ => decide (granuleBytes t.size ≤ t1Free m)
    | .t0 c => fitsCores m c t.size
    | _ => false)

/-- The waiting motion to start next: lowest class, then order of request, among those whose space is free (R156). A tensor under a
seal waits (log entry 16). -/
def nextMotion (m : Sys) : Option (Nat × Tensor × Motion) :=
  minBy (fun a b => decide (a.2.2.prio < b.2.2.prio ∨ (a.2.2.prio = b.2.2.prio ∧ a.2.2.order < b.2.2.order)))
    (m.range.tensors.filterMap fun e => match e.2.motion with
      | some mo => if !mo.started && destFree m e.2 mo && !underSeal m e.1 then some (e.1, e.2, mo) else none
      | none => none)

/-- Units enter the window while the engine may start them: at most 64 at once, in ascending order (R150, R157). -/
def fillWindow (n : Nat) (m : Sys) : Sys :=
  if thermalHold m then m
  else updTensor n (fun t => match t.motion with
    | some mo =>
      let k := min (64 - mo.window.length) (unitCount t.size - mo.next)
      { t with motion := some { mo with window := mo.window ++ span mo.next k, next := mo.next + k } }
    | none => t) m

/-- Start one motion: its pin, if asked for, is raised in this turn or refused with FULL (R154, R162). -/
def startMotion (n : Nat) (t : Tensor) (mo : Motion) (m : Sys) : Sys :=
  let mo' := { mo with holds := true, started := true, store := freshStore (t.isSealed || t.store.zeroed) }
  let held := { t with motion := some mo' }
  if mo.pin ∧ t.pins = 0xFFFF then
    endAsk mo.asker (ending stBadCommand) (setTensor n { t with motion := none } m)
  else if mo.pin && decide (t1Capacity < (t1Pinned m + (if isPinned t then 0 else t1Held held) + 8 * 2 ^ 30)) then
    endAsk mo.asker (ending stFull) (setTensor n { t with motion := none } m)
  else fillWindow n (onlyIf mo.pin (raisePin n) (setTensor n held m))

/-- MOTION_START's effect (R156): at most 32 motions run. -/
def motionStart (m : Sys) : Sys :=
  if thermalHold m ∨ 32 ≤ activeMotions m then m
  else match nextMotion m with
    | some (n, t, mo) => startMotion n t mo m
    | none => m

/-- MOTION_START (R156). -/
def execMotionStart (s : State) : Host.Outcome State Fault Refusal := done s (whileLive motionStart)

/-! ### Units (R150, R152, R168) -/

/-- Copy one unit from its source into the motion's destination: word by word, markers carried (R387); a unit with an uncorrectable word
is written so that all of it reads as uncorrectable (R168). -/
def copyUnit (n u : Nat) (m : Sys) : Sys :=
  match tensorOf m n with
  | none => m
  | some t =>
    match t.motion with
    | none => m
    | some mo =>
      let len := min unitSize (t.size - u * unitSize)
      if t.isSealed then
        let r := readPiece n (u * unitSize) len (sourcesOf t u) m
        let st := match r.1.uncorr with
          | some _ => poisonWords (u * 2048) ((len + 7) / 8) mo.store
          | none => (writeStore mo.store (u * unitSize) (fitBytes ((len + 7) / 8 * 8) r.1.bytes)).store
        updTensor n (fun t => { t with motion := t.motion.map fun mo => { mo with store := st } }) r.2
      else
        let a := readStore t.store (u * unitSize) len
        let bad := a.uncorr.isSome || t.damaged.contains u
        let st := if bad then poisonWords (u * 2048) ((len + 7) / 8) mo.store else copyWords a.store (u * 2048) ((len + 7) / 8) mo.store
        let m := leaseFetch t.place (u * unitSize) len
          (countAccess n t.place a (setTensor n { t with store := a.store, motion := some { mo with store := st } } m))
        let lost := unitMeets t.size mo.dest mo.lostCores u
        leaseStore mo.dest st (u * unitSize) len
          (onlyIf (a.uncorr.isSome || lost) (damage n u (tensorAddr n (a.uncorr.getD (u * unitSize)))) m)

/-- A core of the set is out of service, so no copy stays there (R196). -/
def setBroken (m : Sys) (c : CoreSet) : Bool := (coreList c).any fun n => !coreIn m n

/-- The last unit has left the window: the destination becomes the home, or the new copy is listed (R152). -/
def endMotion (n : Nat) (t : Tensor) (mo : Motion) (m : Sys) : Sys :=
  let t' :=
    if mo.copying then
      match mo.dest with
      | .t1 s => { t with motion := none, copy1 := some (s, mo.store) }
      | .t0 c => { t with motion := none, copy0 := if setBroken m c then none else some (c, mo.store) }
      | _ => { t with motion := none }
    else { t with motion := none, place := mo.dest, store := mo.store, lostCores := mo.lostCores }
  let m := onlyIf mo.touches (touch n) (setTensor n t' m)
  leaveIf n (retryWaits (endAsk mo.asker (ending stDone) m))

/-- A unit's source or destination lies in a stack that retrains (R397). -/
def unitRetrains (m : Sys) (n u : Nat) (mo : Motion) : Bool := match tensorOf m n with
  | some t =>
    let len := min unitSize (t.size - u * unitSize)
    stackWaits m t (u * unitSize) len || placeRetrains m mo.dest (u * unitSize) len
  | none => false

/-- The lowest unit of the window is written at the destination and leaves it; the next units enter (R150 to R152). -/
def unitDone (n : Nat) (m : Sys) : Sys :=
  match (tensorOf m n).bind (·.motion) with
  | none => m
  | some mo =>
    match mo.window with
    | [] => m
    | u :: rest =>
      if unitRetrains m n u mo then m
      else
      let m := copyUnit n u m
      let m := updTensor n (fun t => { t with motion := t.motion.map fun mo => { mo with window := rest } }) m
      let m := releaseBlocked n (fillWindow n (onRange (fun r => { r with units := satInc r.units }) m))
      match tensorOf m n with
      | none => m
      | some t => match t.motion with
        | some mo => if mo.window.isEmpty && decide (unitCount t.size ≤ mo.next) then endMotion n t mo m else m
        | none => m

/-- UNIT_TRANSFER_DONE (R150). -/
def execUnitTransferDone (tensor : TNum) (s : State) : Host.Outcome State Fault Refusal := done s (whileLive (unitDone tensor.toNat))

/-- The engine's hold ends: units enter the windows again (R157). -/
def refillWindows (m : Sys) : Sys :=
  forEach (m.range.tensors.filter fun e => match e.2.motion with
    | some mo => mo.started
    | none => false) (fun e => fillWindow e.1) m

end Sys2Proof.Machine
end

