-- ==== Sys2Proof/Machine/FabricRows.lean ====
section
/-!
DEFINITION. Leases (R86 to R88, R161), notices at the rook (R446), power-fail of a neighbour (R89), rook hand-over (R124) and the
fabric reset (R91, R123).
-/
namespace Sys2Proof.Machine

/-! ### Granting and borrowing (R86, R161) -/

/-- Body of the lease blocks: identity, lease identifier and GiB (log entry 8). -/
def leaseBody (lease gib : Nat) : List Byte := leBytes 8 identity.toNat ++ leBytes 4 lease ++ leBytes 4 gib

/-- Send a lease block. -/
def sendLease (kind : Byte) (dst : Addr) (lease gib : Nat) (m : Sys) : Sys :=
  sendBlock { newBlock (ownAddr m) dst kind with body := leaseBody lease gib } m

/-- The lowest unused lease identifier from `n` on; `fuel` bounds the search. -/
def freeLease (m : Sys) : Nat → Nat → Option Nat
  | 0, _ => none
  | fuel + 1, n => if n ≠ 0 ∧ (tfind n m.fabric.lent).isNone then some n else freeLease m fuel ((n + 1) % 65536)

/-- The conditions of R86 on a grant: same group, at most two hops, LEND_MAX, no job, and 16 GiB of own T1 still free. A module that is not
in P1, or is on its way to another power state, grants nothing (DESIGN CHOICE, log entry 31: R33 refuses P2 and P3 to a lender, and R86 says
nothing of a request that meets them). -/
def mayLend (m : Sys) (id : Word) (gib : Nat) : Bool :=
  live m && m.range.t1Ready && decide (0 < gib) && m.jobs.job.isNone && m.power.current == 1 && !m.power.inTransition &&
    decide (lentGib m + gib ≤ min 256 m.fabric.lendMax.toNat) && decide ((gib + 16) * 2 ^ 30 ≤ t1Free m) &&
    (match tfind id.toNat m.fabric.links, tfind id.toNat (distances m identity.toNat) with
      | some l, some d => l.group == m.fabric.group && decide (d ≤ 2)
      | _, _ => false)

/-- LEASE_REQ: granted under a lease identifier, or answered with a grant of 0 GiB (R86; log entry 8). -/
def leaseReq (id : Word) (addr : Addr) (gib : Nat) (m : Sys) : Sys :=
  let m := useTaken (fun b => b.kind == kLeaseReq && leAt b.body 0 8 == id.toNat) m
  match (if mayLend m id gib then freeLease m 65536 m.fabric.leaseNo else none) with
  | some n =>
    sendLease kLeaseGrant addr n gib (onFabric (fun x => { x with
      leaseNo := (n + 1) % 65536,
      lent := tset n { number := n, peer := id, peerAddr := addr, gib, recalled := false, writes := 0, bytes := [] } x.lent }) m)
  | none => sendLease kLeaseGrant addr 0 0 m

/-- LEASE_REQ (R86). -/
def execLeaseReq (identity : Word) (addr : Addr) (gib : BitVec 9) (s : State) : Host.Outcome State Fault Refusal :=
  done s (whileLive (leaseReq identity addr gib.toNat))

/-- The lowest number that this module has free for a lease it borrows. -/
def freeHandle (m : Sys) : Nat := ((span 1 (m.fabric.borrowed.length + 1)).find? fun n => (tfind n m.fabric.borrowed).isNone).getD 0

/-- The leases that this module borrows under a lease identifier: lenders number theirs apart, so two may bear one. -/
def borrowedAs (m : Sys) (number : Nat) : Tab Lease := m.fabric.borrowed.filter fun e => e.2.number == number

/-- The request that an answer of a module belongs to: the oldest made to it, of the size granted where one is. -/
def answeredAsk (id : Word) (gib : Nat) (m : Sys) : Option LeaseAsk :=
  let l := m.fabric.leaseAsks.filter fun x => x.asked == id
  (l.find? fun x => x.gib == gib).orElse fun _ => l.head?

/-- A module refuses: the next is asked; where there is none, the tensor is skipped (R161). -/
def leaseGoesOn (x : LeaseAsk) (m : Sys) : Sys := match askLenders x.tensor x.gib x.rest m with
  | (true, m) => m
  | (false, m) => retryWaits (skipTensor x.tensor m)

/-- LEASE_GRANT: the lease is held and the requests that waited run again; a refusal goes on to the next module (R86, R161). A grant that
would exceed BORROW_MAX is released at once. A grant under an identifier that another lender has used is held beside that lender's (DESIGN
CHOICE, log entry 31: R86 says only that the grant names it). -/
def leaseGrant (id : Word) (addr : Addr) (lease gib : Nat) (m : Sys) : Sys :=
  let m := useTaken (fun b => b.kind == kLeaseGrant && leAt b.body 0 8 == id.toNat) m
  let ask := answeredAsk id gib m
  let m := match ask with
    | some x => onFabric (fun f => { f with leaseAsks := f.leaseAsks.erase x }) m
    | none => m
  if gib = 0 then
    match ask with
    | some x => leaseGoesOn x m
    | none => m
  else if min 256 m.fabric.borrowMax.toNat < borrowedGib m + gib then sendLease kLeaseRelease addr lease gib m
  else
    let held := ((borrowedAs m lease).find? fun e => e.2.peer == id).map (·.1)
    retryWaits (onFabric (fun x => { x with
      borrowed := tset (held.getD (freeHandle m)) { number := lease, peer := id, peerAddr := addr, gib, recalled := false, writes := 0, bytes := [] }
        x.borrowed }) m)

/-- LEASE_GRANT (R86). -/
def execLeaseGrant (identity : Word) (addr : Addr) (lease : BitVec 16) (gib : BitVec 9) (s : State) : Host.Outcome State Fault Refusal :=
  done s (whileLive (leaseGrant identity addr lease.toNat gib.toNat))

/-- LEASE_GRANT_TIMEOUT: the tensor of the oldest request is skipped (R161). -/
def grantTimeout (m : Sys) : Sys := match m.fabric.leaseAsks with
  | x :: rest => retryWaits (skipTensor x.tensor (onFabric (fun f => { f with leaseAsks := rest }) m))
  | [] => m

/-- LEASE_GRANT_TIMEOUT (R161): a timer. -/
def execLeaseGrantTimeout (s : State) : Host.Outcome State Fault Refusal := done s (asEvent 10 grantTimeout)

/-! ### Recall and release (R87, R161) -/

/-- No tensor lies in a lease that this module borrows, by its own number for it, or is on its way into it. -/
def leaseEmpty (m : Sys) (lease : Nat) : Bool :=
  !m.range.tensors.any fun e =>
    (placesOf e.2 ++ (match e.2.motion with
      | some mo => [mo.dest]
      | none => [])).any fun p => match p with
      | .tn l _ => l.toNat == lease
      | _ => false

/-- The borrower ends an empty lease (R87, R161). -/
def releaseLease (lease : Nat) (m : Sys) : Sys :=
  match tfind lease m.fabric.borrowed with
  | some l =>
    if leaseEmpty m lease then
      sendLease kLeaseRelease (leaseAddr m l) l.number l.gib (onFabric (fun x => { x with borrowed := tdel lease x.borrowed }) m)
    else m
  | none => m

/-- Recalled leases that have become empty are released (R87). -/
def releaseRecalled (m : Sys) : Sys := forEach ((m.fabric.borrowed.filter fun e => e.2.recalled).map (·.1)) releaseLease m

/-- A motion towards a lease that has not started gives way to a recall: a request for it looks for room again (R160). -/
def cancelInto (lease : Nat) (m : Sys) : Sys :=
  forEach m.range.tensors (fun e m =>
    match e.2.motion with
    | some mo =>
      (match mo.dest with
        | .tn l _ =>
          if l.toNat = lease ∧ mo.started = false then
            onlyIf (mo.asker != .engine) (waitFor
              { asker := mo.asker, tensor := BitVec.ofNat 24 e.1, ask := .move 4 mo.pin noCores, order := mo.order, skipped := [], due := true })
              (setTensor e.1 { e.2 with motion := none } m)
          else m
        | _ => m)
    | none => m) m

/-- LEASE_RECALL: the tensors move out, and the lease is released once it is empty (R87). The row gives the identifier alone, and the block
its lender; where the block is not here, every lease under the identifier is meant. -/
def leaseRecall (lease : Nat) (m : Sys) : Sys :=
  let named (b : Block) : Bool := b.kind == kLeaseRecall && (leAt b.body 0 4 == lease || leAt b.body 8 4 == lease)
  let lender := (m.fabric.taken.find? named).map (·.src)
  let m := useTaken named m
  forEach ((borrowedAs m lease).filter fun e => lender.isNone || lender == some (leaseAddr m e.2)) (fun e m =>
    let m := cancelInto e.1 (onFabric (fun x => { x with borrowed := tset e.1 { e.2 with recalled := true } x.borrowed }) m)
    releaseLease e.1 (forEach (m.range.tensors.map (·.1)) leaveIf (retryWaits m))) m

/-- LEASE_RECALL (R87). -/
def execLeaseRecall (lease : BitVec 16) (s : State) : Host.Outcome State Fault Refusal := done s (whileLive (leaseRecall lease.toNat))

/-- LEASE_RELEASE: the memory returns to the lender (R87). -/
def leaseReleased (lease : Nat) (m : Sys) : Sys :=
  let m := useTaken (fun b => b.kind == kLeaseRelease && leAt b.body 8 4 == lease) m
  retryWaits (onFabric (fun x => { x with lent := tdel lease x.lent }) m)

/-- LEASE_RELEASE (R87). -/
def execLeaseRelease (lease : BitVec 16) (s : State) : Host.Outcome State Fault Refusal := done s (whileLive (leaseReleased lease.toNat))

/-- LEASE_IDLE_RELEASE (R161): a timer of 1 s. -/
def execLeaseIdleRelease (lease : BitVec 16) (s : State) : Host.Outcome State Fault Refusal :=
  done s (asEvent 10 fun m => forEach ((borrowedAs m lease.toNat).map (·.1)) releaseLease m)

/-- DETAIL of LEASE_LOST and RECALL_LATE (R443). -/
def leaseDetail (l : Lease) (lease : Nat) : List Byte := leBytes 2 l.peerAddr.toNat ++ leBytes 2 lease ++ leBytes 2 l.gib

/-- DETAIL of a lease under the identifier that its grant named. -/
def detailOf (l : Lease) : List Byte := leaseDetail l l.number

/-- A recall has overrun 50 ms (R87). -/
def recallOverrun (lease : Nat) (m : Sys) : Sys :=
  match ((tfind lease m.fabric.lent).filter (·.recalled)).orElse fun _ => ((borrowedAs m lease).map (·.2)).find? (·.recalled) with
  | some l =>
    ledgerRec 0x12 false (leaseDetail l lease) (notice 0x12 1 (leaseDetail l lease)
      (addTotal 50 1 (onFabric (fun x => { x with recallLate := satInc x.recallLate }) m)))
  | none => m

/-- RECALL_LATE (R87): a timer. -/
def execRecallLate (lease : BitVec 16) (s : State) : Host.Outcome State Fault Refusal := done s (asEvent 10 (recallOverrun lease.toNat))

/-! ### Loss of either side (R88, R89) -/

/-- A lease is lost: notice and record (R88, R443, R452). -/
def leaseLost (l : Lease) (m : Sys) : Sys := ledgerRec 0x12 false (detailOf l) (notice 0x11 2 (detailOf l) m)

/-- Every tensor whose home was the lease is lost, with the uncorrectable data error event for each (R88). A motion into the lease of a
tensor with its home elsewhere ends as any motion whose destination is gone: the source stays the home, and the request completes FLUSHED
(R153; DESIGN CHOICE, log entry 31: units written at the destination since they were copied keep the contents of the source store). -/
def loseInLease (lease : Nat) (m : Sys) : Sys :=
  forEach m.range.tensors (fun e m =>
    let inLease (p : Place) : Bool := match p with
      | .tn l _ => l.toNat == lease
      | _ => false
    if inLease e.2.place then
      let m := setTensor e.1 { e.2 with place := .none, motion := none } m
      let m := match e.2.motion with
        | some mo => endAsk mo.asker (failedAt stUncorrectable (tensorAddr e.1 0)) m
        | none => m
      loseTensor e.1 1 (takeEvent 4 m)
    else match e.2.motion with
      | some mo =>
        if inLease mo.dest then endAsk mo.asker (ending stFlushed) (setTensor e.1 { e.2 with motion := none } m) else m
      | none => m) m

/-- The lender is lost: its leases and what they hold are gone (R88). -/
def lenderLost (id : Word) (m : Sys) : Sys :=
  forEach (m.fabric.borrowed.filter fun e => e.2.peer == id) (fun e m =>
    loseInLease e.1 (leaseLost e.2 (onFabric (fun x => { x with borrowed := tdel e.1 x.borrowed }) m))) m

/-- The borrower is lost: its leases end and their memory returns to the pool (R88). -/
def borrowerLost (id : Word) (m : Sys) : Sys :=
  let l := m.fabric.lent.filter fun e => e.2.peer == id
  if l.isEmpty then m
  else retryWaits (forEach l (fun e => leaseLost e.2) (onFabric (fun x => { x with lent := x.lent.filter fun e => e.2.peer != id }) m))

/-- LENDER_UNREACHABLE (R88): a timer of 1 s. -/
def execLenderUnreachable (identity : Word) (s : State) : Host.Outcome State Fault Refusal := done s (asEvent 10 (lenderLost identity))

/-- BORROWER_UNREACHABLE (R88): a timer of 1 s. -/
def execBorrowerUnreachable (identity : Word) (s : State) : Host.Outcome State Fault Refusal :=
  done s (asEvent 10 (borrowerLost identity))

/-- A POWER_FAIL from a neighbour: every port to it leaves routing, and leases with it are lost (R88, R89). -/
def neighbourFails (p : Nat) (m : Sys) : Sys :=
  let id := (portOf m p).peerId
  let m := useTaken (fun b => b.kind == kPowerFail && b.src == (portOf m p).peerAddr) m
  let m := noteSet (portStatusAddr p) 9 (onPort p (fun x => { x with pfNotice := true }) m)
  let m := forEach ((List.range 8).filter fun q => (portOf m q).routed && (portOf m q).peerId == id) leaveRouting m
  borrowerLost id (lenderLost id m)

/-- POWER_FAIL_NOTICE (R89). -/
def execPowerFailNotice (port : BitVec 3) (s : State) : Host.Outcome State Fault Refusal := done s (whileLive (neighbourFails port.toNat))

/-! ### Notices at the rook (R443, R446) -/

/-- A notice block reaches the rook: out of the host port, or held, the oldest of 1,024 making room (R446). -/
def eventIn (b : Block) (m : Sys) : Sys :=
  let m := consumed b m
  if !m.fabric.rook then m
  else if (activeHost m).isSome then toHost b m
  else
    let l := m.health.forward ++ [b]
    let excess := l.length - 1024
    onHealth (fun h => { h with forward := l.drop excess, lost := satAdd h.lost excess }) m

/-- EVENT (R446). -/
def execEvent (b : Block) (s : State) : Host.Outcome State Fault Refusal := done s (whileLive (eventIn b))

/-- MEMBER_UNREACHABLE (R443): at the rook only. -/
def execMemberUnreachable (addr : Addr) (powerFail : Bool) (s : State) : Host.Outcome State Fault Refusal :=
  done s (asEvent 10 fun m => onlyIf m.fabric.rook (notice 0x13 2 (leBytes 2 addr.toNat ++ leBytes 1 (flagAt powerFail 0))) m)

/-! ### Commands that end without a record (R123, R124) -/

/-- Commands end without a record: they leave the lists of what waits and what is fetched; a job among them stops at its next step
boundary, as a seal and a commit do (R113, R123, R421). -/
def endSilently (mine : Cmd → Bool) (m : Sys) : Sys :=
  let m := onTask (fun t => { t with
    running := t.running.filter fun c => !mine c, relayed := t.relayed.filter fun c => !mine c,
    fetches := t.fetches.filter fun f => !mine f.cmd, ended := t.ended.filter fun c => !mine c }) m
  let m := onRange (fun r => { r with waits := r.waits.filter fun w => match w.asker with
    | .cmd c => !mine c
    | _ => true }) m
  let m := onFlash (fun x => { x with seals := x.seals.map fun s => match s.asker with
    | .cmd c => if mine c then { s with stop := s.stop.orElse fun _ => some stFlushed } else s
    | _ => s }) m
  let m := onSearch (fun x => { x with
    seen := x.seen.filter fun e => !mine e.1, snaps := x.snaps.filter fun e => !mine e.1,
    leaders := x.leaders.filter fun e => !mine e.1, shards := x.shards.filter fun s => !mine s.cmd }) m
  let m := onPower (fun p => { p with waitExit := p.waitExit.filter fun c => !mine c }) m
  let m := onHealth (fun h => if h.selftest.any mine then { h with selftest := none, mode := 0 } else h) m
  let m := onBoot (fun b => { b with
    commitStop := b.commitStop || b.commit.any fun e => e.1.any mine
    cfgWrites := b.cfgWrites.take 1 ++ (b.cfgWrites.drop 1).filter fun c => !mine c }) m
  let m := onBoot (fun b => if b.fetch.any fun e => e.1.any mine then { b with fetch := none, staging := 0, stage4k := [] } else b) m
  let m := onJobs (fun x => { x with queue := x.queue.filter fun w => !mine w.cmd }) m
  match m.jobs.job with
  | some j => if mine j.cmd then stopJob .fabricReset m else onJob (fun j => { j with
      waiting := j.waiting.filter fun x => !mine x.cmd,
      ctxs := tmap (fun x => if mine x.cmd then { x with ending := x.ending.orElse fun _ => some stFlushed } else x)
        (j.ctxs.filter fun e => !(e.2.search && mine e.2.cmd)) }) m
  | none => m

/-- Every register of an endpoint is FREE and its epoch advances by 1 (R123). -/
def freeEndpoint (x : Endpoint) : Endpoint :=
  { x with held := [], epoch := x.epoch + 1, resetBusy := false, awaited := [] }

/-- The modules that hold relayed commands of an endpoint. -/
def relayedTo (x : Endpoint) : List Addr :=
  (x.held.filterMap fun h => match h.2.phase with
    | .relayed d => some d
    | .relayStarted d => some d
    | _ => none).eraseDups

/-- Register address of TRF.RELAY_RESET of an endpoint. -/
def relayResetAddr (e : Nat) : Word := BitVec.ofNat 64 (0x108040 + 0x10000 * e)

/-- The relay reset of R113 to one module, with the endpoint's new epoch. -/
def sendRelayReset (e : Nat) (a : Addr) (m : Sys) : Sys :=
  let v := word [place (epOf m e).epoch.toNat 16 4, (ownAddr m).toNat]
  sendBlock { newBlock (ownAddr m) a kRegWrite with target := relayResetAddr e, tag := resetTag e, body := leBytes 8 v.toNat } m

/-- Completion records of this rook's endpoints that have not left a host port do not leave any more (R124). -/
def dropRecords (m : Sys) : Sys :=
  let record (b : Block) : Bool := b.kind == kCompletion && b.host && b.dst == ownAddr m
  onFabric (fun x => { x with
    hostWait := x.hostWait.filter fun b => !record b
    ports := tmap (fun p => { p with egress := p.egress.filter fun b => !record b }) x.ports }) m

/-- The old rook hands over: its held commands end without a record, and the modules that hold its relays are told (R124). -/
def handOver (next : Option Addr) (m : Sys) : Sys :=
  let own := ownAddr m
  let m := dropRecords m
  let told := (List.range 16).flatMap fun e => (relayedTo (epOf m e)).map fun a => (e, a)
  let m := endSilently (fun c => c.rook == own) m
  let m := forEach (List.range 16) (fun e => onEp e freeEndpoint) m
  let m := forEach told (fun t => sendRelayReset t.1 t.2) m
  reportAll (onFabric (fun x => { x with rook := false, rookAddr := next }) m)

/-- The remaining candidate with the lowest identity (R78). -/
def nextRook (m : Sys) : Option Addr :=
  let l := (m.fabric.links.filter fun e => e.2.group == m.fabric.group && e.2.hostPort && e.2.addr.isSome && e.1 != identity.toNat &&
      e.2.addr != m.fabric.rookAddr).map fun e => (e.1, e.2.addr)
  let own := if (activeHost m).isSome && m.fabric.assigned then [(identity.toNat, some (ownAddr m))] else []
  (minBy (fun (a b : Nat × Option Addr) => decide (a.1 < b.1)) (l ++ own)).bind (·.2)

/-- The rook has been without its host port for 1 s: at every module of the group (R78, R124). The new rook's registers are FREE and its
epochs 0. -/
def rookHandover (m : Sys) : Sys :=
  match nextRook m with
  | none => m
  | some a =>
    if m.fabric.rook then (if (activeHost m).isSome then m else handOver (some a) m)
    else if a = ownAddr m then
      becomeRook (onTask (fun t => { t with eps := tmap (fun x => { x with held := [], epoch := 0, resetBusy := false, awaited := [] }) t.eps }) m)
    else onFabric (fun x => { x with rookAddr := some a }) m

/-- ROOK_HANDOVER (R124): a timer of 1 s. -/
def execRookHandover (s : State) : Host.Outcome State Fault Refusal := done s (asEvent 10 rookHandover)

/-! ### The fabric reset (R91, R123) -/

/-- A port after a fabric reset: its link state is gone and it trains from DOWN; its counts stay. -/
def portAfterReset (x : Port) : Port :=
  { portReset with
    train := if x.train = .disabled then .disabled else .down, retrains := x.retrains, pfNotice := x.pfNotice, fecCorr := x.fecCorr,
    fecRest := x.fecRest, fecFail := x.fecFail, replays := x.replays, equalised := x.equalised, laneErr := x.laneErr, laneBad := x.laneBad }

/-- The fabric after a reset: streams, member map, addresses, routes and blocks in transit are cleared; leases stay (R87, R91). -/
def fabricAfterReset (x : Fabric) : Fabric :=
  { fabricReset with
    ports := tmap portAfterReset x.ports, groupSet := x.groupSet, group := if x.groupSet then x.group else 0, portDisable := x.portDisable,
    routeAuto := x.routeAuto, overrideLost := x.overrideLost, borrowMax := x.borrowMax, lendMax := x.lendMax, borrowed := x.borrowed,
    lent := x.lent, leaseNo := x.leaseNo, recallLate := x.recallLate, broken := x.broken, bcrcErr := x.bcrcErr, badBlock := x.badBlock }

/-- The fabric reset (R91, R123, R446): every held and relayed command ends without a record, running jobs stop at their next step
boundary, and discovery starts again. -/
def resetFabric (m : Sys) : Sys :=
  let rook := m.fabric.rook
  let m := endSilently (fun _ => true) m
  let m := onTask (fun t => { t with
    resends := [], ended := [], eps := t.eps.map fun e => (e.1, { (if rook then freeEndpoint e.2 else e.2) with
      valid := false, credit := 0, readsHeld := [] }) }) m
  let m := if rook then forEach ((List.range 16).filter fun e => (tfind e m.task.eps).isNone)
      (fun e => onEp e fun x => { freeEndpoint x with credit := 0 }) m
    else m
  let m := onHealth (fun h => { h with forward := [] }) (onFabric fabricAfterReset m)
  let m := forEach ((List.range 8).filter fun p => (portOf m p).train != .disabled) (countTraining · true) m
  let d := leBytes 8 (now m)
  eventRec 3 0 d (notice 0x15 1 d m)

/-- FABRIC_RESET (R91). -/
def execFabricReset (s : State) : Host.Outcome State Fault Refusal := done s (asEvent 2 resetFabric)

/-- FAB_CNT_CLR (R9). -/
def clearFab (m : Sys) : Sys :=
  onFabric (fun x => { x with
    ports := tmap (fun p => { p with retrains := 0, fecCorr := 0, fecRest := 0, fecFail := 0, replays := 0 }) x.ports, overrideLost := 0,
    recallLate := 0, broken := 0, bcrcErr := 0, badBlock := 0 }) m

/-- FAB_CNT_CLR (R9). -/
def execFabCntClr (s : State) : Host.Outcome State Fault Refusal := done s (whileLive clearFab)

end Sys2Proof.Machine
end

