-- ==== Sys2Proof/Machine/SearchWrite.lean ====
section
/-!
DEFINITION. INDEX_INSERT, INDEX_DELETE and INDEX_MERGE: segments, the rebuilt base, and their registration (R329 to R336).
-/
namespace Sys2Proof.Machine

/-! ### Segments written by the module (R329 to R332) -/

/-- A tensor that the module writes itself: sealed, and BUILDING until its last page is programmed (R329). -/
def ownTensor (ns : BitVec 16) (size : Nat) (chunks : List Nat) (q : Nat) (m : Sys) : Tensor :=
  { isSealed := true, state := .building, size, appended := 0, place := .flash, store := freshStore true, copy1 := none, copy0 := none,
    pins := 0, ns, touched := now m, damaged := [], motion := none, chunks, created := BitVec.ofNat 64 q, lostCores := [] }

/-- Take chunks for a tensor of the module's own, and begin its seal (R329, R349). -/
def writeOwn (a : Asker) (n : Nat) (source : TNum) (ns : BitVec 16) (content : List Byte) (m : Sys) : Sys :=
  let t := takeChunks (chunksFor content.length) (heldChunks m ++ m.flash.freeing) m.flash.chunkPtr []
  let (q, m) := nextSeq m
  let m := setTensor n (ownTensor ns content.length [] q m) m
  onFlash (fun x => { x with
    chunkPtr := t.2,
    seals := x.seals ++ [{
      asker := a, target := BitVec.ofNat 24 n, source, done := 0, total := content.length, chunks := t.1,
      started := false, committed := false, stop := none, ns, first := 0, placed := [], content := some content }] }) m

/-- A number that a module-written tensor may take: a FREE user number (R329, R333). -/
def freeNumberGood (m : Sys) (n : Nat) : Bool := userNumber n && isFree m n

/-- Side records, insert rows and tombstones, of the segments that index `id` has and of those being written for it; of every index where
none is named (R332). -/
def sideTotal (m : Sys) (id : Option Nat) : Nat :=
  let of (i : Nat) : Bool := match id with
    | some k => k == i
    | none => true
  ((m.search.registry.filter fun e => of e.1).foldl (fun n e => n + sideRows e.2) 0) +
    ((m.search.writing.filter fun w => of (par w.cmd 32 2)).foldl (fun n w => n + w.rows) 0)

/-- A segment would pass a limit of R332, those that are being written counted. -/
def overLimits (m : Sys) (id rows : Nat) : Bool :=
  let held := ((tfind id m.search.registry).map (·.segments.length)).getD 0 + (m.search.writing.filter fun w => par w.cmd 32 2 == id).length
  decide (64 ≤ held) || decide (16777216 < sideTotal m (some id) + rows) || decide (67108864 < sideTotal m none + rows)

/-- A command that writes index tensors is under way. -/
def indexWriteUnderWay (c : Cmd) (m : Sys) : Bool :=
  askUnderWay (.cmd c) m || (m.search.writing.any fun w => sameCmd w.cmd c)

/-- Namespace of the root (R329). -/
def rootNs (m : Sys) (i : Index) : BitVec 16 := ((tensorOf m i.root.toNat).map (·.ns)).getD 0

/-- Begin a segment: limits and chunks, then the write (R329, R332, R376, R377). -/
def beginSegment (c : Cmd) (i : Index) (seg batch : Nat) (tomb : Bool) (objects : List Nat) (content : List Byte) (m : Sys) : Sys :=
  if readOnly m then endWith c stReadOnly (dropSearchCtx c m)
  else if overLimits m (par c 32 2) objects.length || decide (freeChunks m < chunksFor content.length) then endWith c stFull (dropSearchCtx c m)
  else
    writeOwn (.cmd c) seg (BitVec.ofNat 24 batch) (rootNs m i) content (onSearch (fun x => { x with
      writing := x.writing ++ [{
        cmd := c, segment := BitVec.ofNat 24 seg, rows := objects.length, batch := BitVec.ofNat 24 batch, tomb, objects }] }) m)

/-- The LIVE movable tensor of exactly `size` bytes that a command names (R329, R330). -/
def namedBatch (m : Sys) (c : Cmd) (size : Nat) : Option Nat :=
  (namedTensor c.tensor).filter fun n => match tensorOf m n with
    | some t => !t.isSealed && t.state == .live && t.size == size
    | none => false

/-! ### INDEX_INSERT (R329) -/

/-- A vector narrowed to the FULL layout (R329). -/
def narrowFull (x : Root) (v : List F32) : List Byte :=
  if x.fmt = 0 then v.flatMap f32Bytes
  else
    let limit : Nat := if x.fmt = 1 then 127 else 7
    let q := v.map val32
    let big := q.foldl (fun a b => if flt a (fabs b) then fabs b else a) (fracOf 0)
    let s := if fzero big then 0 else (ceilSc16 (fdiv big (fracOf limit))).1
    let codes := q.map fun e => if fzero big then 0 else rneInt (fdiv e (scValue s))
    packRow (if x.fmt = 1 then 8 else 4) codes ++ leBytes 2 s ++ zeros 6

/-- One insert record from a row of the batch (R331). -/
def insertRecord (x : Root) (proj row : List Byte) (r : Run) : List Byte × Run :=
  let v := f32List (bytesAt row 8 (4 * x.dim))
  let s := sketchWith x proj (v.map val32) r
  (bytesAt row 0 8 ++ s.1 ++ narrowFull x v ++ bytesAt row (8 + 4 * x.dim) (x.attr + x.payload), s.2)

/-- Bytes of a row of the batch. -/
def batchRow (x : Root) : Nat := 8 + 4 * x.dim + x.attr + x.payload

/-- The rows of a batch carry distinct, allowed object numbers and finite values (R329). -/
def batchGood (x : Root) (rows : List (List Byte)) : Bool :=
  let objects := rows.map recObject
  objects.eraseDups.length == objects.length && !objects.contains noObject.toNat &&
    rows.all fun l => (f32List (bytesAt l 8 (4 * x.dim))).all isFin

/-- The batch is read and the segment formed (R329). -/
def formInsert (c : Cmd) (i : Index) (m : Sys) : Sys :=
  let rows := par c 40 4
  let r := rootOf i (runOf 0 m)
  match r.1 with
  | none => complete c (runEnding { r.2 with bad := r.2.bad || !r.2.failed }) (dropSearchCtx c r.2.sys)
  | some x =>
    match namedBatch m c (rows * batchRow x) with
    | none => endWith c stBadCommand (dropSearchCtx c r.2.sys)
    | some n =>
      let b := addrRead (n * 2 ^ 40) (rows * batchRow x) r.2
      let p := projection x b.2
      let l := pieces (batchRow x) b.1
      if p.2.failed then complete c (runEnding p.2) (dropSearchCtx c p.2.sys)
      else if !batchGood x l then endWith c stBadCommand (dropSearchCtx c p.2.sys)
      else
        let recs := l.foldl (fun (acc : List Byte × Run) row =>
          let v := insertRecord x p.1 row acc.2
          (acc.1 ++ v.1, v.2)) ([], p.2)
        beginSegment c i (par c 36 4) n false (l.map recObject) (segmentHead false (par c 32 2) rows ++ recs.1) recs.2.sys

/-- The root of a snapshot as a command's checks at dispatch need it; `sized` tests what depends on it. A root that cannot be read ends the
command only where no BAD_COMMAND or BUSY does (R14). -/
def dispatchWrite (c : Cmd) (i : Index) (sized : Root → Bool) (busy : Bool) (m : Sys) : Sys :=
  let r := rootOf i (runOf 0 m)
  if (match r.1 with
    | some x => !sized x
    | none => !r.2.failed) then endWith c stBadCommand r.2.sys
  else if busy || (searchJob m).isNone then endWith c stBusy r.2.sys
  else if r.1.isNone then complete c (runEnding r.2) r.2.sys
  else if readOnly m then endWith c stReadOnly r.2.sys
  else waitCtx c i [] r.2.sys

/-- INDEX_INSERT: its dispatch, and once its walker task is placed its segment (R317, R329). -/
def indexInsert (c : Cmd) (m : Sys) : Sys :=
  if indexWriteUnderWay c m then m
  else match snapOf m c with
    | some (i, _) => onlyIf (walks m c) (formInsert c i) m
    | none => match indexOf m c with
      | none => endWith c stBadCommand m
      | some i =>
        if serviceOff m 1 || !within 1 16777216 (par c 40 4) || !freeNumberGood m (par c 36 4) ||
            (namedTensor c.tensor).isNone then endWith c stBadCommand m
        else if tensorBusy c (tnumOf c.tensor) m then m
        else dispatchWrite c i (fun x => (namedBatch m c (par c 40 4 * batchRow x)).isSome) (heldBack (.cmd c) (par c 36 4) m) m

/-- INDEX_INSERT (R329). -/
def execIndexInsert (c : Cmd) (s : State) : Host.Outcome State Fault Refusal := done s (asCommand c (indexInsert c))

/-! ### INDEX_DELETE (R330) -/

/-- INDEX_DELETE: the numbers are sorted, de-duplicated and written as a tombstone segment (R330). -/
def indexDelete (c : Cmd) (m : Sys) : Sys :=
  let rows := par c 40 4
  if indexWriteUnderWay c m then m
  else match indexOf m c, namedBatch m c (8 * rows) with
    | some i, some n =>
      if !within 1 16777216 rows || !freeNumberGood m (par c 36 4) || serviceOff m 1 then endWith c stBadCommand m
      else if heldBack (.cmd c) (par c 36 4) m then endWith c stBusy m
      else if tensorBusy c n m then m
      else if readOnly m then endWith c stReadOnly m
      else
        let b := addrRead (n * 2 ^ 40) (8 * rows) (runOf 0 m)
        if b.2.failed then complete c (runEnding b.2) b.2.sys
        else
          let l := (sortBy (fun x y => decide (x < y)) ((pieces 8 b.1).map leNat)).eraseDups
          beginSegment c i (par c 36 4) n true l (segmentHead true (par c 32 2) l.length ++ l.flatMap (leBytes 8)) b.2.sys
    | _, _ => if tensorBusy c (tnumOf c.tensor) m then m else endWith c stBadCommand m

/-- INDEX_DELETE (R330). -/
def execIndexDelete (c : Cmd) (s : State) : Host.Outcome State Fault Refusal := done s (asCommand c (indexDelete c))

/-! ### INDEX_MERGE (R333 to R335) -/

/-- A node of the new base (R333). -/
structure Node where
  object : Nat
  sketch : List Byte
  full : List Byte
  attr : List Byte
  payload : List Byte
  /-- its node number in the old base -/
  old : Option Nat
deriving DecidableEq, Repr

/-- Sketches of the nodes of a cluster base, from its lists. -/
def listSketches (x : Root) (r : Run) : Tab (List Byte) × Run :=
  (List.range x.count).foldl (fun (acc : Tab (List Byte) × Run) p =>
    let v := compAt x 6 p acc.2
    (tset (leAt v.1 (x.bits / 8) 8) (v.1.take (x.bits / 8)) acc.1, v.2)) ([], r)

/-- A kept node of the old base. -/
def keptNode (x : Root) (lists : Tab (List Byte)) (n object : Nat) (r : Run) : Node × Run :=
  let s := if x.cluster then (tget (zeros (x.bits / 8)) n lists, r) else compAt x 0 n r
  let f := compAt x 1 n s.2
  let a := if x.attr = 0 then ([], f.2) else compAt x 8 n f.2
  let p := if x.payload = 0 then ([], a.2) else compAt x 9 n a.2
  ({ object, sketch := s.1, full := f.1, attr := a.1, payload := p.1, old := some n }, p.2)

/-- A node of a live side entry. -/
def sideNode (x : Root) (l : List Byte) : Node :=
  { object := recObject l, sketch := recSketch x l, full := recFull x l, attr := recAttr x l, payload := recPayload x l, old := none }

/-- The nodes of the new base in their order (R333). -/
def newNodes (i : Index) (x : Root) (r : Run) : List Node × Run :=
  let b := liveBase i x r
  let ls := if x.cluster then listSketches x b.2 else ([], b.2)
  let kept := b.1.foldl (fun (acc : List Node × Run) e =>
    let v := keptNode x ls.1 e.1 e.2 acc.2
    (acc.1 ++ [v.1], v.2)) ([], ls.2)
  let side := sideRecords x i.segments kept.2
  (kept.1 ++ (side.1.filter fun e => liveAt i e.1 (recObject e.2)).map fun e => sideNode x e.2, side.2)

/-- prune(n, cands) (R335): the best by distance, then lower number. -/
def prune (sk : Nat → List Byte) (degree n : Nat) (cands : List Nat) : List Nat :=
  ((sortBy (fun (a b : Nat × Nat) => decide (a.1 < b.1) || (a.1 == b.1 && decide (a.2 < b.2)))
    (((cands.filter (· != n)).eraseDups).map fun c => (hamming (sk n) (sk c), c))).take degree).map (·.2)

/-- Neighbours of an old node in list order, without empty places. -/
def oldNear (x : Root) (n : Nat) (r : Run) : List Nat × Run :=
  let v := compAt x 3 n r
  (((List.range x.degree).map fun i => leAt v.1 (4 * i) 4).filter (· != 0xFFFFFFFF), v.2)

/-- New number of a kept old node. -/
def renumber (nodes : List Node) (n : Nat) : Option Nat := indexOf? (fun x => x.old == some n) nodes

/-- Candidates of a kept node: its kept neighbours, then those of each removed one, in new numbers (R335). -/
def keptCands (x : Root) (nodes : List Node) (n : Nat) (r : Run) : List Nat × Run :=
  let v := oldNear x n r
  (v.1.filter fun e => (renumber nodes e).isNone).foldl (fun (acc : List Nat × Run) e =>
    let w := oldNear x e acc.2
    (acc.1 ++ w.1.filterMap (renumber nodes), w.2)) (v.1.filterMap (renumber nodes), v.2)

/-- Lists of the kept nodes (R335). -/
def keptLists (x : Root) (nodes : List Node) (sk : Nat → List Byte) (r : Run) : Tab (List Nat) × Run :=
  (List.range nodes.length).foldl (fun (acc : Tab (List Nat) × Run) k =>
    match (nodes[k]?).bind (·.old) with
    | some n =>
      let v := keptCands x nodes n acc.2
      (tset k (prune sk x.degree k v.1) acc.1, v.2)
    | none => acc) ([], r)

/-- Entry points of the new base (R335). -/
def newPoints (x : Root) (nodes : List Node) (r : Run) : List Nat × Run :=
  let old := x.points.take x.entries
  let kept := old.filterMap (renumber nodes)
  let v := old.foldl (fun (acc : List Nat × Run) e =>
    match renumber nodes e with
    | some k => (acc.1 ++ [k], acc.2)
    | none =>
      let w := oldNear x e acc.2
      let c := (w.1.filterMap (renumber nodes)).find? fun k => !kept.contains k && !acc.1.contains k
      (acc.1 ++ c.toList, w.2)) ([], r)
  (if v.1.isEmpty && !nodes.isEmpty then [0] else v.1, v.2)

/-- Place a new node: its list, and its place in its neighbours' lists (R335). -/
def placeNode (x : Root) (sk : Nat → List Byte) (points : List Nat) (buildL : Nat) (y : Nat) (t : Tab (List Nat)) (r : Run) :
    Tab (List Nat) :=
  let g : Graph := { dist := fun n r => (hamming (sk y) (sk n), r), near := fun n r => (tget [] n t, r) }
  let w := walkFrom g (points.filter fun p => decide (p < y)) buildL 1 65536 r
  let mine := prune sk x.degree y (w.1.queue.map fun e => e.2.1)
  mine.foldl (fun t z => tset z (prune sk x.degree z (tget [] z t ++ [y])) t) (tset y mine t)

/-- The rebuilt neighbour lists and entry points (R335). -/
def newGraph (x : Root) (nodes : List Node) (buildL : Nat) (r : Run) : List (List Nat) × List Nat × Run :=
  let sk (n : Nat) : List Byte := ((nodes[n]?).map (·.sketch)).getD []
  let k := keptLists x nodes sk r
  let p := newPoints x nodes k.2
  let t := ((List.range nodes.length).filter fun n => ((nodes[n]?).map (·.old.isNone)).getD false).foldl
    (fun t y => placeNode x sk p.1 buildL y t p.2) k.1
  ((List.range nodes.length).map fun n => tget [] n t, p.1, p.2)

/-- The cluster whose centroid scores best against a node's vector (R334). -/
def bestCluster (x : Root) (v : List Frac) (r : Run) : Nat × Run :=
  let s := centroidScores x v r
  ((clusterOrder x s.1).headD 0, s.2)

/-- Clusters of the nodes; of a vector that is not finite, a free choice (R334; log entry 2). -/
def clustersOf (x : Root) (nodes : List Node) (r : Run) : List Nat × Run :=
  nodes.foldl (fun (acc : List Nat × Run) n =>
    let f := fullVector x n.full acc.2
    let b := match f.1 with
      | some v => bestCluster x v f.2
      | none =>
        let d := draw f.2.sys
        (d.1.toNat % max 1 x.clusters, { f.2 with sys := d.2 })
    (acc.1 ++ [b.1], b.2)) ([], r)

/-- Members of each cluster in ascending node number, and the directory that they give (R311, R334). -/
def clusterLists (x : Root) (home : List Nat) : List Nat × List (Nat × Nat) :=
  let groups := (List.range x.clusters).map fun k => (List.range home.length).filter fun n => home.getD n 0 == k
  (groups.flatten, (groups.foldl (fun (acc : List (Nat × Nat) × Nat) g => (acc.1 ++ [(acc.2, g.length)], acc.2 + g.length)) ([], 0)).1)

/-- The new root without its component numbers, and the contents of its components in the order of R311; a malformed scale in a
vector is refused (R204). -/
def newBase (x : Root) (nodes : List Node) (buildL : Nat) (r : Run) : Root × List (Nat × List Byte) × Run :=
  let r := { r with bad := r.bad || !nodes.all fun n => fullGood x n.full }
  let common := [(1, nodes.flatMap (·.full)), (2, nodes.flatMap fun n => leBytes 8 n.object)]
  let tail := (if x.attr = 0 then [] else [(8, nodes.flatMap (·.attr))]) ++
    (if x.payload = 0 then [] else [(9, nodes.flatMap (·.payload))])
  let p := projection x r
  if x.cluster then
    let c := singleAt x 4 0 (compSingle x 4) p.2
    let h := clustersOf x nodes c.2
    let l := clusterLists x h.1
    ({ x with count := nodes.length },
     common ++ [(4, c.1), (5, l.2.flatMap fun e => leBytes 8 e.1 ++ leBytes 8 e.2),
       (6, l.1.flatMap fun n => ((nodes[n]?).map (·.sketch)).getD [] ++ leBytes 8 n), (7, p.1)] ++ tail, h.2)
  else
    let g := newGraph x nodes buildL p.2
    ({ x with
        count := nodes.length, entries := g.2.1.length,
        points := g.2.1 ++ List.replicate (64 - g.2.1.length) 0xFFFFFFFF },
     [(0, nodes.flatMap (·.sketch))] ++ common ++
       [(3, g.1.flatMap fun l => (l ++ List.replicate (x.degree - l.length) 0xFFFFFFFF).flatMap (leBytes 4)), (7, p.1)] ++ tail,
     g.2.2)

/-- The pieces of a component's contents (R311). -/
def compPieces (x : Root) (i : Nat) (l : List Byte) : List (List Byte) :=
  if compRow x i = 0 then [l] else pieces (2 ^ x.shift * compRow x i) l

/-- Component numbers from a first number on, and the pieces with their numbers (R333). -/
def numberPieces (x : Root) : List (Nat × List Byte) → Nat → List Nat → List (Nat × List Byte) → List Nat × List (Nat × List Byte)
  | [], _, comps, acc => (comps, acc)
  | (i, l) :: t, n, comps, acc =>
    let p := compPieces x i l
    numberPieces x t (n + p.length) (lset i n comps) (acc ++ (span n p.length).zip p)

/-- The base is rebuilt from the snapshot and its writing begins (R333 to R336). -/
def formMerge (c : Cmd) (id : Nat) (i : Index) (m : Sys) : Sys :=
  let root := par c 36 4
  let first := par c 40 4
  let fail (e : Ending) (m : Sys) : Sys := complete c e (dropSearchCtx c m)
  let r := rootOf i (runOf 0 m)
  match r.1 with
  | none => fail (runEnding { r.2 with bad := r.2.bad || !r.2.failed }) r.2.sys
  | some x =>
    let n := newNodes i x r.2
    let b := newBase x n.1 (par c 34 2) n.2
    let p := numberPieces b.1 b.2.1 first (List.replicate 10 0) []
    let all := p.2 ++ [(root, rootBytes { b.1 with comps := p.1 })]
    let m := b.2.2.sys
    if b.2.2.failed then fail (runEnding b.2.2) m
    else if !all.all (fun e => freeNumberGood m e.1) || all.any fun e => e.1 == root && e.2.length != 4096 then
      fail (ending stBadCommand) m
    else if all.any fun e => heldBack (.cmd c) e.1 m then fail (ending stBusy) m
    else if freeChunks m < all.foldl (fun k e => k + chunksFor e.2.length) 0 then fail (ending stFull) m
    else
      let g : Merge :=
        { cmd := c, upTo := i.segments.foldl (fun a s => max a s.ordinal) 0, newRoot := BitVec.ofNat 24 root,
          newFirst := BitVec.ofNat 24 first, pieces := p.2.length, count := n.1.length }
      let ns := rootNs m i
      let m := onSearch (fun s => { s with registry := match tfind id s.registry with
        | some v => tset id { v with merge := some g } s.registry
        | none => s.registry }) m
      forEach all (fun e => writeOwn (.cmd c) e.1 0 ns e.2) m

/-- Another merge of the index runs: it is dispatched and has not ended (R333). -/
def mergeRuns (m : Sys) (c : Cmd) : Bool :=
  m.search.seen.any fun e => !sameCmd c e.1 && e.1.opcode == 0x27 && par e.1 32 2 == par c 32 2

/-- BUILD_L in its range for the mode (R333). -/
def buildGood (c : Cmd) (x : Root) : Bool := if x.cluster then par c 34 2 == 0 else within 64 1024 (par c 34 2)

/-- INDEX_MERGE: its dispatch, and once its walker task is placed its base (R317, R333). -/
def indexMerge (c : Cmd) (m : Sys) : Sys :=
  if indexWriteUnderWay c m then m
  else match snapOf m c with
    | some (i, _) => onlyIf (walks m c) (formMerge c (par c 32 2) i) m
    | none => match indexOf m c with
      | none => endWith c stBadCommand m
      | some i =>
        if serviceOff m 1 || !freeNumberGood m (par c 36 4) then endWith c stBadCommand m
        else dispatchWrite c i (buildGood c) (mergeRuns m c) m

/-- INDEX_MERGE (R333). -/
def execIndexMerge (c : Cmd) (s : State) : Host.Outcome State Fault Refusal := done s (asCommand c (indexMerge c))

/-! ### How they end (R329, R330, R333, R336) -/

/-- A segment is durable: it is registered with the next ordinal, the batch is deleted and the command completes (R329, R330). -/
def registerSegment (w : SegWrite) (m : Sys) : Sys :=
  let id := par w.cmd 32 2
  let m := onIndex id (fun i => { i with
    segments := i.segments ++ [{ ordinal := i.nextOrd, tensor := w.segment, tomb := w.tomb, rows := w.rows }],
    objects := w.objects.foldl (fun t o => tset o i.nextOrd t) i.objects, nextOrd := i.nextOrd + 1 }) m
  let m := removeTensor w.batch (onSearch (fun x => { x with writing := x.writing.filter fun v => !sameCmd v.cmd w.cmd }) m)
  complete w.cmd { ending stDone with count := if w.tomb then w.rows else 0 } (dropSearchCtx w.cmd m)

/-- A merged base is durable: the registry names it and drops the folded segments; what it replaces is deleted once no search holds it
(R336). -/
def registerMerge (id : Nat) (g : Merge) (m : Sys) : Sys :=
  let m := onIndex id (fun i => { i with
    root := g.newRoot, parts := (span g.newFirst.toNat g.pieces).map (BitVec.ofNat 24),
    segments := i.segments.filter fun s => decide (g.upTo < s.ordinal), objects := i.objects.filter fun e => decide (g.upTo < e.2),
    merge := none,
    old := i.old ++ (i.root :: i.parts) ++ (i.segments.filter fun s => decide (s.ordinal ≤ g.upTo)).map (·.tensor) }) m
  releaseOld (complete g.cmd { ending stDone with count := g.count } (dropSearchCtx g.cmd m))

/-- The merge that a command runs. -/
def mergeOf (m : Sys) (c : Cmd) : Option (Nat × Merge) := m.search.registry.findSome? fun e => match e.2.merge with
  | some g => if sameCmd g.cmd c then some (e.1, g) else none
  | none => none

/-- A flush-bound index write is durable: whether `c` was one, and the module after it. -/
def indexDurable (c : Cmd) (m : Sys) : Option Sys :=
  match m.search.writing.find? fun w => sameCmd w.cmd c with
  | some w => some (registerSegment w m)
  | none => (mergeOf m c).map fun e => registerMerge e.1 e.2 m

/-- A segment write or merge ends without DONE: its output is deleted and nothing else changes (R329, R336). -/
def indexWriteFails (c : Cmd) (e : Ending) (m : Sys) : Sys :=
  let mine (s : Seal) : Bool := match s.asker with
    | .cmd d => sameCmd c d
    | _ => false
  let gone := (m.flash.seals.filter mine).flatMap (·.chunks)
  let m := releaseChunks gone (onFlash (fun x => { x with seals := x.seals.filter fun s => !mine s }) m)
  let numbers := ((m.search.writing.filter fun w => sameCmd w.cmd c).map (·.segment)) ++ (match mergeOf m c with
    | some (_, g) => g.newRoot :: (span g.newFirst.toNat g.pieces).map (BitVec.ofNat 24)
    | none => [])
  let m := removeAll numbers m
  let m := onSearch (fun x => { x with
    writing := x.writing.filter fun w => !sameCmd w.cmd c,
    registry := tmap (fun i => match i.merge with
      | some g => if sameCmd g.cmd c then { i with merge := none } else i
      | none => i) x.registry }) m
  complete c e (dropSearchCtx c m)

end Sys2Proof.Machine
end

