-- ==== Sys2Proof/Machine/FlashSeal.lean ====
section
/-!
DEFINITION. Seals: the steps of TENSOR_SEAL, SEAL_APPEND and index writes, their ends, and what the read-only state does to them
(R145 to R147, R352, R357, R358, R376, R377).
-/
namespace Sys2Proof.Machine

/-! ### A seal in progress -/

/-- The seal that writes a tensor: the first in the list, so pieces follow one another (R333). -/
def sealOf (m : Sys) (n : Nat) : Option Seal := m.flash.seals.find? fun s => s.target.toNat == n

/-- Store a seal. -/
def setSeal (s : Seal) : Sys → Sys := onFlash fun x => { x with seals := x.seals.map fun t => if t.target = s.target then s else t }

/-- A page belongs to a seal: it carries the CMD of the seal's command (R357). -/
def ofSeal (s : Seal) (p : Program) : Bool := s.started && p.tag.kind == 0 && p.tag.tensor == s.target && p.tag.cmd == s.first

/-- Programs of a seal's data that are in flight, or wait to be repeated. -/
def sealPrograms (m : Sys) (s : Seal) : List Program := (m.flash.programs ++ m.flash.retries).filter (ofSeal s)

/-- What a seal has yet to program again goes with it; pages in flight complete, and nothing names them. -/
def dropRetries (s : Seal) : Sys → Sys := onFlash fun x => { x with retries := x.retries.filter fun p => !ofSeal s p }

/-- Bytes of the tensor before the seal's first byte: the appended length of an append (R145). -/
def sealBase (m : Sys) (s : Seal) : Nat :=
  if s.content.isSome || s.target == s.source then 0 else ((tensorOf m s.target.toNat).map (·.appended)).getD 0

/-- Chunks that hold the tensor's units during the seal (R349). -/
def sealChunks (m : Sys) (s : Seal) : List Nat := ((tensorOf m s.target.toNat).map (·.chunks)).getD [] ++ s.chunks

/-- The asker is an earlier seal's of the list: pieces of one command are written one after the other (R333). -/
def sealTurn (m : Sys) (s : Seal) : Bool := (m.flash.seals.find? fun t => t.asker == s.asker).map (·.target) == some s.target

/-! ### Ends -/

/-- A seal ends without COMMIT: its pages and chunks are given up and nothing changes (R145, R146, R358). -/
def dropSeal (s : Seal) (e : Ending) (m : Sys) : Sys :=
  match s.asker, s.content with
  | .cmd c, some _ => retryWaits (indexWriteFails c e (forEach (m.flash.seals.filter fun t => t.asker == s.asker) dropRetries m))
  | a, _ =>
    let m := onFlash (fun x => { x with seals := x.seals.filter fun t => t.target != s.target }) (dropRetries s m)
    endAsk a e (releaseChunks s.chunks m)

/-- The copies that the storage of a sealed tensor becomes (R146). -/
def sealedCopies (t : Tensor) : Tensor :=
  match t.place with
  | .t1 s => { t with copy1 := some (s, t.store) }
  | .t0 c => if t.lostCores.isEmpty then { t with copy0 := some (c, t.store) } else t
  | _ => t

/-- Units of a command become current with its COMMIT; their MAP records were made as they programmed (R358, R362). -/
def mapPlaced (n : Nat) (chunks : List Nat) (l : List (Nat × MapEntry)) (m : Sys) : Sys :=
  forEach l (fun e => onFlash fun x => { x with
    map := tset e.1 e.2 x.map, dirty := tset (e.1 / 4096) x.seq x.dirty,
    owner := tset e.1 (n * 2 ^ 32 + ((indexOf? (· == e.1 / 64) chunks).getD 0) * 64 + e.1 % 64) x.owner }) m

/-- The COMMIT page of a seal is programmed (R145, R146, R168, R358, R455). -/
def commitSeal (s : Seal) (m : Sys) : Sys :=
  let n := s.target.toNat
  match tensorOf m n with
  | none => m
  | some t =>
    let chunks := t.chunks ++ s.chunks
    let m := mapPlaced n chunks s.placed m
    let m := addTotal 10 (chunksFor s.total) (onFlash (fun x => { x with seals := x.seals.filter fun u => u.target != s.target }) m)
    if s.content.isSome then
      let m := journal (.tensor s.target) (journal (.commit s.target s.total .live)
        (setTensor n { t with state := .live, appended := s.total, chunks, touched := now m } m))
      match s.asker with
      | .cmd c => if m.flash.seals.any (·.asker == s.asker) then m else bindFlush s.asker stDone [] (journal (.registry (par c 32 2)) m)
      | _ => m
    else
      let m := onRange (fun r => { r with seals := satInc r.seals }) m
      if s.target = s.source then
        let t := sealedCopies { t with chunks }
        let m := journal (.tensor s.target) (journal (.commit s.target t.size .live)
          (setTensor n { t with
            isSealed := true, ns := s.ns, place := .flash, store := freshStore true, lostCores := [], motion := none, appended := t.size,
            touched := now m } m))
        retryWaits (endAsk s.asker (ending stDone) m)
      else
        let len := t.appended + s.total
        let m := journal (.tensor s.target) (journal (.commit s.target len .building)
          (setTensor n { t with chunks, appended := len, place := .flash, touched := now m } m))
        let m := match tensorOf m s.source.toNat with
          | some x => dropTensor s.source.toNat x m
          | none => m
        retryWaits (endAsk s.asker (ending stDone) m)

/-- At a step boundary: the seal commits with its COMMIT page, or ends with the status that it was asked to stop with (R147, R358, R376). -/
def sealBoundary (s : Seal) (m : Sys) : Sys :=
  if !(sealPrograms m s).isEmpty then m
  else if s.committed then commitSeal s m
  else match s.stop with
    | some st => dropSeal s (ending st) m
    | none => m

/-- The read-only state: seals not started end with READ_ONLY at once, running ones unless their last step runs (R376). -/
def sealsReadOnly (m : Sys) : Sys :=
  if !readOnly m then m
  else forEach m.flash.seals (fun s m =>
    match sealOf m s.target.toNat with
    | none => m
    | some s =>
      if s.started && decide (s.total ≤ s.done) then m
      else
        let s := { s with stop := s.stop.orElse fun _ => some stReadOnly }
        sealBoundary s (setSeal s m)) m

/-! ### SEAL_STEP (R352) -/

/-- A die starts a program or erase only when no foreground read is queued at it (R368). -/
def dieFree (m : Sys) (d : Nat) : Bool := !(dieAt m d).out && (dieAt m d).queued == 0 && !(dieAt m d).suspended

/-- Largest step: 64 MiB (R147). -/
def stepUnits : Nat := 4096

/-- End of a step that begins at byte `at_` of the tensor, which ends at `last`. -/
def stepEndByte (at_ last : Nat) : Nat := min last ((at_ / unitSize + stepUnits) * unitSize)

/-- Every die of the step has room in SLC-mode blocks for its pages (R352). -/
def stepRoom (units : List Nat) (m : Sys) : Bool :=
  (units.foldl (fun (acc : Bool × Sys) u =>
    if acc.1 && dieFree acc.2 (dieOf u) then
      match takePage (dieOf u) true acc.2 with
      | some (_, _, m) => (true, m)
      | none => (false, acc.2)
    else (false, acc.2)) (true, m)).1

/-- Bytes that a step writes: from the source tensor, or from the module's own contents; with the part of a last unit that is
already there (R145, R360). -/
def stepBytes (s : Seal) (base len : Nat) (m : Sys) : List Byte × Option Ending × Sys :=
  let fill := (base + s.done) % unitSize
  let head := if fill = 0 ∨ s.done ≠ 0 then ([], m) else
    let r := readTensorPrefix s.target.toNat (base / unitSize) fill m
    (r, m)
  match s.content with
  | some l => (head.1 ++ (l.drop s.done).take len, none, head.2)
  | none =>
    let r := readTensor s.source.toNat s.done len head.2
    let e := readEnding s.source.toNat r.1
    (head.1 ++ r.1.bytes, if e.status = stDone then none else some e, r.2)
where
  /-- The first bytes of a unit that the target holds already. -/
  readTensorPrefix (n unit len : Nat) (m : Sys) : List Byte :=
    match tensorOf m n with
    | some t => bytesAt ((flashUnit m t unit).getD []) 0 len
    | none => zeros len

/-- The tag of a seal's page at unit offset `off` (R357). -/
def sealTag (m : Sys) (s : Seal) (t : Tensor) (u off : Nat) (commit : Bool) : PageTag :=
  { seq := 0, unit := u, kind := 0, commit, tensor := s.target, offset := off, cmd := ((sealOf m s.target.toNat).map (·.first)).getD 0,
    length := sealBase m s + s.total, ns := s.ns, live := s.content.isSome || s.target == s.source, created := t.created }

/-- The command's CMD is the SEQ of its first page (R357). -/
def noteFirst (n : TNum) (m : Sys) : Sys :=
  match sealOf m n.toNat, m.flash.programs.getLast? with
  | some s, some p => if s.first = 0 then setSeal { s with first := p.tag.cmd } m else m
  | _, _ => m

/-- One unit of a step: encrypted and handed to its die (R357, R360). -/
def writeUnit (s : Seal) (t : Tensor) (key : List Byte) (u off : Nat) (commit : Bool) (plain : List Byte) (m : Sys) : Sys :=
  noteFirst s.target (startProgram (dieOf u) true (sealTag m s t u off commit) (onFlash (fun x => { x with
    data := tset u (xtsEncrypt key (unitTweak t off) (fitBytes unitSize plain)) x.data }) m))

/-- A step starts: its bytes are read and every page's program begins (R147, R352). -/
def startStep (s : Seal) (t : Tensor) (key : List Byte) (m : Sys) : Sys :=
  let base := sealBase m s
  let at_ := base + s.done
  let stop := stepEndByte at_ (base + s.total)
  let first := at_ / unitSize
  let offs := span first ((stop + unitSize - 1) / unitSize - first)
  let chunks := sealChunks m s
  let unit (o : Nat) : Nat := 64 * chunks.getD (o / 64) 0 + o % 64
  if !stepRoom (offs.map unit) m then m
  else
    let b := stepBytes s base (stop - at_) m
    match b.2.1 with
    | some e => dropSeal s e b.2.2
    | none =>
      let s := { s with started := true, done := stop - base }
      ((offs.zip (pieces unitSize b.1)).foldl (fun m e =>
        writeUnit s t key (unit e.1) e.1 (decide (stop = base + s.total) && e.1 + 1 == first + offs.length) e.2 m) (setSeal s b.2.2))

/-- The bytes that a step reads lie in a stack that retrains (R397). -/
def sourceRetrains (s : Seal) (m : Sys) : Bool := s.content.isNone &&
  ((tensorOf m s.source.toNat).map fun t => stackWaits m t s.done (min (s.total - s.done) (stepUnits * unitSize))).getD false

/-- A seal or append step (R352): it waits for room, for the class-3 action's end and for its predecessor. -/
def sealStep (n : Nat) (m : Sys) : Sys :=
  match sealOf m n with
  | none => m
  | some s =>
    if !(sealPrograms m s).isEmpty || !sealTurn m s || s.done == s.total && s.started then m
    else if s.stop.isSome then sealBoundary s m
    else if readOnly m then sealsReadOnly m
    else if flashHold m then m
    else match tensorOf m n, tfind s.ns.toNat m.flash.spaces with
      | some t, some key => if sourceRetrains s m then m else startStep s t key m
      | _, _ => m

/-- SEAL_STEP (R352). -/
def execSealStep (tensor : TNum) (s : State) : Host.Outcome State Fault Refusal := done s (whileLive (sealStep tensor.toNat))

/-! ### FLASH_PROGRAM_DONE (R358, R373) -/

/-- Units of one tensor become uncorrectable together: one event for the tensor (R167, R347). -/
def damageUnits (n : Nat) (units : List Nat) (m : Sys) : Sys :=
  match tensorOf m n with
  | none => m
  | some t =>
    let fresh := units.filter fun u => !t.damaged.contains u
    match fresh with
    | [] => m
    | u :: rest =>
      if t.state = .lost then m
      else
        damage n u (tensorAddr n (u * unitSize)) (updTensor n (fun t => { t with
          damaged := rest.foldl (fun l v => insertBy (fun a b => decide (a < b)) v l) t.damaged }) m)

/-- A seal step that runs has a page on a die, in flight, waiting or programmed (R376, R379). -/
def stepOn (m : Sys) (d : Nat) (s : Seal) : Bool :=
  let l := sealPrograms m s
  !l.isEmpty && (l.any (·.die == d) || s.placed.any fun e => dieOf e.1 == d)

/-- A die leaves service: its units are uncorrectable, seal steps on it end, and the module is read-only with cause MEDIA (R347,
R379). -/
def dieLeaves (d : Nat) (m : Sys) : Sys :=
  if (dieAt m d).out then m
  else
    let m := onDie d (fun x => { x with out := true, busy := false, suspended := false, window := false, queued := 0, served := 0, eraseWaits := none }) m
    let mine := m.flash.map.filter fun e => dieOf e.1 == d
    let owners := mine.map fun e => tget 0 e.1 m.flash.owner
    let m := forEach (mine.filter fun e => !e.2.damaged) (fun e => journalMap e.1 (some { e.2 with damaged := true })) m
    let m := forEach ((owners.map (· / 2 ^ 32)).eraseDups) (fun n =>
      damageUnits n ((owners.filter fun o => o / 2 ^ 32 == n).map (· % 2 ^ 32))) m
    let m := forEach (m.flash.seals.filter (stepOn m d)) (fun s => dropSeal s (ending stUncorrectable)) m
    sealsReadOnly (setCause 4 true (onFlash (fun x => { x with
      programs := x.programs.filter fun p => p.die != d, retries := x.retries.filter fun p => p.die != d }) m))

/-- A status check of a die fails: 16 failures within a second take it out of service (R347). -/
def dieFails (d : Nat) (m : Sys) : Sys :=
  let m := onFlash (fun x => { x with
    dieFails := (x.dieFails.filter fun e => decide (now m < e.2 + secTurns)) ++ [(d, now m)] }) m
  if 16 ≤ (m.flash.dieFails.filter fun e => e.1 == d).length then dieLeaves d m else m

/-- The die is idle once none of its programs is in flight. -/
def settleDie (d : Nat) (m : Sys) : Sys :=
  if m.flash.programs.any (·.die == d) then m
  else onDie d (fun x => { x with busy := false, suspended := false, window := false, served := 0 }) m

/-- The map entry of a page that has programmed. -/
def pageEntry (p : Program) (damaged : Bool) (m : Sys) : MapEntry :=
  { slc := p.slc, damaged, block := p.block, page := p.page, seq := p.tag.seq, secs := poweredSecs m }

/-- A copied unit becomes current at its new place, unless it has been freed since (R354, R379); a damaged unit stays so. -/
def mapCopy (p : Program) (m : Sys) : Sys :=
  let copied := m.flash.copied + 1
  let m := addTotal 12 (if copied % 64 = 0 then 1 else 0) (onFlash (fun x => { x with copied }) m)
  match tfind p.tag.unit m.flash.map with
  | none => m
  | some e => if e.seq < p.tag.seq then journalMap p.tag.unit (some (pageEntry p e.damaged m)) m else m

/-- A page has programmed (R356, R358, R362). Seal data is recorded with its CMD and becomes current with its COMMIT. -/
def programGood (p : Program) (m : Sys) : Sys :=
  let m := fillBlock p.die p.block (markPage p true m)
  if p.tag.kind ≠ 0 then mapCopy p m
  else match m.flash.seals.find? fun s => ofSeal s p with
    | none => m
    | some s =>
      let e := pageEntry p false m
      let m := journal (.map p.tag.unit (some e) p.tag.cmd) m
      let s := { s with placed := (s.placed.filter fun x => x.1 != p.tag.unit) ++ [(p.tag.unit, e)], committed := s.committed || p.tag.commit }
      sealBoundary s (setSeal s m)

/-- A program fails: its page fails its check, the block is retired, and the page is programmed in another block (R373); in a hold-up
sequence no new program starts (R34). -/
def programBad (p : Program) (m : Sys) : Sys :=
  let m := onChan (p.die / 24) (fun c => { c with progFail := satInc c.progFail }) (markPage p false m)
  let m := onlyIf (live m) (startProgram p.die p.slc p.tag) (retireBlock p.die p.block m)
  sealsReadOnly (dieFails p.die m)

/-- A page program ends (R358, R373); what waited for the die's pages may then start. -/
def programDone (d b page : Nat) (ok : Bool) (m : Sys) : Sys :=
  match m.flash.programs.find? fun p => p.die == d && p.block == b && p.page == page with
  | none => m
  | some p =>
    let m := onFlash (fun x => { x with programs := x.programs.filter fun q => !(q.die == d && q.block == b && q.page == page) }) m
    let m := settleDie d (if ok then programGood p m else programBad p m)
    onlyIf (live m) startRetries m

/-- FLASH_PROGRAM_DONE (R358): programs in flight also complete in the hold-up sequence (R34). -/
def execFlashProgramDone (die : Fin 1536) (block : BitVec 14) (page : BitVec 11) (ok : Bool) (s : State) : Host.Outcome State Fault Refusal :=
  done s fun m => if live m || inHoldup m then programDone die.val block.toNat page.toNat ok m else m

end Sys2Proof.Machine
end

