-- ==== Sys2Proof/Machine/FlashRows.lean ====
section
/-!
DEFINITION. The rows of the flash media: journal flushes, map pages, erases, suspends, reads, background copies, and failures
(R347, R351, R354 to R356, R361 to R363, R367 to R374).
-/
namespace Sys2Proof.Machine

/-! ### Journal flushes (R359, R362) -/

/-- The mapping engine runs (R379 STATE). -/
def mapRuns (m : Sys) : Bool := m.flash.mapState == 2

/-- POINTER and RESERVE records of one die (R362). -/
def dieRecords (d : Nat) (m : Sys) : Sys :=
  let opened := m.flash.blocks.filter fun e => e.1 / 16384 == d && e.2.state == .opened
  journal (.reserve d (openOrder m d 8)) (forEach opened (fun e => journal (.pointer d (e.1 % 16384) (pointerOf m d (e.1 % 16384)))) m)

/-- A flush starts: it carries every record made before, and ends with POINTER and RESERVE records of every die (R362). -/
def startFlush (m : Sys) : Sys :=
  let m := forEach (List.range dieCount) dieRecords m
  onFlash (fun x => { x with flushing := some (x.journal, imageOf m), journal := [], flushAsked := false }) m

/-- A flush may start: none runs, and class 3's critical action does not hold its programs (R362, R379). -/
def mayFlush (m : Sys) : Bool := mapRuns m && m.flash.flushing.isNone && !flashHold m

/-- Start a flush, or ask for one once it may start (R362). -/
def askFlush (m : Sys) : Sys := if mayFlush m then startFlush m else onFlash (fun x => { x with flushAsked := true }) m

/-- JOURNAL_FLUSH (R362): every 4 ms, or when the previous flush ends if that is later. -/
def execJournalFlush (s : State) : Host.Outcome State Fault Refusal :=
  done s (asEvent 9 fun m => if mapRuns m then askFlush m else m)

/-- MAP_FLUSH (R362). -/
def execMapFlush (s : State) : Host.Outcome State Fault Refusal :=
  done s (whileLive fun m => if mapRuns m then askFlush m else m)

/-- A namespace whose deletion is flushed loses its key, and its command completes (R378, R432). -/
def dropKey (e : Nat × Nat × Cmd) (m : Sys) : Sys :=
  let q := nextSeq m
  endWith e.2.2 stDone (onFlash (fun x => { x with
    keyTable := tdel e.2.1 x.keyTable, keySeq := q.1, spaces := tdel e.2.1 x.spaces,
    keyDrops := x.keyDrops.filter fun k => k.2.1 != e.2.1 }) q.2)

/-- Index writes that the flush made durable, in dispatch order (R329, R333, R341); the durable registry holds them too. -/
def durableIndexes (due : List (Nat × Asker × Byte × List Byte)) (m : Sys) : Sys :=
  let isDue (c : Cmd) : Bool := due.any fun e => e.2.1 == .cmd c
  let cmds := ((m.search.writing.map (·.cmd)) ++ m.search.registry.filterMap fun e => e.2.merge.map (·.cmd)).filter isDue
  forEach cmds (fun c m =>
    let m := (indexDurable c m).getD m
    let id := par c 32 2
    onFlash (fun x => { x with image := { x.image with registry := match tfind id m.search.registry with
      | some v => tset id v x.image.registry
      | none => x.image.registry } }) m) m

/-- A complete flush: its records are durable, flush-bound commands complete, freed chunks are free (R349, R359, R362). -/
def finishFlush (tens : Nat) (m : Sys) : Sys :=
  match m.flash.flushing with
  | none => m
  | some (recs, image) =>
    let last := (recs.getLast?.map (·.1)).getD 0
    let freed := recs.flatMap fun e => match e.2 with
      | .free l => l
      | _ => []
    let due := m.flash.bound.filter fun e => decide (e.1 ≤ last)
    let writes := (m.search.writing.map (·.cmd)) ++ m.search.registry.filterMap fun e => e.2.merge.map (·.cmd)
    let plain := due.filter fun e => match e.2.1 with
      | .cmd c => !writes.any (sameCmd c)
      | _ => true
    let drops := m.flash.keyDrops.filter fun e => decide (e.1 ≤ last)
    let again := m.flash.flushAsked
    let m := onFlash (fun x => { x with
      image, flushing := none, flushAsked := false, flushes := satInc x.flushes, flushMax := satMax x.flushMax tens, journalSeq := BitVec.ofNat 64 last,
      freeing := x.freeing.filter (!freed.contains ·), bound := x.bound.filter fun e => decide (last < e.1) }) m
    let m := durableIndexes due (onRange (fun r => { r with deleting := r.deleting.filter fun e => decide (last < e.1) }) m)
    let m := forEach plain (fun e => endAsk e.2.1 { ending e.2.2.1 with result := e.2.2.2 }) m
    let m := emptyBlocks (forEach drops dropKey m)
    if again && live m then askFlush m else m

/-- JOURNAL_FLUSH_DONE (R362). In the hold-up sequence the final flush's own row ends it (R379). -/
def execJournalFlushDone (tens : BitVec 16) (s : State) : Host.Outcome State Fault Refusal := done s (whileLive (finishFlush tens.toNat))

/-- Write back a map page: its copy holds every flushed record, and it stays dirty while records to it are not flushed (R361). -/
def writeBack (page : Nat) (m : Sys) : Sys :=
  if flashHold m || (tfind page m.flash.dirty).isNone then m
  else onFlash (fun x => { x with
    pageSeq := tset page x.journalSeq.toNat x.pageSeq, dirty := x.dirty.filter fun e => !(e.1 == page && decide (e.2 ≤ x.journalSeq.toNat)) }) m

/-- The journal's tail: the lowest SEQ up to which a map page is current (R361). -/
def journalTail (m : Sys) : Nat := m.flash.dirty.foldl (fun n e => min n (tget 0 e.1 m.flash.pageSeq)) m.flash.journalSeq.toNat

/-- MAP_PAGE_WRITEBACK (R361): a timer of 30 s. -/
def execMapPageWriteback (page : Nat) (s : State) : Host.Outcome State Fault Refusal := done s (asEvent 10 (writeBack page))

/-! ### Suspend and resume (R367, R368) -/

/-- What runs on a die is suspended for the foreground reads queued there, outside the window (R367, R368). -/
def suspendDie (d : Nat) (m : Sys) : Sys :=
  let x := dieAt m d
  if !x.busy || x.window || x.suspended then m
  else onFlash (fun x => { x with suspends := satInc x.suspends }) (onDie d (fun x => { x with suspended := true, served := 0 }) m)

/-- A foreground read reaches a die: it queues, and suspends what runs there or waits for the window's end (R367, R368). -/
def dieSuspend (d : Nat) (m : Sys) : Sys :=
  if (dieAt m d).out || !(dieAt m d).busy then m else suspendDie d (onDie d (fun x => { x with queued := x.queued + 1 }) m)

/-- DIE_SUSPEND (R368). -/
def execDieSuspend (die : Fin 1536) (s : State) : Host.Outcome State Fault Refusal := done s (whileLive (dieSuspend die.val))

/-- The die resumes and its window opens; reads still queued wait for the next window's end. Under class 3's critical action what is
suspended stays so (R367, R368, R379). -/
def dieResume (d : Nat) (m : Sys) : Sys :=
  if (dieAt m d).suspended && !flashHold m then onDie d (fun x => { x with suspended := false, window := true, served := 0 }) m else m

/-- DIE_RESUME (R368): 150 µs of reads have passed. -/
def execDieResume (die : Fin 1536) (s : State) : Host.Outcome State Fault Refusal := done s (whileLive (dieResume die.val))

/-- A foreground read at a die ends: a suspended die resumes after 8 reads, or with none left (R368, R369). -/
def readServed (d : Nat) (m : Sys) : Sys :=
  let m := onDie d (fun x => { x with queued := x.queued - 1, served := if x.suspended then x.served + 1 else 0 }) m
  let x := dieAt m d
  if x.suspended && (x.queued == 0 || decide (8 ≤ x.served)) then dieResume d m else m

/-- The window ends: a read that waited suspends the die again (R367). -/
def windowEnd (d : Nat) (m : Sys) : Sys :=
  if !(dieAt m d).window then m
  else
    let m := onDie d (fun x => { x with window := false }) m
    if 0 < (dieAt m d).queued then suspendDie d m else m

/-- SUSPEND_WINDOW_END (R367): a timer. -/
def execSuspendWindowEnd (die : Fin 1536) (s : State) : Host.Outcome State Fault Refusal := done s (asEvent 10 (windowEnd die.val))

/-- Class 3's critical action has ended: what was suspended resumes, and held programs and a flush asked for start (R41). -/
def resumeFlash (m : Sys) : Sys :=
  let m := startRetries (forEach (m.flash.dies.map (·.1)) dieResume m)
  if m.flash.flushAsked && mayFlush m then startFlush m else m

/-! ### Erases (R346, R355, R356, R363, R368, R373) -/

/-- Dies of a channel that erase now (R346). -/
def erasingDies (m : Sys) (c : Nat) : Nat :=
  ((List.range 24).filter fun i => m.flash.blocks.any fun e => e.1 / 16384 == 24 * c + i && e.2.state == .erasing).length

/-- The erase begins. -/
def beginErase (d b : Nat) (m : Sys) : Sys :=
  onDie d (fun x => { x with busy := true, eraseWaits := none }) (onBlock d b (fun x => { x with state := .erasing }) m)

/-- Media management runs: the mapping engine runs, and the flash is not idle in P2 (R30). -/
def managed (m : Sys) : Bool := mapRuns m && m.power.current != 2

/-- An erase may begin on a die. Reads run whole within their steps, so none that was dispatched before is in progress (R363). -/
def eraseMay (m : Sys) (d b : Nat) : Bool :=
  managed m && !flashHold m && !(dieAt m d).out && !(dieAt m d).busy && (blockOf m d b).state == .erasePending &&
    decide (erasingDies m (d / 24) < 2)

/-- An ERASE_PENDING block is erased, once no foreground read waits at its die (R363, R368). -/
def blockErase (d b : Nat) (m : Sys) : Sys :=
  if !eraseMay m d b then m
  else if 0 < (dieAt m d).queued then onDie d (fun x => { x with eraseWaits := some b }) m
  else beginErase d b m

/-- BLOCK_ERASE (R363). -/
def execBlockErase (die : Fin 1536) (block : BitVec 14) (s : State) : Host.Outcome State Fault Refusal :=
  done s (whileLive (blockErase die.val block.toNat))

/-- ERASE_FORCED_START (R368): an erase that has waited 50 ms starts whatever reads are queued. -/
def execEraseForcedStart (die : Fin 1536) (s : State) : Host.Outcome State Fault Refusal :=
  done s (asEvent 10 fun m => match (dieAt m die.val).eraseWaits with
    | some b => if eraseMay m die.val b then beginErase die.val b m else m
    | none => m)

/-- An erase has ended (R355, R363, R373). -/
def eraseDone (d b : Nat) (ok : Bool) (m : Sys) : Sys :=
  let x := blockOf m d b
  if x.state ≠ .erasing then m
  else
    let m := eraseTags d b (onDie d (fun x => { x with busy := false, suspended := false, window := false, served := 0 }) m)
    if ok then
      let wear := x.wear + (if x.slc then 1 else 20)
      let m := addTotal 11 1 (onFlash (fun x => { x with erases := satInc x.erases }) m)
      let m := onBlock d b (fun x => { x with
        state := .free, slc := false, wptr := 0, wear, reads := 0, refresh := false, retireDue := decide (30000 ≤ wear) }) m
      if x.retireDue then sealsReadOnly (retireBlock d b m) else journal (.block d b .free wear) m
    else
      sealsReadOnly (dieFails d (retireBlock d b (onChan (d / 24) (fun c => { c with eraseFail := satInc c.eraseFail }) m)))

/-- FLASH_ERASE_DONE (R363). -/
def execFlashEraseDone (die : Fin 1536) (block : BitVec 14) (ok : Bool) (s : State) : Host.Outcome State Fault Refusal :=
  done s (whileLive fun m => startRetries (eraseDone die.val block.toNat ok m))

/-! ### Reads (R370, R371, R373, R374) -/

/-- Unit reads at depths from `a` on, of the lifetime histogram (R455). -/
def readsFrom (m : Sys) (a : Nat) : Nat := (span (13 + a) (10 - a)).foldl (fun n i => n + total i m) 0

/-- Schedule a block for refresh (R370, R371). -/
def askRefresh (d b : Nat) : Sys → Sys := onBlock d b fun x => { x with refresh := true }

/-- The unit of a tensor behind a logical unit becomes uncorrectable (R167, R370). -/
def damageUnit (u : Nat) (e : MapEntry) (m : Sys) : Sys :=
  let m := journalMap u (some { e with damaged := true }) m
  match tfind u m.flash.owner with
  | some o => damage (o / 2 ^ 32) (o % 2 ^ 32) (tensorAddr (o / 2 ^ 32) (o % 2 ^ 32 * unitSize)) m
  | none => m

/-- A unit has been read and decoded at a depth; 9 stands for a read that failed depth 8 (R370, R371, R373, R374, R379). -/
def unitRead (u depth : Nat) (m : Sys) : Sys :=
  match tfind u m.flash.map with
  | none => m
  | some e =>
    let d := dieOf u
    let m := addTotal (13 + depth) 1 (onChan (d / 24) (fun c => { c with
      reads := satInc c.reads, retry := if 1 ≤ depth then satInc c.retry else c.retry,
      soft := if 8 ≤ depth then satInc c.soft else c.soft, uncorr := if depth = 9 then satInc c.uncorr else c.uncorr }) m)
    let m := onBlock d e.block (fun x => { x with reads := x.reads + 1 }) m
    let m := onlyIf (decide (readsFrom m 0 < 100 * readsFrom m 3)) (wearSign 1) m
    let m := onlyIf (decide (5 ≤ depth) || decide (1000000 < (blockOf m d e.block).reads)) (askRefresh d e.block) m
    let m := onlyIf (decide (8 ≤ depth) && decide (poweredSecs m < e.secs + 3600000)) (fun m => sealsReadOnly (retireBlock d e.block m)) m
    onlyIf (decide (depth = 9)) (damageUnit u e) m

/-- A foreground read is done: its wait at the die is noted (R379). -/
def foregroundRead (u depth wait : Nat) (m : Sys) : Sys :=
  if (tfind u m.flash.map).isNone then m
  else
    readServed (dieOf u) (unitRead u depth (onFlash (fun x => { x with
      waitMax := satMax x.waitMax wait, longWaits := if 200 < wait then satInc x.longWaits else x.longWaits }) m))

/-- FLASH_READ_DONE (R370). -/
def execFlashReadDone (unit : Nat) (depth : Fin 10) (waitUs : BitVec 16) (s : State) : Host.Outcome State Fault Refusal :=
  done s (whileLive (foregroundRead unit depth.val waitUs.toNat))

/-- A patrol read; the lap ends with the highest mapped unit (R371; log entry 25). -/
def patrolRead (u depth : Nat) (m : Sys) : Sys :=
  if (tfind u m.flash.map).isNone then m
  else
    let m := unitRead u depth m
    if m.flash.map.any fun e => decide (u < e.1) then onFlash (fun x => { x with patrolAt := u }) m
    else
      onFlash (fun x => { x with
        patrolAt := 0, lapTime := satOf 32 ((now m - x.lapStart) / (3600 * secTurns)), lapStart := now m }) m

/-- PATROL (R371). -/
def execPatrol (unit : Nat) (depth : Fin 10) (s : State) : Host.Outcome State Fault Refusal :=
  done s (whileLive fun m => if managed m then patrolRead unit depth.val m else m)

/-! ### Background copies (R354, R356, R370, R373) -/

/-- Valid units of a die whose copies neither run nor wait. -/
def stillUnits (m : Sys) (d : Nat) : List (Nat × MapEntry) :=
  m.flash.map.filter fun e => dieOf e.1 == d && !(m.flash.programs ++ m.flash.retries).any fun p => p.tag.unit == e.1 && p.tag.kind != 0

/-- A FULL block becomes SOURCE (R356). -/
def makeSource (d b : Nat) (m : Sys) : Sys :=
  if (blockOf m d b).state = .full then
    journal (.block d b .source (blockOf m d b).wear) (onBlock d b (fun x => { x with state := .source }) m)
  else m

/-- The tag of a copy: TENSOR, OFFSET, NAMESPACE and CREATED of its source (R357). -/
def copyTag (kind : Byte) (u : Nat) (e : MapEntry) (m : Sys) : PageTag :=
  let src := readTag (tget [] (pageKey (dieOf u) e.block e.page) m.flash.tags)
  let o := tget 0 u m.flash.owner
  { seq := 0, unit := u, kind, commit := false, tensor := BitVec.ofNat 24 (o / 2 ^ 32), offset := o % 2 ^ 32, cmd := 0, length := 0,
    ns := (src.map (·.ns)).getD 0, live := false, created := (src.map (·.created)).getD 0 }

/-- Begin the copies of units on their die. -/
def copyUnits (kind : Byte) (slc : MapEntry → Bool) (l : List (Nat × MapEntry)) (m : Sys) : Sys :=
  forEach l (fun e m => startProgram (dieOf e.1) (slc e.2) (copyTag kind e.1 e.2 m) (makeSource (dieOf e.1) e.2.block m)) m

/-- Background programs may start on a die (R346, R368, R379): at most 8 dies of a channel run a QLC program. -/
def copiesMay (m : Sys) (d : Nat) : Bool :=
  managed m && !flashHold m && dieFree m d && !(dieAt m d).busy &&
    decide ((((m.flash.programs.filter fun p => !p.slc && p.die / 24 == d / 24).map (·.die)).eraseDups).length < 8)

/-- Folding: the oldest SLC-mode units of a die, one word line of 16 pages, go to QLC mode (R354). -/
def folding (d : Nat) (m : Sys) : Sys :=
  if !copiesMay m d then m
  else copyUnits 2 (fun _ => false) ((sortBy (fun (a b : Nat × MapEntry) => decide (a.2.seq < b.2.seq))
    ((stillUnits m d).filter fun e => e.2.slc)).take 16) m

/-- FOLDING (R354). -/
def execFolding (die : Fin 1536) (s : State) : Host.Outcome State Fault Refusal := done s (whileLive (folding die.val))

/-- The FULL QLC-mode block with the fewest valid units, the least worn among equals, then the lowest (R356). -/
def gcVictim (m : Sys) (d : Nat) : Option Nat :=
  (minBy (fun (a b : Nat × Nat × Nat) => decide (a.1 < b.1) || (a.1 == b.1 && (decide (a.2.1 < b.2.1) || (a.2.1 == b.2.1 && decide (a.2.2 < b.2.2)))))
    ((m.flash.blocks.filter fun e => e.1 / 16384 == d && e.2.state == .full && !e.2.slc).map fun e =>
      ((validUnits m d (e.1 % 16384)).length, e.2.wear, e.1 % 16384))).map (·.2.2)

/-- Units that a move out of a QLC-mode block has left behind, as a loss of power leaves them (R356, R364). -/
def leftUnits (m : Sys) (d : Nat) : List (Nat × MapEntry) :=
  (stillUnits m d).filter fun e => !e.2.slc && (blockOf m d e.2.block).state == .source

/-- Garbage collection keeps at least 8 free blocks on each die (R356; log entry 25); what an earlier move left behind goes first. -/
def collectDie (d : Nat) (m : Sys) : Sys :=
  if !copiesMay m d then m
  else if !(leftUnits m d).isEmpty then copyUnits 1 (fun _ => false) (leftUnits m d) m
  else if 8 < freeBlocks m d then m
  else match gcVictim m d with
    | none => m
    | some b => copyUnits 1 (fun _ => false) ((stillUnits m d).filter fun e => unitIn e d b) (makeSource d b m)

/-- GARBAGE_COLLECTION (R356). -/
def execGarbageCollection (die : Fin 1536) (s : State) : Host.Outcome State Fault Refusal := done s (whileLive (collectDie die.val))

/-- Refresh: every valid unit of a scheduled block moves into new blocks of its mode (R370, R373, R374); a block that is being programmed
is first filled (R356). -/
def refreshBlock (d b : Nat) (m : Sys) : Sys :=
  if !copiesMay m d || !(blockOf m d b).refresh || (blockOf m d b).state == .opened then m
  else
    let m := onBlock d b (fun x => { x with refresh := false }) (onFlash (fun x => { x with refreshed := satInc x.refreshed }) m)
    copyUnits 3 (·.slc) ((stillUnits m d).filter fun e => unitIn e d b) (makeSource d b (wearSign 2 m))

/-- REFRESH (R370). -/
def execRefresh (die : Fin 1536) (block : BitVec 14) (s : State) : Host.Outcome State Fault Refusal :=
  done s (whileLive (refreshBlock die.val block.toNat))

/-! ### Failures (R347, R351, R376, R379) -/

/-- DIE_OUT (R347): the uncorrectable data error event is raised once for each tensor affected. -/
def execDieOut (die : Fin 1536) (s : State) : Host.Outcome State Fault Refusal := done s (whileLive (dieLeaves die.val))

/-- A channel leaves service with its 24 dies (R347). -/
def channelLeaves (c : Nat) (m : Sys) : Sys :=
  forEach (span (24 * c) 24) dieLeaves (onChan c (fun x => { x with state := 3 }) m)

/-- CHANNEL_CLOCK_LOSS (R347). -/
def execChannelClockLoss (chan : BitVec 6) (s : State) : Host.Outcome State Fault Refusal := done s (whileLive (channelLeaves chan.toNat))

/-- The two copies of the mapping engine disagree: the operation is repeated; LOCKSTEP at the second mismatch on one operation or
the third in 1 s. `op` counts operations since the start. In the state that LOCKSTEP
sets, a mismatch is a lookup whose two results differ: of logical unit `unit` (R351; log entry 25). -/
def lockstep (op unit : Nat) (m : Sys) : Sys :=
  let turns := (m.flash.lockTurns.filter fun t => decide (now m < t + secTurns)) ++ [now m]
  let again := m.flash.lockOp == some op
  let m := noteSet mapStatusAddr 16 (onFlash (fun x => { x with lockErr := true, lockTurns := turns, lockOp := some op }) m)
  let m := notice 0x14 2 (leBytes 1 turns.length) (ledgerRec 0x10 false (leBytes 8 op) (addTotal 51 1 m))
  let m := if m.flash.roCause.getLsbD 3 then onFlash (fun x => { x with badLookup := some unit }) m else m
  if again || decide (3 ≤ turns.length) then sealsReadOnly (setCause 3 true m) else m

/-- LOCKSTEP_MISMATCH (R351). -/
def execLockstepMismatch (op : MapOp) (s : State) : Host.Outcome State Fault Refusal := done s (whileLive (lockstep op.count op.unit))

/-! ### Namespace and media commands (R378, R432) -/

/-- The namespace key-encryption key (R428). -/
def kekOf : List Byte := hkdf384 Config.pufSecret (ascii "jxv6 ns kek") 32

/-- NS_CREATE: the key is drawn, wrapped into the key table, and the command completes with its flush (R378, R431, R432). -/
def nsCreate (c : Cmd) (m : Sys) : Sys :=
  let ns := par c 32 2
  if askUnderWay (.cmd c) m then m
  else if !within 1 1023 ns || (tfind ns m.flash.spaces).isSome then endWith c stBadCommand m
  else if readOnly m then endWith c stReadOnly m
  else
    let key := fitBytes 64 (Config.drawKey m.health.draws)
    let q := nextSeq (onHealth (fun h => { h with draws := h.draws + 1 }) m)
    bindFlush (.cmd c) stDone [] (journal (.ns ns true) (onFlash (fun x => { x with
      spaces := tset ns key x.spaces, keyTable := tset ns (keyWrap kekOf key) x.keyTable, keySeq := q.1 }) q.2))

/-- NS_CREATE (R378). -/
def execNsCreate (c : Cmd) (s : State) : Host.Outcome State Fault Refusal := done s (asCommand c (nsCreate c))

/-- Sealed tensors of a namespace. -/
def nsTensors (m : Sys) (ns : Nat) : List (Nat × Tensor) := m.range.tensors.filter fun e => e.2.isSealed && e.2.ns.toNat == ns

/-- NS_DELETE: with PURGE it deletes the tensors; the key goes after the flush of the deletion (R376, R378, R432). -/
def nsDelete (c : Cmd) (m : Sys) : Sys :=
  let ns := par c 32 2
  let l := nsTensors m ns
  let purge := (par c 34 1).testBit 0
  if m.flash.keyDrops.any fun e => sameCmd e.2.2 c then m
  else if !nsExists m ns then endWith c stBadCommand m
  else if !purge && !l.isEmpty || m.flash.seals.any fun s => s.ns.toNat == ns then endWith c stBusy m
  else if l.any fun e => e.2.pins != 0 || namedByJob m e.1 || inIndex m e.1 || heldForMerge m e.1 then endWith c stBusy m
  else if startupOrHoldup m then endWith c stReadOnly m
  else
    let m := journal (.ns ns false) (forEach l (fun e => dropTensor e.1 e.2) m)
    retryWaits (onFlash (fun x => { x with keyDrops := x.keyDrops ++ [(x.seq, ns, c)] }) m)

/-- NS_DELETE (R378). -/
def execNsDelete (c : Cmd) (s : State) : Host.Outcome State Fault Refusal := done s (asCommand c (nsDelete c))

/-- NS_QUERY (R378). -/
def nsQuery (c : Cmd) (m : Sys) : Sys :=
  let ns := par c 32 2
  if !nsExists m ns then endWith c stBadCommand m
  else
    let l := nsTensors m ns
    complete c (doneWith (resultOf [(40, leBytes 4 l.length), (44, leBytes 8 (l.foldl (fun n e => n + e.2.chunks.length) 0))])) m

/-- NS_QUERY (R378). -/
def execNsQuery (c : Cmd) (s : State) : Host.Outcome State Fault Refusal := done s (asCommand c (nsQuery c))

/-- MEDIA_QUERY (R378). Blocks retired: those of the part's life (R379 RETIRED). -/
def mediaQuery (c : Cmd) (m : Sys) : Sys :=
  complete c (doneWith (resultOf
    [(40, leBytes 4 (freeChunks m)), (44, leBytes 4 (slcTarget m / 10 ^ 9)), (48, leBytes 1 (spareLeft m)), (49, leBytes 1 (wearUsed m)),
     (50, [m.flash.roCause]), (51, leBytes 1 (mapStateCode m)), (52, leBytes 4 (total 52 m))])) m

/-- MEDIA_QUERY (R378). -/
def execMediaQuery (c : Cmd) (s : State) : Host.Outcome State Fault Refusal := done s (asCommand c (mediaQuery c))

/-- MEDIA_FLUSH: completes after a flush that starts after its dispatch (R378). -/
def mediaFlush (c : Cmd) (m : Sys) : Sys :=
  if askUnderWay (.cmd c) m then m
  else onFlash (fun x => { x with bound := x.bound ++ [(x.seq + 1, .cmd c, stDone, [])] }) m

/-- MEDIA_FLUSH (R378). -/
def execMediaFlush (c : Cmd) (s : State) : Host.Outcome State Fault Refusal := done s (asCommand c (mediaFlush c))

end Sys2Proof.Machine
end

