-- ==== Sys2Proof/Machine/FwImage.lean ====
section
/-!
DEFINITION. Firmware images: their header and the checks of R418, the staging area (R420), the image that modules serve to one another
and fetch (R425, R426), and the start from staging (R426).
-/
namespace Sys2Proof.Machine

/-! ### The header (R416) -/

def fwKey (l : List Byte) : Nat := leAt l 6 1
def fwFlags (l : List Byte) : Nat := leAt l 7 1
def fwRelease (l : List Byte) : Nat := leAt l 8 4
def fwSvn (l : List Byte) : Nat := leAt l 12 1
def fwHwMin (l : List Byte) : Nat := leAt l 13 1
def fwNumRev (l : List Byte) : Nat := leAt l 14 2
def fwBodyLen (l : List Byte) : Nat := leAt l 16 4
/-- Bytes of a whole image: header and body. -/
def fwSize (l : List Byte) : Nat := 4096 + fwBodyLen l

/-- The hardware revision (R400). -/
def hwRev : Nat := (Config.calRow 0x20).toNat

/-- Check 0x01 (R418): the constants, BODY_LEN's range, zero where the header is reserved, and no flag that revokes its own key. -/
def fwHeaderGood (l : List Byte) : Bool :=
  leAt l 0 4 == 0x4957464A && leAt l 4 2 == 1 && bytesAt l 80 16 == ascii "JXV6-307T       " && fwBodyLen l % 4096 == 0 &&
    decide (fwBodyLen l ≤ 268431360) && decide (fwFlags l < 4) && decide (fwSvn l < 64) && allZero (bytesAt l 20 12) &&
    allZero (bytesAt l 96 3872) && allZero (bytesAt l 4064 32) && !(fwFlags l).testBit (fwKey l)

/-- Check 0x02: the key exists and is not revoked. -/
def keyGood (revoked : BitVec 2) (l : List Byte) : Bool := decide (fwKey l < 2) && !revoked.getLsbD (fwKey l)

/-- Check 0x03: the signature over header bytes 0 to 3,967. -/
def signatureGood (l : List Byte) : Bool :=
  ecdsaVerify (Config.signKey (fwKey l)) (sha384 (bytesAt l 0 3968)) (beNat (bytesAt l 3968 48)) (beNat (bytesAt l 4016 48))

/-- The first check of 0x01 to 0x07 that fails, if any (R418): `least` is the NUM_REV asked for. -/
def fwCheck (least : Nat) (m : Sys) (l : List Byte) : Option Nat :=
  if !fwHeaderGood l then some 1
  else if !keyGood m.boot.keyRevoked l then some 2
  else if !signatureGood l then some 3
  else if sha384 (bytesAt l 4096 (fwBodyLen l)) ≠ bytesAt l 32 48 then some 4
  else if fwSvn l < m.boot.svnFloor.toNat then some 5
  else if hwRev < fwHwMin l then some 6
  else if fwNumRev l < least then some 7
  else none

/-! ### The staging area (R420) -/

/-- The area's first `n` bytes; a piece not loaded reads as zeros. -/
def stagedPart (m : Sys) (n : Nat) : List Byte :=
  ((List.range ((n + 4095) / 4096)).flatMap fun i => fitBytes 4096 (tget [] i m.boot.stage4k)).take n

/-- The image in the staging area. -/
def stagedImage (m : Sys) : List Byte := stagedPart m (fwSize (stagedPart m 4096))

/-- Every byte up to the image's end has been loaded: check 0x08. -/
def stagedWhole (m : Sys) : Bool :=
  (List.range (fwSize (stagedPart m 4096) / 4096)).all fun i => (tfind i m.boot.stage4k).isSome

/-- The checks of FW_VERIFY on the staging area (R418, R420). -/
def verifyStaged (m : Sys) : Option Nat :=
  (fwCheck m.boot.numRev.toNat m (stagedImage m)).orElse fun _ => if stagedWhole m then none else some 8

/-- Empty the staging area. -/
def emptyStaging : Sys → Sys := onBoot fun b => { b with staging := 0, stage4k := [] }

/-- Load one 4,096-byte piece. -/
def stagePiece (off : Nat) (data : List Byte) : Sys → Sys := onBoot fun b =>
  { b with stage4k := tset (off / 4096) (fitBytes 4096 data) b.stage4k }

/-! ### Running an image (R419, R426) -/

/-- Take an image as the running firmware. -/
def runImage (l : List Byte) (source fromT1 : Bool) : Sys → Sys := onBoot fun b =>
  { b with
    running := l, release := BitVec.ofNat 32 (fwRelease l), svn := BitVec.ofNat 6 (fwSvn l), numRev := BitVec.ofNat 16 (fwNumRev l),
    source, fromT1 }

/-- The FIRMWARE stage begins: its branches run, and the transmitters are on (R408). -/
def enterFirmware (m : Sys) : Sys :=
  onPower (fun p => { p with txOn := true }) (onFlash (fun x => { x with mapState := 1 })
    (onBoot (fun b => { b with stage := 4, flashDone := false, computeDone := false }) m))

/-- The recovery loader starts the VERIFIED staging image without a reset; the start goes on from FIRMWARE (R426). -/
def startStaged (m : Sys) : Sys :=
  enterFirmware (onBoot (fun b => { b with imageValid := false, staging := 2, fetch := none, peers := [] }) (runImage (stagedImage m) false true m))

/-! ### Fetching a peer's image (R425, R426) -/

/-- Tensor number of a module's boot store image (R130). -/
def imageTensor : Nat := 0xFFFF01
/-- The transaction tag of an image fetch (log entry 14). -/
def imageTag : BitVec 32 := 0x30000

/-- Ask the peer for the next 4,096 bytes. -/
def askImage (peer : Addr) (off : Nat) (m : Sys) : Sys :=
  sendBlock { newBlock (ownAddr m) peer kTensorRead with target := tensorAddr imageTensor off, tag := imageTag, body := leBytes 4 4096 } m

/-- Begin to fetch the image of a peer into the empty staging area. -/
def beginImage (c : Option Cmd) (peer : Addr) (m : Sys) : Sys :=
  askImage peer 0 (onBoot (fun b => { b with staging := 1, stage4k := [], fetch := some (c, peer, []) }) m)

/-- Modules of the group at one hop, then at two, lowest identity first: their addresses (R425, R426). -/
def nearPeers (m : Sys) : List Addr :=
  let dist := distances m identity.toNat
  let at_ (k : Nat) := (dist.filter fun e => e.2 == k).filterMap fun e => match tfind e.1 m.fabric.links with
    | some l => if l.group = m.fabric.group then l.addr else none
    | none => none
  at_ 1 ++ at_ 2

/-- The loader goes on to its next peer (R426). -/
def nextPeer (m : Sys) : Sys :=
  match m.boot.peers with
  | [] => m
  | p :: rest => beginImage none p (onBoot (fun b => { b with peers := rest }) m)

/-- A fetch has failed: the command ends, or the loader tries the next peer; staging is EMPTY again (R425, R426). -/
def imageFails (c : Option Cmd) (e : Ending) (m : Sys) : Sys :=
  let m := emptyStaging (onBoot (fun b => { b with fetch := none }) m)
  match c with
  | some c => complete c e m
  | none => nextPeer m

/-- The reason for BAD_COMMAND in RESULT byte 40 (R418). -/
def reasonEnding (code : Nat) : Ending := { ending stBadCommand with result := resultOf [(40, leBytes 1 code)] }

/-- The whole image has come: it is verified; FW_FETCH ends DONE in VERIFIED, the loader starts it (R425, R426). -/
@[irreducible] def imageWhole (c : Option Cmd) (m : Sys) : Sys :=
  match verifyStaged m with
  | some code => imageFails c (reasonEnding code) m
  | none =>
    let m := onBoot (fun b => { b with fetch := none, staging := 2 }) m
    match c with
    | some c => endWith c stDone m
    | none => startStaged m

/-- A piece of the peer's image arrives (R425). A header that fails check 0x01 ends the fetch. -/
def imagePiece (b : Block) (m : Sys) : Sys :=
  match m.boot.fetch with
  | none => m
  | some (c, peer, got) =>
    if b.src ≠ peer ∨ offsetOf b.target ≠ got.length then m
    else
      let l := got ++ fitBytes 4096 b.body
      let m := stagePiece got.length b.body (onBoot (fun x => { x with fetch := some (c, peer, l) }) m)
      if !fwHeaderGood l then imageFails c (reasonEnding 1) m
      else if fwSize l ≤ l.length then imageWhole c m
      else askImage peer l.length m

/-- The peer of a fetch has been unreachable for 1 s (R425). -/
def imagePeerLost (a : Addr) (m : Sys) : Sys :=
  match m.boot.fetch with
  | some (c, peer, _) => if peer = a then imageFails c (ending stUncorrectable) m else m
  | none => m

/-- The loader seeks an image from its peers, from the first again (R426). -/
def seekImage (m : Sys) : Sys :=
  if m.boot.stage = stageLoader ∧ m.boot.recoverPeer = true ∧ m.boot.fetch.isNone = true ∧ m.boot.staging = 0 then
    nextPeer (onBoot (fun b => { b with peers := nearPeers m }) m)
  else m

/-- DISCOVERY_DONE (R79): the recovery loader then seeks an image (R426). -/
def execDiscoveryDone (s : State) : Host.Outcome State Fault Refusal := done s (asEvent 10 fun m => seekImage (discoveryDone m))

/-- LOADER_RETRY (R426): a timer of 10 s. -/
def execLoaderRetry (s : State) : Host.Outcome State Fault Refusal := done s (asEvent 10 seekImage)

/-- Bytes of this module's boot store image as it serves them (R425). -/
def imageBytes (off len : Nat) (m : Sys) : List Byte := if m.boot.imageValid then bytesAt m.boot.image off len else zeros len

end Sys2Proof.Machine
end

