-- ==== Sys2Proof/Machine/Ledger.lean ====
section
/-!
DEFINITION. The boot store's operations and sectors (R399, R401 to R405) and the lifetime ledger: records, pages, checkpoints, the
window, and what the boot ROM reads from it (R402, R451 to R455).
-/
namespace Sys2Proof.Machine

/-! ### Operations of the boot store (R403) -/

/-- An operation erases a sector. -/
def erases : BootOp → Bool
  | .ledgerPage => false
  | .ledgerErase => true
  | .config _ _ _ => true
  | .image s => s != 4096

/-- The operation in progress, then those queued. -/
def bootOps (m : Sys) : List BootOp := (match m.boot.op with
  | some o => [o]
  | none => []) ++ m.boot.opQueue

/-- The next operation starts when none runs; from the power-fail turn on no erase starts (R405). -/
def nextBootOp (m : Sys) : Sys :=
  match m.boot.op, m.boot.opQueue with
  | none, o :: rest =>
    if live m || !erases o then onBoot (fun b => { b with op := some o, opQueue := rest, suspended := false, window := false, readWaits := false }) m
    else m
  | _, _ => m

/-- Hand an operation to the boot store. -/
def queueBootOp (o : BootOp) (m : Sys) : Sys := nextBootOp (onBoot (fun b => { b with opQueue := b.opQueue ++ [o] }) m)

/-! ### Pages and records (R402, R451) -/

/-- Pages of a boot store sector. -/
def sectorPages : Nat := 256
/-- Sectors of the ledger ring (R399). -/
def ringSectors : Nat := 8192
/-- Sectors of the ledger's window (R402). -/
def windowSectors : Nat := 4096

/-- A record as it stands in a page: header and body, padded to a multiple of 4 (R451). -/
def recordLine (r : LRec) : List Byte :=
  let n := (4 + r.body.length + 3) / 4 * 4
  fitBytes n ([r.type] ++ leBytes 1 n ++ leBytes 1 (flagAt r.keep 0) ++ [0] ++ r.body)

/-- A ledger page: sequence number, records, zero tail and CRC (R402, R451). -/
def ledgerPage (seq : Nat) (content : List Byte) : List Byte := withCrc (leBytes 8 seq ++ fitBytes 244 content)

/-- Pack records into page contents, in order; no record spans pages (R451). -/
def packRecords (l : List LRec) : List (List Byte) :=
  l.foldl (fun acc r =>
    let b := recordLine r
    match acc.reverse with
    | last :: rest => if last.length + b.length ≤ 244 then rest.reverse ++ [last ++ b] else acc ++ [b]
    | [] => [b]) []

/-- Records of a page's content; `fuel` bounds their number. -/
def recordsIn : Nat → List Byte → List (List Byte)
  | 0, _ => []
  | fuel + 1, l =>
    let n := leAt l 1 1
    if leAt l 0 1 = 0 ∨ n < 8 ∨ l.length < n then [] else l.take n :: recordsIn fuel (l.drop n)

/-- Records of a page (R451). -/
def pageRecords (p : List Byte) : List (List Byte) := recordsIn 31 (bytesAt p 8 244)

/-- Type of a record as read. -/
def recType (r : List Byte) : Nat := leAt r 0 1
/-- KEEP of a record as read. -/
def recKeep (r : List Byte) : Bool := (leAt r 2 1).testBit 0

/-- The newest page number that has been programmed (R402). -/
def programmedPage (m : Sys) : Nat := m.health.nextPage - 1 - ((bootOps m).filter fun o => o == .ledgerPage).length

/-- Append a page at the head; its program is queued (R402). -/
def appendPage (content : List Byte) (m : Sys) : Sys :=
  queueBootOp .ledgerPage (onHealth (fun h => { h with
    pages := tset h.nextPage (ledgerPage h.nextPage content) h.pages, nextPage := h.nextPage + 1 }) m)

/-- Append every record that waits (R452). -/
def appendRecords (m : Sys) : Sys :=
  forEach (packRecords m.health.pendingRecs) appendPage (onHealth (fun h => { h with pendingRecs := [] }) m)

/-- Append a page that is programmed at once, as the boot ROM and the hold-up sequence do. -/
def writePage (content : List Byte) : Sys → Sys := onHealth fun h =>
  { h with pages := tset h.nextPage (ledgerPage h.nextPage content) h.pages, nextPage := h.nextPage + 1,
           ledgerHead := BitVec.ofNat 64 h.nextPage }

/-- Append one record in a page of its own, programmed at once. -/
def writeRecord (type : Byte) (keep : Bool) (body : List Byte) (m : Sys) : Sys :=
  writePage (recordLine { type, keep, body := leBytes 4 (poweredSecs m) ++ body }) m

/-! ### Checkpoints (R454, R455) -/

/-- The totals as a checkpoint carries them (R455). -/
def checkpointTotal (m : Sys) (i : Nat) : Nat :=
  if i = 0 then poweredSecs m else if i = 162 then m.health.lifeLeft.toNat else if 164 ≤ i then 0 else total i m

/-- The CHECKPOINT record of a part (R452, R454). -/
def checkpointPart (m : Sys) (p : Nat) : List Byte :=
  recordLine { type := 0x05, keep := false, body := leBytes 4 (poweredSecs m) ++ leBytes 1 p ++ leBytes 1 28 ++ zeros 2 ++
    (span (28 * p) 28).flatMap fun i => leBytes 8 (checkpointTotal m i) }

/-- Write a checkpoint: six consecutive pages, after the records that wait (R454). -/
def writeCheckpoint (m : Sys) : Sys :=
  let m := appendRecords m
  forEach ((List.range 6).map (checkpointPart m)) appendPage m

/-! ### What the boot ROM reads (R402, R407, R411, R454) -/

/-- The part that a page's CHECKPOINT record carries. -/
def pagePart (p : List Byte) : Option Nat :=
  match pageRecords p with
  | [r] => if recType r = 0x05 then some (leAt r 8 1) else none
  | _ => none

/-- Load the totals of a part into the table (R455). -/
def loadPart (p : List Byte) (t : Tab Nat) : Tab Nat :=
  match pagePart p with
  | some k => (List.range 28).foldl (fun t i => tset (28 * k + i) (leAt p (20 + 8 * i) 8) t) t
  | none => t

/-- The page holds a record of this type. -/
def holdsType (type : Nat) (p : List Byte) : Bool := (pageRecords p).any fun r => recType r == type

/-- Page `n` is part `k` of a checkpoint. -/
def isPart (pages : Tab (List Byte)) (n k : Nat) : Bool := ((tfind n pages).bind pagePart) == some k

/-- The first page of the newest complete checkpoint (R454). -/
def newestCheckpoint (pages : Tab (List Byte)) : Option Nat :=
  ((pages.map (·.1)).reverse).find? fun n => (List.range 6).all fun k => isPart pages (n + k) k

/-- The first page of the newest POWER_FAIL entry with its two parts (R454). -/
def newestEntry (pages : Tab (List Byte)) : Option Nat :=
  (((pages.filter fun e => holdsType 0x04 e.2).map (·.1)).reverse).find? fun n => isPart pages (n + 1) 0 && isPart pages (n + 2) 1

/-- The lifetime totals that the ledger gives: those of the checkpoint in force, and totals 0 to 55 from a later POWER_FAIL entry
(R454). -/
def ledgerTotals (pages : Tab (List Byte)) : Tab Nat :=
  let page (n : Nat) := (tfind n pages).getD []
  let base := match newestCheckpoint pages with
    | some n => (List.range 6).foldl (fun t k => loadPart (page (n + k)) t) []
    | none => []
  match newestEntry pages with
  | some n => if ((newestCheckpoint pages).getD 0) < n then loadPart (page (n + 2)) (loadPart (page (n + 1)) base) else base
  | none => base

/-- Start records at the end of the ledger that no SERVING record follows (R411). -/
def startsUnserved (pages : Tab (List Byte)) : Nat :=
  pages.foldl (fun n e => (pageRecords e.2).foldl (fun n r => if recType r = 0x01 then n + 1 else if recType r = 0x02 then 0 else n) n) 0

/-- Turns of the last hold-up sequence, from the newest POWER_FAIL record (R36, R452). -/
def lastHoldup (pages : Tab (List Byte)) : Nat :=
  match (pages.filter fun e => holdsType 0x04 e.2).getLast? with
  | some e => ((pageRecords e.2).find? fun r => recType r == 0x04).elim 0 fun r => leAt r 12 4
  | none => 0

/-- The oldest sector number of the window, counted over the ledger's life (R402). -/
def windowFirst (m : Sys) : Nat := (m.health.nextPage - 1) / sectorPages + 1 - windowSectors

/-- The oldest page in the window (R461 LEDGER_WIN). -/
def windowPage (m : Sys) : Nat :=
  ((m.health.pages.find? fun e => decide (windowFirst m ≤ e.1 / sectorPages)).map (·.1)).getD 0

/-- Load EVT.LEDGER and EVT.LEDGER_WIN. -/
def loadLedgerRegs (m : Sys) : Sys :=
  onHealth (fun h => { h with ledgerHead := BitVec.ofNat 64 (programmedPage m), ledgerWin := BitVec.ofNat 64 (windowPage m) }) m

/-! ### Sectors (R401) -/

/-- Spare sectors (R399). -/
def spareSectors : Nat := 3820

/-- The physical sector of a logical one (R401). -/
def physicalSector (m : Sys) (s : Nat) : Nat := tget s s m.boot.sectors

/-- Retire the sector behind a logical one: the lowest-numbered unused spare takes its place (R401). With the last spare taken
SPARE_LOW is set (R443); after that a sector of the ledger ring leaves the ring, and any other stays in use. -/
def retireSector (s : Nat) (m : Sys) : Sys :=
  if spareSectors ≤ m.boot.sectorsRetired then
    onlyIf (decide (4372 ≤ s) && decide (s < 12564)) (onBoot fun b => { b with ringOut := b.ringOut ++ [s - 4372] }) m
  else
    let m := onBoot (fun b => { b with sectors := tset s (12564 + b.sectorsRetired) b.sectors, sectorsRetired := b.sectorsRetired + 1 }) m
    if m.boot.sectorsRetired = spareSectors then notice 0x16 1 [] (onBoot (fun b => { b with spareLow := true }) m) else m

/-- Count the erase of a logical sector; at 100,000 erases it is retired (R401). -/
def countErase (s : Nat) (m : Sys) : Sys :=
  let p := physicalSector m s
  let m := addTotal 55 1 (onBoot (fun b => { b with sectorErases := tupd 0 p (· + 1) b.sectorErases }) m)
  if 100000 ≤ tget 0 p m.boot.sectorErases then retireSector s m else m

/-- Sectors behind the window that still hold pages, oldest first, counted over the ledger's life (R402). -/
def sectorsBehind (m : Sys) : List Nat :=
  (((m.health.pages.filter fun e => decide (e.1 / sectorPages < windowFirst m)).map fun e => e.1 / sectorPages)).eraseDups

/-- The ring's sector at a turn of the ring, among those still in use (R401, R402). -/
def ringSector (m : Sys) (k : Nat) : Nat :=
  if m.boot.ringOut.isEmpty then k % ringSectors
  else
    let l := (List.range ringSectors).filter (!m.boot.ringOut.contains ·)
    l.getD (k % l.length) 0

/-- The logical sector that an operation addresses. -/
def opSector (m : Sys) : BootOp → Nat
  | .ledgerPage => 4372 + ringSector m ((programmedPage m + 1) / sectorPages)
  | .ledgerErase => 4372 + ringSector m ((sectorsBehind m).headD 0)
  | .config second _ _ => if second then 12 else 4
  | .image s => 276 + s % 4096

/-! ### The window (R402, R453) -/

/-- A record says what a newer one says again: same type, same body (R453). -/
def supersededBy (r q : List Byte) : Bool := recType r == recType q && r.drop 8 == q.drop 8

/-- Records with KEEP of a sector that nothing newer supersedes (R453). -/
def keptRecords (m : Sys) (s : Nat) : List (List Byte) :=
  let mine := (m.health.pages.filter fun e => e.1 / sectorPages == s).flatMap fun e => pageRecords e.2
  let newer := (m.health.pages.filter fun e => decide (s < e.1 / sectorPages)).flatMap fun e => pageRecords e.2
  mine.filter fun r => recKeep r && !newer.any (supersededBy r) && !m.health.pendingRecs.any fun q => supersededBy r (recordLine q)

/-- A ring sector behind the window is erased after its KEEP records have been appended afresh (R402, R453). -/
def eraseBehind (m : Sys) : Sys :=
  match (sectorsBehind m).drop ((bootOps m).filter fun o => o == .ledgerErase).length with
  | [] => m
  | s :: _ =>
    let again := (keptRecords m s).map fun r => ({ type := BitVec.ofNat 8 (recType r), keep := true, body := r.drop 4 } : LRec)
    queueBootOp .ledgerErase (appendRecords (onHealth (fun h => { h with pendingRecs := h.pendingRecs ++ again }) m))

/-- LEDGER_SECTOR_ERASE (R402): no erase starts from the power-fail turn on (R405). -/
def execLedgerSectorErase (s : State) : Host.Outcome State Fault Refusal := done s (whileLive eraseBehind)

/-- LEDGER_APPEND (R452): what waits is appended. -/
def execLedgerAppend (s : State) : Host.Outcome State Fault Refusal := done s (whileLive appendRecords)

/-- HOURLY_CHECKPOINT (R454): a timer. -/
def execHourlyCheckpoint (s : State) : Host.Outcome State Fault Refusal := done s (asEvent 10 writeCheckpoint)

/-- EVT_CHECKPOINT (R454). -/
def execEvtCheckpoint (s : State) : Host.Outcome State Fault Refusal := done s (whileLive writeCheckpoint)

/-- A page has programmed: the head moves, and the commands that waited for it complete (R460). -/
def pageDone (m : Sys) : Sys :=
  let m := loadLedgerRegs m
  let due := m.health.pageWaits.filter fun e => decide (e.1 ≤ programmedPage m)
  forEach due (fun e => complete e.2.1 (doneWith e.2.2))
    (onHealth (fun h => { h with pageWaits := h.pageWaits.filter fun e => decide (programmedPage m < e.1) }) m)

/-- The erase of a ring sector has completed: its pages are gone. -/
def ringErased (m : Sys) : Sys :=
  match sectorsBehind m with
  | [] => m
  | s :: _ => loadLedgerRegs (onHealth (fun h => { h with pages := h.pages.filter fun e => e.1 / sectorPages != s }) m)

/-! ### Suspension (R403, R404) -/

/-- A read reaches the boot store while an operation runs: it suspends it, or waits inside the window (R403, R404). -/
def bootSuspend (wait : Nat) (m : Sys) : Sys :=
  if m.boot.op.isNone then m
  else
    let m := onBoot (fun b => { b with waitMax := satMax b.waitMax wait }) m
    if m.boot.suspended then m
    else if m.boot.window then onBoot (fun b => { b with readWaits := true }) m
    else onBoot (fun b => { b with suspended := true, suspends := satInc b.suspends }) m

/-- BOOT_SUSPEND (R404). -/
def execBootSuspend (waitUs : BitVec 16) (s : State) : Host.Outcome State Fault Refusal := done s (whileLive (bootSuspend waitUs.toNat))

/-- The operation resumes, and its window of 200 µs opens (R403, R404). -/
def bootResume (m : Sys) : Sys := onBoot (fun b => if b.suspended then { b with suspended := false, window := true } else b) m

/-- BOOT_RESUME (R403). -/
def execBootResume (s : State) : Host.Outcome State Fault Refusal := done s (whileLive bootResume)

/-- The window ends: a read that waited suspends the operation (R404). -/
def bootWindowEnd (m : Sys) : Sys :=
  onBoot (fun b =>
    if b.window && b.readWaits then { b with window := false, readWaits := false, suspended := true, suspends := satInc b.suspends }
    else { b with window := false }) m

/-- BOOT_SUSPEND_WINDOW_END (R404): a timer. -/
def execBootSuspendWindowEnd (s : State) : Host.Outcome State Fault Refusal := done s (asEvent 10 bootWindowEnd)

end Sys2Proof.Machine
end

