-- ==== Sys2Proof/Machine/FwCmd.lean ====
section
/-!
DEFINITION. The firmware, configuration and attestation commands (R414, R415, R420 to R425, R430), and the end of a boot store program
or erase (R401, R403, R414, R421).
-/
namespace Sys2Proof.Machine

/-! ### FW_QUERY, FW_LOAD, FW_VERIFY, FW_DISCARD, FW_FETCH (R415, R420, R425) -/

/-- The flags byte of FW_QUERY and of an attestation report (R415, R430): SOURCE, IMAGE_VALID and FROM_T1 at the bits given. -/
def fwFlagBits (b : Boot) : Nat :=
  flagAt b.source 0 + flagAt b.imageValid 1 + flagAt b.fromT1 2 + flagAt (b.keyRevoked.getLsbD 0) 3 + flagAt (b.keyRevoked.getLsbD 1) 4

/-- The RESULT of FW_QUERY (R415). -/
def fwQueryResult (m : Sys) : List Byte :=
  let b := m.boot
  let staged := stagedPart m 4096
  resultOf [(40, leBytes 4 b.release.toNat ++ leBytes 1 b.svn.toNat ++ leBytes 1 b.svnFloor.toNat ++ leBytes 1 b.staging.toNat ++
    leBytes 1 (fwFlagBits b) ++ leBytes 4 (fwRelease staged) ++ leBytes 1 (fwSvn staged) ++ [0] ++ leBytes 2 b.numRev.toNat ++
    leBytes 4 (if b.imageValid then fwRelease b.image else 0))]

/-- FW_QUERY (R415). -/
def execFwQuery (c : Cmd) (s : State) : Host.Outcome State Fault Refusal :=
  done s (asCommand c fun m => complete c (doneWith (fwQueryResult m)) m)

/-- FW_LOAD: pieces of the image come from the host buffer into the staging area (R420). -/
def fwLoad (c : Cmd) (m : Sys) : Sys :=
  let off := par c 32 4
  let len := c.length.toNat
  if off % 4096 ≠ 0 ∨ len % 4096 ≠ 0 ∨ 16777216 < len ∨ 268435456 < off + len then endWith c stBadCommand m
  else if m.boot.staging = 3 then endWith c stBusy m
  else if m.task.fetches.any (fun f => sameCmd f.cmd c) then m
  else
    let m := onBoot (fun b => { b with staging := 1 }) m
    if len = 0 then endWith c stDone m else beginFetch c m

/-- FW_LOAD (R420). -/
def execFwLoad (c : Cmd) (s : State) : Host.Outcome State Fault Refusal := done s (asCommand c (fwLoad c))

/-- Pieces are still on their way into the staging area. FW_VERIFY and FW_DISCARD wait for them (log entry 9). -/
def stagingFills (m : Sys) : Bool := m.task.fetches.any (fun f => f.cmd.opcode == 0x61) || m.boot.fetch.isSome

/-- FW_VERIFY: the checks of R418 on the staging area (R420). -/
def fwVerify (c : Cmd) (m : Sys) : Sys :=
  if m.boot.staging = 3 then endWith c stBusy m
  else if stagingFills m then m
  else match verifyStaged m with
    | some code => complete c (reasonEnding code) m
    | none => endWith c stDone (onBoot (fun b => { b with staging := 2 }) m)

/-- FW_VERIFY (R420). -/
def execFwVerify (c : Cmd) (s : State) : Host.Outcome State Fault Refusal := done s (asCommand c (fwVerify c))

/-- FW_DISCARD: the staging area is emptied; BUSY while committing (R415). -/
def fwDiscard (c : Cmd) (m : Sys) : Sys :=
  if m.boot.staging = 3 then endWith c stBusy m
  else if stagingFills m then m
  else endWith c stDone (emptyStaging m)

/-- FW_DISCARD (R415). -/
def execFwDiscard (c : Cmd) (s : State) : Host.Outcome State Fault Refusal := done s (asCommand c (fwDiscard c))

/-- FW_FETCH: a peer's image is read into the empty staging area (R425). -/
def fwFetch (c : Cmd) (m : Sys) : Sys :=
  let peer : Addr := BitVec.ofNat 16 (par c 32 2)
  if (m.boot.fetch.any fun f => f.1.any (sameCmd c)) then m
  else if !(nearPeers m).contains peer then endWith c stBadCommand m
  else if m.boot.staging ≠ 0 then endWith c stBusy m
  else beginImage (some c) peer m

/-- FW_FETCH (R425). -/
def execFwFetch (c : Cmd) (s : State) : Host.Outcome State Fault Refusal := done s (asCommand c (fwFetch c))

/-! ### FW_COMMIT (R421) -/

/-- A FIRMWARE record of the ledger (R452): what happened, the image's RELEASE and SVN, and the floor after it. -/
def firmwareRec (kind release svn : Nat) (m : Sys) : Sys :=
  ledgerRec 0x0B false (leBytes 1 kind ++ zeros 3 ++ leBytes 4 release ++ leBytes 1 svn ++ leBytes 1 m.boot.svnFuses.toNat) m

/-- A sector's erased contents. -/
def erasedBytes (n : Nat) : List Byte := List.replicate n 0xFF

/-- Sectors that an image uses (R403, R421): 64 KiB each. -/
def imageSectors (l : List Byte) : Nat := (fwSize l + 65535) / 65536

/-- Put bytes into the image region at an offset; what lay beyond the region's known bytes is erased. -/
def putImage (o : Nat) (new : List Byte) : Sys → Sys := onBoot fun b =>
  { b with image := putBytes (b.image ++ erasedBytes (o - b.image.length)) o new }

/-- The staging image is written to the boot store, beginning with the erase of the region's first sector (R421). -/
def beginCommit (c : Option Cmd) (m : Sys) : Sys :=
  let m := onBoot (fun b => { b with commit := some (c, 0), commitStop := false, staging := 3, imageValid := false }) m
  queueBootOp (.image 0) (putImage 0 (erasedBytes 65536) m)

/-- FW_COMMIT (R421). -/
def fwCommit (c : Cmd) (m : Sys) : Sys :=
  match m.boot.commit with
  | some (d, _) => if d.any (sameCmd c) then m else endWith c stBusy m
  | none => if m.boot.staging = 2 then beginCommit (some c) m else endWith c stBadCommand m

/-- FW_COMMIT (R421). -/
def execFwCommit (c : Cmd) (s : State) : Host.Outcome State Fault Refusal := done s (asCommand c (fwCommit c))

/-- End the command of a commit, if it has one. -/
def endCommit (c : Option Cmd) (status : Byte) (m : Sys) : Sys := match c with
  | some c => endWith c status m
  | none => m

/-- The whole image is read back and verified (R421 step 4). One that does not verify leaves the boot store without a valid image and
staging VERIFIED, and its command ends BAD_COMMAND (log entry 37). -/
def readBack (c : Option Cmd) (m : Sys) : Sys :=
  let l := stagedImage m
  let m := onBoot (fun b => { b with commit := none }) m
  if m.boot.image.take l.length = l ∧ (fwCheck 0 m (m.boot.image.take (fwSize m.boot.image))).isNone = true then
    let m := firmwareRec (if c.isSome then 0 else 2) (fwRelease l) (fwSvn l)
      (onBoot (fun b => { b with imageValid := true, fromT1 := if c.isSome then b.fromT1 else false }) (emptyStaging m))
    endCommit c stDone m
  else endCommit c stBadCommand (onBoot (fun b => { b with staging := 2 }) m)

/-- After a step of the commit the next sector follows, then the header, then the read back. A queue reset stops it here (R421). -/
def commitNext (s : Nat) (m : Sys) : Sys :=
  match m.boot.commit with
  | none => m
  | some (c, _) =>
    if m.boot.commitStop then
      endCommit c stFlushed (onBoot (fun b => { b with commit := none, commitStop := false, staging := 2 }) m)
    else if s = 4096 then readBack c m
    else
      let next := if s + 1 < imageSectors (stagedImage m) then s + 1 else 4096
      queueBootOp (.image next) (onBoot (fun b => { b with commit := some (c, next) }) m)

/-- A step of the commit has completed: its part of the image is written (R421). -/
def commitStep (s : Nat) (m : Sys) : Sys :=
  if m.boot.commit.isNone then m
  else
    let l := stagedImage m
    commitNext s (if s = 4096 then putImage 0 (l.take 4096) m
      else if s = 0 then putImage 4096 (bytesAt l 4096 61440) m
      else putImage (65536 * s) (bytesAt l (65536 * s) 65536) m)

/-! ### FW_ACTIVATE (R423, R427) -/

/-- A command other than `c` is held at this module's task registers, or relayed to it. -/
def othersHeld (c : Cmd) (m : Sys) : Bool :=
  m.task.eps.any (fun e => e.2.held.any fun h => !sameCmd h.2.cmd c) || m.task.relayed.any fun d => !sameCmd d c

/-- FW_ACTIVATE (R423): after the checks the module reports zero credits and answers relays BUSY, and the reset is due; the recovery
loader starts a VERIFIED staging image at once (R427). -/
def fwActivate (c : Cmd) (m : Sys) : Sys :=
  if m.boot.commit.isSome then endWith c stBusy m
  else if m.boot.staging ≠ 2 ∧ (m.boot.stage = stageLoader ∨ m.boot.imageValid = false) then endWith c stBadCommand m
  else if m.jobs.job.isSome ∨ m.jobs.queue ≠ [] ∨ othersHeld c m = true ∨ m.fabric.lent ≠ [] then endWith c stBusy m
  else
    let l := if m.boot.staging = 2 then stagedPart m 4096 else m.boot.image
    let m := firmwareRec 1 (fwRelease l) (fwSvn l) m
    if m.boot.stage = stageLoader then startStaged (endWith c stDone m)
    else
      let m := onTask (fun t => { t with stopped := true, eps := tmap (fun e => { e with credit := 0 }) t.eps }) m
      onBoot (fun b => { b with activating := true }) (endWith c stDone m)

/-- FW_ACTIVATE (R423). -/
def execFwActivate (c : Cmd) (s : State) : Host.Outcome State Fault Refusal := done s (asCommand c (fwActivate c))

/-! ### ATTEST, CERT_READ, CAL_READ (R415, R428, R430) -/

/-- The identity private key d (R428). -/
def identityKey : Nat := beNat (hkdf384 Config.pufSecret (ascii "jxv6 identity") 64) % (curveN - 1) + 1

/-- The configuration copy in use (R412). -/
def copyInUse (b : Boot) : List Byte := if b.cfgDefault then zeros 36 else if b.cfgCopy then b.cfg1 else b.cfg0

/-- Bytes 0 to 415 of an attestation report (R430). -/
@[irreducible] def attestBody (nonce : List Byte) (m : Sys) : List Byte :=
  let b := m.boot
  leBytes 4 0x5454414A ++ leBytes 2 1 ++ leBytes 2 512 ++ leBytes 8 identity.toNat ++ nonce ++ leBytes 8 b.lifeStarts ++
  leBytes 8 (now m / msTurns) ++ leBytes 4 b.release.toNat ++ leBytes 1 b.svn.toNat ++ leBytes 1 b.svnFloor.toNat ++
  leBytes 1 (fwFlagBits b) ++ leBytes 1 m.flash.roCause.toNat ++ leBytes 2 b.numRev.toNat ++ leBytes 1 hwRev ++ zeros 5 ++
  sha384 Config.loaderImage ++ (if b.source then zeros 48 else sha384 b.running) ++ sha384 (copyInUse b) ++
  sha384 (calBytes 0 131072) ++ zeros 144

/-- ATTEST (R430). -/
def attestCmd (c : Cmd) (m : Sys) : Sys :=
  if c.length.toNat < 512 then endWith c stBadCommand m
  else
    let body := attestBody (parBytes c 32 32) m
    deliver c (body ++ ecdsaSign identityKey body) [] (onBoot (fun b => { b with attests := satInc b.attests }) m)

/-- ATTEST (R430). -/
def execAttest (c : Cmd) (s : State) : Host.Outcome State Fault Refusal := done s (asCommand c (attestCmd c))

/-- CERT_READ (R415): the certificate without its padding. -/
def certRead (c : Cmd) (m : Sys) : Sys :=
  if c.length.toNat < Config.certLength then endWith c stBadCommand m
  else deliver c (calBytes 0x2000 Config.certLength) (resultOf [(40, leBytes 4 Config.certLength)]) m

/-- CERT_READ (R415). -/
def execCertRead (c : Cmd) (s : State) : Host.Outcome State Fault Refusal := done s (asCommand c (certRead c))

/-- CAL_READ (R415): bytes of the calibration row. -/
def calRead (c : Cmd) (m : Sys) : Sys :=
  let off := par c 32 4
  if 131072 < off + c.length.toNat then endWith c stBadCommand m else deliver c (calBytes off c.length.toNat) [] m

/-- CAL_READ (R415). -/
def execCalRead (c : Cmd) (s : State) : Host.Outcome State Fault Refusal := done s (asCommand c (calRead c))

/-! ### The configuration area (R412 to R414) -/

/-- Every field of a settings block lies in its range (R413). -/
def settingsGood (l : List Byte) : Bool :=
  decide (leAt l 0 2 / 1024 % 32 = 0) && decide (30 ≤ leAt l 2 1) && decide (leAt l 2 1 ≤ 95) && decide (leAt l 3 1 < 8) &&
    decide (leAt l 5 1 < 4) && decide (leAt l 6 2 ≤ 256) && decide (leAt l 8 2 ≤ 256) && allZero (bytesAt l 10 6)

/-- The default settings block (R413). -/
def defaultSettings : List Byte := [0, 0, 95, 0, 0, 0x03] ++ zeros 10

/-- A configuration copy is valid (R412). -/
def copyGood (l : List Byte) : Bool :=
  leAt l 0 4 == 0x4746434A && leAt l 4 2 == 1 && bytesAt l 32 4 == crcBytes (bytesAt l 0 32) && settingsGood (bytesAt l 16 16)

/-- VERSION of a copy. -/
def copyVersion (l : List Byte) : Nat := leAt l 8 8

/-- The copy that a start uses: the valid one with the higher VERSION (R412). -/
def chooseCopy (b : Boot) : Option Bool :=
  match copyGood b.cfg0, copyGood b.cfg1 with
  | true, true => some (decide (copyVersion b.cfg0 < copyVersion b.cfg1))
  | true, false => some false
  | false, true => some true
  | false, false => none

/-- The settings block that a start uses (R412). -/
def chosenSettings (b : Boot) : List Byte := match chooseCopy b with
  | some true => bytesAt b.cfg1 16 16
  | some false => bytesAt b.cfg0 16 16
  | none => defaultSettings

/-- CFG_READ (R414). -/
def cfgRead (c : Cmd) (m : Sys) : Sys :=
  let which := par c 32 1
  if which = 0 then complete c (doneWith (resultOf [(40, fitBytes 16 m.boot.settings)])) m
  else if which = 1 then complete c (doneWith (resultOf [(40, chosenSettings m.boot)])) m
  else endWith c stBadCommand m

/-- CFG_READ (R414). -/
def execCfgRead (c : Cmd) (s : State) : Host.Outcome State Fault Refusal := done s (asCommand c (cfgRead c))

/-- The bytes of a configuration copy (R412). -/
def configCopy (version : Nat) (settings : List Byte) : List Byte :=
  withCrc (leBytes 4 0x4746434A ++ leBytes 2 1 ++ zeros 2 ++ leBytes 8 version ++ fitBytes 16 settings)

/-- The highest VERSION of a valid copy. -/
def highestVersion (b : Boot) : Nat :=
  max (if copyGood b.cfg0 then copyVersion b.cfg0 else 0) (if copyGood b.cfg1 then copyVersion b.cfg1 else 0)

/-- The first of the configuration writes begins: to the copy not in use since the start (R414). -/
def startConfig (m : Sys) : Sys :=
  match m.boot.cfgWrites with
  | [] => m
  | c :: _ =>
    let second := m.boot.cfgDefault == false && m.boot.cfgCopy == false
    queueBootOp (.config second (configCopy (highestVersion m.boot + 1) (parBytes c 32 16)) c) m

/-- CFG_WRITE (R414): one at a time, in dispatch order. -/
def cfgWrite (c : Cmd) (m : Sys) : Sys :=
  if m.boot.cfgWrites.any (sameCmd c) then m
  else if !settingsGood (parBytes c 32 16) then endWith c stBadCommand m
  else
    let idle := m.boot.cfgWrites.isEmpty
    onlyIf idle startConfig (onBoot (fun b => { b with cfgWrites := b.cfgWrites ++ [c] }) m)

/-- CFG_WRITE (R414). -/
def execCfgWrite (c : Cmd) (s : State) : Host.Outcome State Fault Refusal := done s (asCommand c (cfgWrite c))

/-- A configuration copy has been written and read back: its command completes, and the next begins (R414). -/
def configDone (second : Bool) (bytes : List Byte) (c : Cmd) (m : Sys) : Sys :=
  let m := onBoot (fun b =>
    if second then { b with cfg1 := bytes, cfgWrites := b.cfgWrites.drop 1 } else { b with cfg0 := bytes, cfgWrites := b.cfgWrites.drop 1 }) m
  startConfig (endWith c stDone m)

/-- A copy that does not read back intact: its command ends UNCORRECTABLE (DESIGN CHOICE, log entry 37), and the next begins. -/
def configBad (second : Bool) (bytes : List Byte) (c : Cmd) (m : Sys) : Sys :=
  let m := onBoot (fun b =>
    if second then { b with cfg1 := bytes, cfgWrites := b.cfgWrites.drop 1 } else { b with cfg0 := bytes, cfgWrites := b.cfgWrites.drop 1 }) m
  startConfig (endWith c stUncorrectable m)

/-! ### BOOT_OP_DONE (R401, R403) -/

/-- What a boot store operation brings about when it has completed. -/
def bootOpEffect : BootOp → Sys → Sys
  | .ledgerPage, m => pageDone m
  | .ledgerErase, m => ringErased m
  | .config second bytes c, m => configDone second bytes c m
  | .image s, m => commitStep s m

/-- An operation has ended well: the next one starts. -/
def bootOpEnds (o : BootOp) (m : Sys) : Sys :=
  let m := if erases o then countErase (opSector m o) m else m
  nextBootOp (bootOpEffect o (onBoot (fun b => { b with op := none, window := false, readWaits := false }) m))

/-- With no spare left, a sector of the ledger ring leaves the ring: a page goes to the next sector, an erase is done with. Every other sector
stays in use with what it now holds, which the manual does not say: open bytes, which the read back judges (R401, R414, R421; log entry
37). -/
def noSpare (o : BootOp) (m : Sys) : Sys :=
  let idle (m : Sys) : Sys := onBoot (fun b => { b with op := none, window := false, readWaits := false }) m
  match o with
  | .ledgerPage => onBoot (fun b => { b with window := false, readWaits := false }) (retireSector (opSector m o) m)
  | .ledgerErase => nextBootOp (ringErased (idle (retireSector (opSector m o) m)))
  | .config second bytes c =>
    let v := openBytes 36 (idle m)
    nextBootOp (if v.1 = bytes then configDone second bytes c v.2 else configBad second v.1 c v.2)
  | .image s =>
    let v := openBytes (if s = 4096 then 4096 else 65536) (idle m)
    nextBootOp (commitNext s (putImage (if s = 4096 then 0 else 65536 * s) v.1 v.2))

/-- An operation has failed its verify: its sector is retired, and what it was to write is written to the sector that takes its place;
a fresh spare needs no erase (R401; log entry 37). -/
def bootOpFails (o : BootOp) (m : Sys) : Sys :=
  if spareSectors ≤ m.boot.sectorsRetired then noSpare o m
  else
    let m := retireSector (opSector m o) m
    if o = .ledgerErase then
      nextBootOp (bootOpEffect o (onBoot (fun b => { b with op := none, window := false, readWaits := false }) m))
    else onBoot (fun b => { b with window := false, readWaits := false }) m

/-- The boot store operation in progress ends; a suspended one does not (R403). -/
def bootOpDone (ok : Bool) (m : Sys) : Sys :=
  match m.boot.op with
  | none => m
  | some o => if m.boot.suspended then m else if ok then bootOpEnds o m else bootOpFails o m

/-- BOOT_OP_DONE (R403): also during the hold-up sequence, where a page program in progress completes (R405). -/
def execBootOpDone (ok : Bool) (s : State) : Host.Outcome State Fault Refusal :=
  done s fun m => if live m || inHoldup m then bootOpDone ok m else m

end Sys2Proof.Machine
end

