-- ==== Sys2Proof/Machine/HealthCmd.lean ====
section
/-!
DEFINITION. Health reporting, the ledger commands, notices as they are sent, and the in-service test (R197, R442 to R450, R456 to R461).
-/
namespace Sys2Proof.Machine

/-! ### What the health report says (R449, R450) -/

/-- SQUARES_IN, CORES_IN and HALVES_IN of GLB.COMPUTE (R200). -/
def squaresIn (m : Sys) : Nat := 256 - ((List.range 256).filter fun q => (coreOf m (16 * q)).squareOut).length
def coresIn (m : Sys) : Nat := (servingCores m).length
def halvesIn (m : Sys) : Nat := (servingCores m).foldl (fun n c => n + (16 - popcount (coreOf m c).halfOut)) 0

/-- Erases of the most-erased physical sector: GLB.BOOT_WEAR.MAX_CYCLES. -/
def maxCycles (m : Sys) : Nat := m.boot.sectorErases.foldl (fun a e => max a e.2) 0

/-- Spare sectors not in use: GLB.BOOT_STATUS.SPARES. -/
def sparesLeft (m : Sys) : Nat := spareSectors - m.boot.sectorsRetired

/-- A quotient rounded up. -/
def ceilDiv (a b : Nat) : Nat := (a + b - 1) / b

/-- E_ship of the calibration row, 10 mJ (R400). -/
def shipEnergy : Nat := leNat (calBytes 0xB0 4)

/-- The hold-up term of R450: the last measurement against the energy at shipment. -/
def holdupTerm (m : Sys) : Nat :=
  let e := if m.power.measured then m.power.energy.toNat else total 160 m
  if total 160 m = 0 ∨ shipEnergy ≤ e then 0
  else if shipEnergy ≤ 1400 then 100
  else min 100 (ceilDiv (100 * (shipEnergy - e)) (shipEnergy - 1400))

/-- LIFE_LEFT (R450). -/
def lifeLeft (m : Sys) : Nat :=
  if m.flash.roCause.getLsbD 2 then 0
  else 100 - max (max (min 100 (wearUsed m)) (100 - spareLeft m)) (max (holdupTerm m) (min 100 (ceilDiv (maxCycles m) 1000)))

/-- Multiples of 10 above a LIFE_LEFT: the steps that have been passed. -/
def lifeSteps (l : Nat) : Nat := 10 - l / 10

/-- LIFE_LEFT is recomputed each second in full mode; a multiple of 10 passed for the first time raises LIFE_STEP (R443, R448). -/
def updateLife (m : Sys) : Sys :=
  if m.health.mode ≠ 0 then m
  else
    let l := lifeLeft m
    let m := onHealth (fun h => { h with lifeLeft := BitVec.ofNat 8 l }) m
    if total 163 m < lifeSteps l then notice 0x19 1 (leBytes 1 l) (setTotal 163 (lifeSteps l) m) else m

/-- LIFE_LEFT_UPDATE (R448): a timer. -/
def execLifeLeftUpdate (s : State) : Host.Outcome State Fault Refusal := done s (asEvent 10 updateLife)

/-- Sensor temperatures of a class (R38), 0.1 °C. -/
def classTemps (cls : Nat) (m : Sys) : List Int := (m.power.temps.filter fun e => e.1 / 256 == cls).map (·.2)

/-- The class's hottest sensor. -/
def hottest (cls : Nat) (m : Sys) : Option Int := (classTemps cls m).foldl (fun a t => some (a.elim t (max t))) none

/-- A temperature as a signed 16-bit field; 0x8000 stands for one that is not there. -/
def tempBytes (t : Option Int) : List Byte := match t with
  | some t => leBytes 2 (t % 65536).toNat
  | none => [0x00, 0x80]

/-- Thresholds of R38 in °C: warn, throttle and critical. -/
def thresholds (cls : Nat) : Nat × Nat × Nat :=
  match cls with
  | 0 => (95, 100, 110)
  | 1 => (95, 100, 110)
  | 2 => (85, 90, 95)
  | 3 => (70, 75, 85)
  | 4 => (70, 75, 80)
  | _ => (60, 65, 75)

/-- The bin of a temperature in °C (R455). -/
def tempBin (deg : Int) : Nat := if deg < 30 then 0 else if 100 ≤ deg then 15 else (deg.toNat - 30) / 5 + 1

/-- Seconds in life at or above a threshold: every threshold is the edge of a bin (R449, R455). -/
def secsAbove (cls deg : Nat) (m : Sys) : Nat :=
  ((span (tempBin (deg : Int)) (16 - tempBin (deg : Int))).map fun b => total (56 + 16 * cls + b) m).sum

/-- The 16-byte record of a class (R449). -/
def classRecord (m : Sys) (cls : Nat) : List Byte :=
  tempBytes (hottest cls m) ++ tempBytes (tfind cls m.power.tempMax) ++ tempBytes (tfind cls m.power.tempLife) ++
    leBytes 2 (min 65535 (tget 0 cls m.power.critLife)) ++ leBytes 4 (min (2 ^ 32 - 1) (secsAbove cls (thresholds cls).1 m)) ++
    leBytes 4 (min (2 ^ 32 - 1) (secsAbove cls (thresholds cls).2.1 m))

/-- The history of a class: 16 hours that have elapsed, newest first (R449). -/
def classHistory (m : Sys) (cls : Nat) : List Byte :=
  let l := (tget [] cls m.power.tempHist).drop 1
  (List.range 16).flatMap fun i => tempBytes l[i]?

/-- The dummy fraction in life, 0.01 % (R449). -/
def dummyFraction (m : Sys) : Nat := total 31 m * 10000 / (total 30 m + total 31 m)

/-- Bytes 8 to 507 of the report in full mode (R449). -/
def healthBody (m : Sys) : List Byte :=
  let t (i : Nat) := total i m
  fitBytes 500
    (leBytes 8 (now m) ++ leBytes 4 (poweredSecs m / 3600) ++ leBytes 4 m.boot.lifeStarts ++
     leBytes 1 (spareLeft m) ++ leBytes 1 (min 255 (wearUsed m)) ++ leBytes 1 (min 255 (wearMax m)) ++ leBytes 1 m.flash.roCause.toNat ++
     leBytes 4 (t 52) ++ leBytes 8 (t 10) ++ leBytes 8 (t 22) ++ leBytes 8 (t 23) ++ leBytes 8 (t 24) ++ leBytes 8 (t 25) ++ leBytes 8 (t 26) ++
     leBytes 4 (halvesIn m) ++ leBytes 2 (coresIn m) ++ leBytes 2 (squaresIn m) ++ leBytes 2 m.power.energy.toNat ++
     leBytes 1 m.power.storeState.toNat ++ [0] ++ leBytes 2 (dummyFraction m) ++ leBytes 2 (sparesLeft m) ++
     ((List.range 8).flatMap fun p => leBytes 4 (min (2 ^ 32 - 1) (t (34 + p)))) ++ (List.range 6).flatMap (classRecord m) ++
     (List.range 6).flatMap (classHistory m))

/-- The health report (R449): in life-only mode bytes 8 to 507 are zero (R448). -/
def healthReport (m : Sys) : List Byte :=
  withCrc (leBytes 4 0x544C484A ++ leBytes 2 1 ++ leBytes 1 m.health.mode.toNat ++ leBytes 1 m.health.lifeLeft.toNat ++
    (if m.health.mode = 0 then healthBody m else zeros 500))

/-! ### The commands of R460 -/

/-- HEALTH_QUERY (R460). -/
def healthQuery (c : Cmd) (m : Sys) : Sys :=
  if c.length.toNat < 512 then endWith c stBadCommand m
  else deliver c (healthReport m) (resultOf [(40, leBytes 1 m.health.mode.toNat ++ leBytes 1 m.health.lifeLeft.toNat)]) m

/-- HEALTH_QUERY (R460). -/
def execHealthQuery (c : Cmd) (s : State) : Host.Outcome State Fault Refusal := done s (asCommand c (healthQuery c))

/-- LEDGER_READ (R460): whole pages of the window in ascending order, up to the head. -/
def ledgerRead (c : Cmd) (m : Sys) : Sys :=
  let len := c.length.toNat
  if len % 256 ≠ 0 ∨ 16777216 < len then endWith c stBadCommand m
  else
    let head := m.health.ledgerHead.toNat
    let low := max (par c 32 8) m.health.ledgerWin.toNat
    let l := (m.health.pages.filter fun e => decide (low ≤ e.1) && decide (e.1 ≤ head)).take (len / 256)
    deliver c (l.flatMap (·.2))
      (resultOf [(40, leBytes 8 ((l.head?.map (·.1)).getD 0)), (48, leBytes 8 head), (56, leBytes 4 l.length)]) m

/-- LEDGER_READ (R460). -/
def execLedgerRead (c : Cmd) (s : State) : Host.Outcome State Fault Refusal := done s (asCommand c (ledgerRead c))

/-- The command already waits for a ledger page. -/
def waitsForPage (c : Cmd) (m : Sys) : Bool := m.health.pageWaits.any fun e => sameCmd e.2.1 c

/-- A command waits until the newest page handed to the ledger is programmed. -/
def waitForPage (c : Cmd) (result : List Byte) : Sys → Sys := onHealth fun h =>
  { h with pageWaits := h.pageWaits ++ [(h.nextPage - 1, c, result)] }

/-- LEDGER_MARK (R460): a HOST_MARK record, durable at DONE. -/
def ledgerMark (c : Cmd) (m : Sys) : Sys :=
  if waitsForPage c m then m
  else if startupOrHoldup m then endWith c stReadOnly m
  else waitForPage c [] (appendRecords (ledgerRec 0x0E false (parBytes c 32 32) m))

/-- LEDGER_MARK (R460). -/
def execLedgerMark (c : Cmd) (s : State) : Host.Outcome State Fault Refusal := done s (asCommand c (ledgerMark c))

/-- LEDGER_CHECKPOINT (R460): a checkpoint, DONE when its six pages are programmed. -/
def ledgerCheckpoint (c : Cmd) (m : Sys) : Sys :=
  if waitsForPage c m then m
  else if startupOrHoldup m then endWith c stReadOnly m
  else
    let m := writeCheckpoint m
    waitForPage c (resultOf [(40, leBytes 8 (m.health.nextPage - 6))]) m

/-- LEDGER_CHECKPOINT (R460). -/
def execLedgerCheckpoint (c : Cmd) (s : State) : Host.Outcome State Fault Refusal := done s (asCommand c (ledgerCheckpoint c))

/-- LIFE_LEFT in the newest checkpoint (R448, R454). -/
def checkpointLife (m : Sys) : BitVec 8 :=
  BitVec.ofNat 8 (tget 0 162 (ledgerTotals (m.health.pages.filter fun e => decide (e.1 ≤ programmedPage m))))

/-- HEALTH_SELFTEST (R461): refused while a job is admitted or waits, outside P1, or while another runs. Health is then reported in life-only
mode, with the newest checkpoint's LIFE_LEFT (R448). -/
def healthSelftest (c : Cmd) (m : Sys) : Sys :=
  match m.health.selftest with
  | some d => if sameCmd d c then m else endWith c stBusy m
  | none =>
    if m.jobs.job.isSome ∨ m.jobs.queue ≠ [] ∨ m.power.current ≠ 1 then endWith c stBusy m
    else onHealth (fun h => { h with selftest := some c, mode := 1, lifeLeft := checkpointLife m }) m

/-- HEALTH_SELFTEST (R461). -/
def execHealthSelftest (c : Cmd) (s : State) : Host.Outcome State Fault Refusal := done s (asCommand c (healthSelftest c))

/-- The self-test's tests have all ended: the command completes with their counts, and health is reported in full again (R461). -/
def selftestEnds (domains lanes channels : Nat) (m : Sys) : Sys :=
  match m.health.selftest with
  | some c =>
    complete c (doneWith (resultOf [(40, leBytes 4 domains ++ leBytes 2 lanes ++ leBytes 2 channels)]))
      (onHealth (fun h => { h with selftest := none, mode := if m.boot.stage = stageServing then 0 else 1 }) m)
  | none => m

/-- SELFTEST_DONE (R461). -/
def execSelftestDone (domains : BitVec 32) (lanes channels : BitVec 16) (s : State) : Host.Outcome State Fault Refusal :=
  done s (whileLive (selftestEnds domains.toNat lanes.toNat channels.toNat))

/-! ### NOTICE_SEND (R442, R444, R445) -/

/-- The first pending notice goes to the rook; without an address or a rook it stays pending (R445). -/
def noticeSend (m : Sys) : Sys :=
  match m.health.notices, m.fabric.rookAddr with
  | n :: rest, some rook =>
    if !m.fabric.assigned then m
    else
      let h := m.health
      let b := { newBlock (ownAddr m) rook kEvent with
        host := true, ep := h.ep, body := noticeBytes (ownAddr m) (h.noticeSeq + 1) h.lostBefore n }
      let m := onHealth (fun h => { h with
        notices := rest, noticeSeq := h.noticeSeq + 1, sent := satInc h.sent, lostBefore := false,
        lastSent := tset n.code.toNat (now m) h.lastSent }) m
      if rook = ownAddr m then eventIn b m else sendBlock b m
  | _, _ => m

/-- NOTICE_SEND (R445). -/
def execNoticeSend (s : State) : Host.Outcome State Fault Refusal := done s (whileLive noticeSend)

/-! ### Domains under retest (R197, R459) -/

/-- The units that a domain's retest tests (R197). -/
def domainUnits : Domain → List TestUnit
  | .half c h => [.half c h]
  | .engine c e => [.half c (e ++ 0#1), .half c (e ++ 1#1)]
  | .core c => coreUnits c ++ [.link (c.extractLsb' 4 8)]
  | .square q => ((List.range 16).flatMap fun k => coreUnits (q ++ BitVec.ofNat 4 k)) ++ [.link q]
where
  /-- Every half-engine of a core, its vector unit, and its core store with its sequencer store. -/
  coreUnits (c : BitVec 12) : List TestUnit := ((List.range 16).map fun h => .half c (BitVec.ofNat 4 h)) ++ [.vector c, .store c]

/-- The halves of a core that domains out of service take out. -/
def halvesOut (l : List Domain) (core : Nat) : BitVec 16 :=
  l.foldl (fun b d => match d with
    | .half c h => if c.toNat = core then setBit b h.toNat true else b
    | .engine c e => if c.toNat = core then setBit (setBit b (2 * e.toNat) true) (2 * e.toNat + 1) true else b
    | _ => b) 0

/-- A domain that passed its retest returns to service, with a record (R197, R452). -/
def bringBack (d : Domain) (m : Sys) : Sys :=
  if !m.health.outNow.contains d || m.health.permanent.contains d then m
  else
    let l := m.health.outNow.filter (· != d)
    let m := onHealth (fun h => { h with outNow := l }) m
    let m := forEach (domainCores d) (fun n => onCore n fun x => { x with
      halfOut := halvesOut l n, coreOut := l.contains (.core (BitVec.ofNat 12 n)), squareOut := l.contains (.square (BitVec.ofNat 8 (n / 16))) }) m
    domainRec d true m

/-- CORE.CTRL.RETEST: a retest of the core's domains is asked for; one already pending takes it in (R193, R197). -/
def askRetest (core : Nat) : Sys → Sys := onCore core fun x => { x with retest := true }

/-- RETEST (R197). -/
def execRetest (core : BitVec 12) (s : State) : Host.Outcome State Fault Refusal := done s (whileLive (askRetest core.toNat))

/-- Retests asked for since the last tick are put at the head of their squares' slots (R459). -/
def takeRetests (m : Sys) : Sys :=
  let asked := (m.cores.filter fun e => e.2.retest).map (·.1)
  let l := m.health.outNow.filter fun d => !m.health.permanent.contains d && (domainCores d).any asked.contains &&
    !m.health.retests.any fun r => r.1 == d
  onHealth (fun h => { h with retests := h.retests ++ l.map fun d => (d, domainUnits d) })
    (onCores (tmap fun x => if x.retest then { x with retest := false } else x) m)

/-! ### IST_TICK (R456, R457, R459) -/

/-- The rotation slot of a unit: squares 0 to 255, ports from 256, channels from 264 (R456). -/
def unitSlot : TestUnit → Nat
  | .half c _ => c.toNat / 16
  | .vector c => c.toNat / 16
  | .lane p _ => 256 + p.toNat
  | .channel c => 264 + c.toNat
  | .store c => c.toNat / 16
  | .link q => q.toNat

/-- A compute unit may be tested: no tile and no task on it, and its cores not gated by a critical sensor (R38, R456). -/
def unitIdle (m : Sys) : TestUnit → Bool
  | .half c h => !m.power.coresHeld && halfFree (coreOf m c.toNat) h.toNat
  | .vector c => !m.power.coresHeld && (m.jobs.job.elim true fun j => !coreBusy j c.toNat)
  | .store c => !m.power.coresHeld && (m.jobs.job.elim true fun j => !coreBusy j c.toNat)
  | _ => true

/-- A unit is out of service, so that its turn in the rotation passes. -/
def unitOut (m : Sys) : TestUnit → Bool
  | .half c h => domainIsOut m (.half c h)
  | .vector c => !coreIn m c.toNat
  | _ => false

/-- Last lap of a slot and the laps it has completed. -/
def lapsOf (m : Sys) (slot : Nat) : Nat × Nat := tget (0, 0) (1024 + slot) m.health.rotation

/-- The laps that every one of these slots has completed. -/
def commonLaps (m : Sys) (slots : List Nat) : Nat := ((slots.map fun s => (lapsOf m s).2).min?).getD 0

/-- Close the laps of the chapter's registers after a slot has ended one (R456, R461 EVT.IST_LAP, R455 total 156). -/
def closeLaps (slot : Nat) (m : Sys) : Sys :=
  let tenMs (from_ : Nat) : BitVec 16 := satOf 16 ((now m - from_) / (10 * msTurns))
  if slot < 256 then
    let l := (List.range 256).filter fun q => !(coreOf m (16 * q)).squareOut
    onHealth (fun h => { h with computeLap := satOf 32 ((l.map fun q => (lapsOf m q).1).foldl max 0) })
      (setTotal 156 (max (total 156 m) (commonLaps m l)) m)
  else if slot < 264 then
    let n := commonLaps m (((List.range 8).filter fun p => (portOf m p).train == .up).map (256 + ·))
    if m.health.laneAt.1 < n then onHealth (fun h => { h with laneLap := tenMs h.laneAt.2, laneAt := (n, now m) }) m else m
  else
    let n := commonLaps m (((List.range 64).filter fun c => (chanOf m c).state == 2).map (264 + ·))
    if m.health.chanAt.1 < n then onHealth (fun h => { h with channelLap := tenMs h.chanAt.2, chanAt := (n, now m) }) m else m

/-- A slot's rotation goes on to its next unit; after `count` units a lap is complete. -/
def advanceSlot (slot count : Nat) (m : Sys) : Sys :=
  let r := tget (0, 0) slot m.health.rotation
  if r.1 + 1 < count then onHealth (fun h => { h with rotation := tset slot (r.1 + 1, r.2) h.rotation }) m
  else
    closeLaps slot (onHealth (fun h => { h with
      rotation := tset (1024 + slot) ((now m - r.2) / msTurns, (lapsOf m slot).2 + 1) (tset slot (0, now m) h.rotation) }) m)

/-- Start the test of a unit. -/
def startTest (u : TestUnit) : Sys → Sys := onHealth fun h => { h with tests := h.tests ++ [u] }

/-- The rotation's unit of a slot is tested, or its turn passes when it is out of service; one in use waits for the next tick. -/
def rotate (slot count : Nat) (u : TestUnit) (may : Bool) (m : Sys) : Sys :=
  if m.health.pause then m
  else if unitOut m u then advanceSlot slot count m
  else if may && unitIdle m u then startTest u (advanceSlot slot count m)
  else m

/-- The place of a slot in its rotation. -/
def slotAt (m : Sys) (slot : Nat) : Nat := (tget (0, 0) slot m.health.rotation).1

/-- A square's slot: a retest first, then the rotation over 16 cores of 16 halves and a vector unit (R456, R459). -/
def tickSquare (q : Nat) (m : Sys) : Sys :=
  if m.health.tests.any (fun u => unitSlot u == q) then m
  else match m.health.retests.findSome? fun r => r.2.find? fun u => unitSlot u == q && unitIdle m u with
    | some u => startTest u m
    | none =>
      let p := slotAt m q
      let c : BitVec 12 := BitVec.ofNat 12 (16 * q + p / 17)
      rotate q 272 (if p % 17 = 16 then .vector c else .half c (BitVec.ofNat 4 (p % 17))) true m

/-- A port's slot: its four lanes, while it is UP (R456). -/
def tickPort (p : Nat) (m : Sys) : Sys :=
  if m.health.tests.any (fun u => unitSlot u == 256 + p) then m
  else
    let lane := slotAt m (256 + p)
    let m' := rotate (256 + p) 4 (.lane (BitVec.ofNat 3 p) (BitVec.ofNat 2 lane)) ((portOf m p).train == .up) m
    if m'.health.tests.length = m.health.tests.length then m' else onPort p (fun x => { x with laneErr := tset lane 0 x.laneErr }) m'

/-- A channel's slot: one die after another, where no foreground read waits and nothing runs (R456). -/
def tickChannel (c : Nat) (m : Sys) : Sys :=
  if m.health.tests.any (fun u => unitSlot u == 264 + c) then m
  else
    let d := dieAt m (24 * c + slotAt m (264 + c))
    if d.out && !m.health.pause then advanceSlot (264 + c) 24 m
    else rotate (264 + c) 24 (.channel (BitVec.ofNat 6 c)) ((chanOf m c).state == 2 && d.queued == 0 && !d.busy) m

/-- One tick of 1 ms (R456): in P2 and P3, and before SERVING, no test runs. -/
def istTick (m : Sys) : Sys :=
  if m.boot.stage ≠ stageServing ∨ 2 ≤ m.power.current.toNat then m
  else
    forEach (List.range 64) tickChannel (forEach (List.range 8) tickPort (forEach (List.range 256) tickSquare (takeRetests m)))

/-- IST_TICK (R456). -/
def execIstTick (s : State) : Host.Outcome State Fault Refusal := done s (asEvent 9 istTick)

/-! ### IST_TEST_DONE, CHANNEL_RETRAIN_DONE (R458) -/

/-- DETAIL of TEST_FAIL (R443); a store or link is tested in a retest alone and raises none. -/
def testDetail (u : TestUnit) (code : Byte) : List Byte :=
  match u with
  | .store _ => []
  | .link _ => []
  | .half c h => [0] ++ leBytes 2 (16 * c.toNat + h.toNat) ++ [code]
  | .vector c => [1] ++ leBytes 2 c.toNat ++ [code]
  | .lane p l => [2] ++ leBytes 2 (4 * p.toNat + l.toNat) ++ [code]
  | .channel c => [3] ++ leBytes 2 c.toNat ++ [code]

/-- The event position's source number of a unit. -/
def testSource (u : TestUnit) : Nat := 0x1000000 + unitSlot u * 65536 + (match u with
  | .half c h => 16 * c.toNat + h.toNat
  | .vector c => c.toNat
  | .lane _ l => l.toNat
  | .channel c => c.toNat
  | .store c => c.toNat
  | .link q => q.toNat)

/-- A failed test is counted, recorded and told (R455, R458). -/
def tellFailure (u : TestUnit) (code : Byte) (m : Sys) : Sys :=
  let m := onHealth (fun h => match u with
    | .half _ _ => { h with halfFail := satInc h.halfFail }
    | .vector _ => { h with vectorFail := satInc h.vectorFail }
    | .lane _ _ => { h with laneFail := satInc h.laneFail }
    | .channel _ => { h with channelFail := satInc h.channelFail }
    | .store _ => h
    | .link _ => h) m
  let m := addTotal (match u with
    | .lane _ _ => 158
    | .channel _ => 159
    | _ => 157) 1 m
  notice 0x17 1 (testDetail u code) (ledgerRec 0x0F false (testDetail u code) m)

/-- A channel that is to be retrained begins once none of its dies is busy (R458). -/
def beginRetrain (c : Nat) (m : Sys) : Sys :=
  let x := chanOf m c
  if x.retrain && x.state == 2 && !(span (24 * c) 24).any (fun d => (dieAt m d).busy) then onChan c (fun x => { x with state := 1 }) m
  else m

/-- What a failed test brings about (R458). A retest that fails leaves its domain out; that is all that a failed store or link of a retest
does (R197). -/
def testFails (u : TestUnit) (code : Byte) (m : Sys) : Sys :=
  let m := onHealth (fun h => { h with retests := h.retests.filter fun r => !r.2.contains u }) m
  match u with
  | .half c h => coreFaultAs (fun _ => testDetail u code) (.half c h) 1 (tellFailure u code (takeEvent 5 m))
  | .vector c => coreFaultAs (fun _ => testDetail u code) (.core c) 5 (tellFailure u code (takeEvent 5 m))
  | .lane p l =>
    let bad := tget 0 l.toNat (portOf m p.toNat).laneBad + 1
    let m := onPort p.toNat (fun x => { x with laneBad := tset l.toNat (if bad < 2 then bad else 0) x.laneBad }) m
    if bad < 2 then m
    else enterRetrain p.toNat (eventRec 6 (testSource u) (testDetail u code) (tellFailure u code (takeEvent 5 m)))
  | .channel c =>
    let m := eventRec 6 (testSource u) (testDetail u code) (tellFailure u code (takeEvent 5 m))
    beginRetrain c.toNat (onChan c.toNat (fun x => { x with retrain := true }) m)
  | .store _ => m
  | .link _ => m

/-- A test has passed: a domain whose retest has passed every unit returns; a lane's run of bad tests ends (R197, R458). -/
def testPasses (u : TestUnit) (m : Sys) : Sys :=
  let l := m.health.retests.map fun r => (r.1, r.2.filter (· != u))
  let m := forEach ((l.filter fun r => r.2.isEmpty).map (·.1)) bringBack
    (onHealth (fun h => { h with retests := l.filter fun r => !r.2.isEmpty }) m)
  match u with
  | .lane p l => onPort p.toNat (fun x => { x with laneBad := tset l.toNat 0 x.laneBad }) m
  | _ => m

/-- A test's slots count as dummy slots: 4,096 cycles of 32 cells for a half-engine (R456, R457). -/
def testDummies (u : TestUnit) (m : Sys) : Sys :=
  match u with
  | .half c _ => addTotal 31 131072 (onCore c.toNat (fun x => { x with dummyPips := satAdd x.dummyPips 131072 }) m)
  | _ => m

/-- A test ends (R458). A self-test tests every unit besides (R461). -/
def istTestDone (u : TestUnit) (fail : Option Byte) (m : Sys) : Sys :=
  if !m.health.tests.contains u && m.health.selftest.isNone then m
  else
    let m := testDummies u (onHealth (fun h => { h with tests := h.tests.filter (· != u) }) m)
    match fail with
    | some code => testFails u code m
    | none => testPasses u m

/-- IST_TEST_DONE (R458). -/
def execIstTestDone (unit : TestUnit) (fail : Option Byte) (s : State) : Host.Outcome State Fault Refusal :=
  done s fun m => if live m then istTestDone unit fail m else if inHoldup m && fail.isSome then takeEvent 5 m else m

/-- The retraining of a channel ends: it is in service again, or out (R345, R347, R458). -/
def channelRetrained (c : Nat) (ok : Bool) (m : Sys) : Sys :=
  let m := beginRetrain c m
  if (chanOf m c).state ≠ 1 ∨ (chanOf m c).retrain = false then m
  else
    let m := onChan c (fun x => { x with retrain := false, state := 2 }) m
    if ok then m else channelLeaves c m

/-- CHANNEL_RETRAIN_DONE (R458). -/
def execChannelRetrainDone (chan : BitVec 6) (ok : Bool) (s : State) : Host.Outcome State Fault Refusal :=
  done s (whileLive (channelRetrained chan.toNat ok))

/-- EVT.IST_CTRL.PAUSE (R459). -/
def execIstPause (on : Bool) (s : State) : Host.Outcome State Fault Refusal :=
  done s (whileLive (onHealth fun h => { h with pause := on }))

end Sys2Proof.Machine
end

