-- ==== Sys2Proof/Machine/Reset.lean ====
section
/-!
DEFINITION. Starts and stops of the module: what survives, the restart, and the power-fail event (R34, R126, R139, R405, R406).
-/
namespace Sys2Proof.Machine

/-! ### What survives (R139, R406; log entry 7) -/

/-- Ledger pages that have been programmed. -/
def keptPages (m : Sys) : Tab (List Byte) := m.health.pages.filter fun e => decide (e.1 ≤ programmedPage m)

/-- Every volatile part at its reset value; fuses, boot store, flash and the ledger as they are (R406), and the management target, which
the standby rail feeds (R21, R22). -/
def cleared (m : Sys) : Sys :=
  let r := Sys.reset
  let elapsed := now m / msTurns
  { r with
    power := { r.power with
      path := m.power.path, run := m.power.run, epoArmed := m.power.epoArmed, i2cOffset := m.power.i2cOffset,
      epoLatch := m.power.epoLatch, tempLife := m.power.tempLife, critLife := m.power.critLife, exhausted := m.power.exhausted }
    flash := { r.flash with
      finalFlush := m.flash.finalFlush, chunkPtr := m.flash.chunkPtr,
      seq := if m.flash.mapState = 2 then max m.flash.journalSeq.toNat m.flash.keySeq else m.flash.seq,
      image := { m.flash.image with writing := m.flash.image.writing ++ partialOutputs m }, data := m.flash.data,
      tags := m.flash.programs.foldl (fun t p => tset (pageKey p.die p.block p.page) [] t) m.flash.tags,
      pageSeq := m.flash.pageSeq, dirty := m.flash.dirty.filter fun e => decide (e.2 ≤ m.flash.journalSeq.toNat),
      freeSeq := m.flash.image.freeSeq, keyTable := m.flash.keyTable, keySeq := m.flash.keySeq, keyValid := m.flash.keyValid,
      anchor := m.flash.anchor, dies := tmap (fun d => { dieReset with retired := d.retired }) m.flash.dies }
    boot := { r.boot with
      clockStarts := m.boot.clockStarts.map (· + elapsed), lifeStarts := m.boot.lifeStarts, lifeRecoveries := m.boot.lifeRecoveries,
      lifeHalts := m.boot.lifeHalts, cfg0 := m.boot.cfg0, cfg1 := m.boot.cfg1, svnFuses := m.boot.svnFuses, revFuses := m.boot.revFuses,
      image := m.boot.image, sectors := m.boot.sectors, sectorErases := m.boot.sectorErases, sectorsRetired := m.boot.sectorsRetired,
      ringOut := m.boot.ringOut }
    health := { r.health with
      pages := keptPages m, nextPage := programmedPage m + 1, totals := m.health.totals, signs := m.health.signs, outs := m.health.outs,
      outNow := m.health.outNow, permanent := m.health.permanent, failAddrs := m.health.failAddrs, draws := m.health.draws } }

/-- A start begins with its cause (R406): with the rails up the RAILS stage takes no time, and a rook's epochs advance (R126). A
VERIFIED staging image outlives an activation reset (R423). -/
def restart (cause : Nat) (railsUp : Bool) (m : Sys) : Sys :=
  let c := cleared m
  let keep := cause == 6 && m.boot.staging == 2
  let eps := if railsUp && m.fabric.rook then
      (List.range 16).map fun e => (e, { endpointReset with epoch := (epOf m e).epoch + 1 })
    else []
  { c with
    power := { c.power with run := .on }
    task := { c.task with eps }
    boot := { c.boot with
      cause := BitVec.ofNat 4 cause, stage := if railsUp then 1 else 0,
      staging := if keep then 2 else 0, stage4k := if keep then m.boot.stage4k else [] } }

/-- Records and pages on their way to the ledger are written before a reset with the rails up (R452; log entry 28). -/
def flushRecords (m : Sys) : Sys :=
  forEach (packRecords m.health.pendingRecs) writePage
    (onHealth (fun h => { h with pendingRecs := [] }) (onBoot (fun b => { b with op := none, opQueue := [] }) m))

/-! ### Ports (R48, R89) -/

/-- A port is UP. -/
def portUp (m : Sys) (p : Nat) : Bool := (portOf m p).train == .up

/-- A POWER_FAIL block goes out on every UP port, ahead of what waits there (R34, R89), outside the streams between modules
(DESIGN CHOICE, log entry 30: it has no destination whose stream could number it). -/
def sendPowerFail (m : Sys) : Sys :=
  forEach ((List.range 8).filter (portUp m)) (fun p m =>
    onPort p (fun x => { x with egress := sealBlock (newBlock (ownAddr m) x.peerAddr kPowerFail) :: x.egress }) m) m

/-- The frames with which a module leaves its neighbours before a reset: one turn's, POWER_FAIL in them (R126). -/
def partingFrames (m : Sys) : Tab Port :=
  let m := sendFrames (sendPowerFail m)
  (m.fabric.ports.filter fun e => !e.2.sent.isEmpty).map fun e => (e.1, { portReset with sent := e.2.sent })

/-- A module reset: the rails stay up (R406). Causes 0x4 to 0x7 send POWER_FAIL first; cause 0x3 sends nothing (R126). A halted module does
not leave its halt this way (R410). -/
def moduleReset (cause : Nat) (m : Sys) : Sys :=
  if m.boot.stage = stageHalted then m
  else
    let m := flushRecords m
    let left := if 4 ≤ cause ∧ cause ≤ 7 then partingFrames m else []
    onFabric (fun x => { x with ports := left }) (restart cause true m)

/-! ### Power-fail (R34, R405, R439) -/

/-- Erases in progress are abandoned, and their blocks are erased again (R34, R364). -/
def abandonErases (m : Sys) : Sys := onFlash (fun x => { x with
  blocks := tmap (fun b => if b.state = .erasing then { b with state := .erasePending } else b) x.blocks,
  dies := x.dies.map fun e => (e.1, { e.2 with
    busy := x.programs.any (·.die == e.1), suspended := false, window := false, queued := 0, served := 0, eraseWaits := none }) }) m

/-- Of the boot store's operations only a page program in progress goes on; pages not begun are lost (R405). -/
def abandonBootOps (m : Sys) : Sys :=
  let kept := m.boot.op.filter fun o => !erases o
  let last := programmedPage m + (if kept = some .ledgerPage then 1 else 0)
  onHealth (fun h => { h with
    pages := h.pages.filter fun e => decide (e.1 ≤ last), nextPage := last + 1, pendingRecs := [], pageWaits := [] })
    (onBoot (fun b => { b with op := kept, opQueue := [], readWaits := false, suspended := false, window := false, commit := none }) m)

/-- The power-fail event is taken: admission stops, jobs stop, neighbours are told, erases are abandoned, and the hold-up sequence
waits for the programs in flight (R34). -/
def powerFail (src : PfSource) (m : Sys) : Sys :=
  let m := sendPowerFail (takeEvent 0 m)
  let m := onTask (fun t => { t with stopped := true, eps := tmap (fun e => { e with credit := 0 }) t.eps }) m
  let m := onJobs (fun j => { j with job := none, queue := [] }) m
  let m := abandonBootOps (abandonErases m)
  onPower (fun p => { p with
    run := .holdPrograms, pfTurn := now m, pfSource := src, exhausted := false, entry := none, inTransition := false })
    (onFlash (fun x => { x with finalFlush := false }) m)

end Sys2Proof.Machine
end

