-- ==== Sys2Proof/Machine/Integrity.lean ====
section
/-!
DEFINITION. The scrubber, the merge buffers, errors outside tensors, and stacks that leave service (R390, R394 to R398).
-/
namespace Sys2Proof.Machine

/-! ### A stack out of service (R397) -/

/-- A stack leaves service: the data error event, POWER_FAIL to the neighbours, the journal flushed, the ledger entry, and a module
reset (R397). -/
def stackOut (stack cause : Nat) (m : Sys) : Sys :=
  let m := eventRec 5 0 [] (takeEvent 4 (onStack stack (fun x => { x with state := 4 }) m))
  let m := onTask (fun t => { t with stopped := true }) m
  let m := onFlash (fun x => { x with image := imageOf m, finalFlush := true }) m
  moduleReset 4 (ledgerRec 0x11 false (leBytes 1 stack ++ leBytes 1 cause) m)

/-- STACK_PHY_LOSS (R397): accesses wait while the PHY retrains. -/
def phyLoss (stack : Nat) (m : Sys) : Sys :=
  if (stackOf m stack).state = 2 then onStack stack (fun x => { x with state := 3, retrains := satInc x.retrains }) m else m

/-- STACK_PHY_LOSS (R397); it may happen during the hold-up sequence too (R398). -/
def execStackPhyLoss (stack : Fin 12) (s : State) : Host.Outcome State Fault Refusal :=
  done s fun m => if live m || inHoldup m then phyLoss stack.val m else m

/-- The stack is in service again, and the pieces that waited for it are written (R397). -/
def retrainDone (stack : Nat) (m : Sys) : Sys :=
  let m := onStack stack (fun x => { x with state := 2 }) m
  onlyIf (live m) (fun m => forEach ((m.task.fetches.filter fun f => !f.blocked.isEmpty).map fun f => tnumOf f.cmd.tensor) releaseBlocked m) m

/-- STACK_RETRAIN_DONE (R397). -/
def execStackRetrainDone (stack : Fin 12) (s : State) : Host.Outcome State Fault Refusal :=
  done s fun m => if (live m || inHoldup m) && retrains m stack.val then retrainDone stack.val m else m

/-- A retrain has failed: the stack leaves service; in the hold-up sequence the final flush uses the surviving journal copy
(R397, R398). -/
def retrainFails (stack : Nat) (m : Sys) : Sys :=
  if (stackOf m stack).state ≠ 3 then m
  else if live m then stackOut stack 0 m
  else if inHoldup m then takeEvent 4 (onStack stack (fun x => { x with state := 4 }) m)
  else m

/-- STACK_RETRAIN_TIMEOUT (R397). -/
def execStackRetrainTimeout (stack : Fin 12) (s : State) : Host.Outcome State Fault Refusal := done s (retrainFails stack.val)

/-- A stack of which 64 distinct lines were found uncorrectable within 1 s (R397). -/
def badStack (m : Sys) : Option Nat := (List.range 12).find? fun s =>
  decide (64 ≤ ((stackOf m s).badLines.filter fun e => decide (now m < e.2 + secTurns)).length)

/-! ### Laps of the scrubber (R394, R395) -/

/-- Words of T1: 384 GiB. -/
def t1Words : Nat := 384 * 2 ^ 27
/-- Words of one core store: 512 KiB. -/
def storeWords : Nat := 65536

/-- One more word of T1 has been scrubbed: the lap's end is reported and recorded (R395, R405, R452, R455). -/
def countT1 (m : Sys) : Sys :=
  let x := m.integrity
  if x.t1At + 1 < t1Words then onIntegrity (fun x => { x with t1At := x.t1At + 1 }) m
  else
    let secs := (now m - x.t1Start) / secTurns
    let m := onIntegrity (fun x => { x with
      t1At := 0, t1Start := now m, t1Lap := satOf 32 secs, t1Laps := satInc x.t1Laps, scrubSlow := false }) m
    ledgerRec 0x0D false (leBytes 4 secs)
      (addTotal 154 1 (setTotal 153 (max (total 153 m) secs) (setTotal 152 secs m)))

/-- One more word of the core stores has been scrubbed; the lap ends when each store in service has had its words (R395). -/
def countT0 (m : Sys) : Sys :=
  let x := m.integrity
  if x.t0At + 1 < storeWords * (servingCores m).length then onIntegrity (fun x => { x with t0At := x.t0At + 1 }) m
  else
    let ms := (now m - x.t0Start) / msTurns
    let m := onIntegrity (fun x => { x with t0At := 0, t0Start := now m, t0Lap := satOf 16 ms }) m
    setTotal 155 (max (total 155 m) ms) m

/-! ### Scrubbing a word (R394, R396) -/

/-- A corrected word found by the scrubber (R384, R455). -/
def scrubCorrected (h : WordHome) (m : Sys) : Sys := addTotal 27 1 (countCorrected h m)

/-- Count the lap of a place. -/
def countLap : WordHome → Sys → Sys
  | .stack _, m => countT1 m
  | .core _, m => countT0 m
  | .elsewhere, m => m

/-- The word lies in a stack or core store in service (R394). -/
def scrubbed (m : Sys) : WordHome → Bool
  | .stack s => (stackOf m s).state == 2
  | .core n => coreIn m n
  | .elsewhere => false

/-- Scrub a word of a tensor's home or copy, or of the destination of its motion (R166, R167, R394). An uncorrectable word in a sealed copy
that is being made ends the copy (R155, R398). -/
def scrubTensor (n w : Nat) (s : Source) (m : Sys) : Sys :=
  match tensorOf m n with
  | none => m
  | some t =>
    let h := wordHome (placeAt t s) w
    if !scrubbed m h || decide (t.size ≤ 8 * w) || t.state == .lost then m
    else
      let m := countLap h m
      let put (x : MemWord) := setTensor n (withStore t ((storeAt t s).put w x) s)
      match classify ((storeAt t s).word w) with
      | .correctable d => scrubCorrected h (put (goodWord d) m)
      | .uncorrectable =>
        let m := countUncorrectable h (n * 2 ^ 40 + w / 8) (put poisonedWord m)
        (match s with
          | .copy1 => lostCopy (dropCopy1 n m)
          | .copy0 => lostCopy (dropCopy0 n m)
          | .dest => if t.isSealed then lostCopy (retryWaits (abandonMotion n m)) else damage n (8 * w / unitSize) (tensorAddr n (8 * w)) m
          | .home => damage n (8 * w / unitSize) (tensorAddr n (8 * w)) m)
      | _ => m

/-- What the scrubber makes of a word outside tensors: `bad` is carried out for an uncorrectable or poisoned one (R394, R396). Its line
is not known: a free value (log entry 2). -/
def scrubWord (h : WordHome) (data : Word) (check : Byte) (bad : Sys → Sys) (m : Sys) : Sys :=
  if !scrubbed m h then m
  else
  let m := countLap h m
  match classify { data, check } with
  | .correctable _ => scrubCorrected h m
  | .uncorrectable =>
    let v := draw m
    bad (countUncorrectable h (2 ^ 64 + v.1.toNat) v.2)
  | .poisoned => bad m
  | _ => m

/-- A repair in the firmware or map reserve (R396). -/
def countRepair : Sys → Sys := onIntegrity fun x => { x with repairs := satInc x.repairs }

/-- A sequencer word fails: a core fault of the core (R194, R396). -/
def sequencerFails (core : BitVec 12) (m : Sys) : Sys :=
  coreFault (domainOf .sequencer core 0) (detectorBit .sequencer) (takeEvent 5 m)

/-- A movable tensor's table entry is lost with it; a sealed one's is reloaded (R396). -/
def entryFails (n : Nat) (m : Sys) : Sys :=
  match tensorOf m n with
  | some t => if t.isSealed then countRepair m else loseTensor n 2 (takeEvent 4 m)
  | none => countRepair m

/-- A word of the replay store fails: a block of the virtual channel is treated as dropped; which one the manual leaves to where the
word lies (R67, R396; log entry 2). -/
def replayFails (vc : BitVec 2) (m : Sys) : Sys :=
  let l := m.fabric.tx.flatMap fun e => if e.1.vc = vc then e.2.unacked.map fun b => (e.1, b) else []
  let v := draw m
  match l[v.1.toNat % l.length]? with
  | some (k, b) =>
    let t := txOf v.2 k
    dropBlock b (setTx k { t with unacked := t.unacked.filter (· != b) } v.2)
  | none => v.2

/-- A word of the firmware fails: it is reloaded; in the reload path itself a module reset follows, unless a second copy serves
(R396, R422). -/
def firmwareFails (inReloadPath : Bool) (m : Sys) : Sys :=
  let m := countRepair m
  if inReloadPath && m.boot.imageValid then moduleReset 5 m else m

/-- The unit of a word has been written at the destination of its tensor's motion (R150). -/
def arrived (m : Sys) (n w : Nat) : Bool := match (tensorOf m n).bind (·.motion) with
  | some mo => mo.started && decide (8 * w / unitSize < mo.next) && !mo.window.contains (8 * w / unitSize)
  | none => false

/-- The scrubber reads the next word (R394). It does not run in P2, where T1 refreshes itself and the cores are off. -/
def scrub (loc : WordLoc) (m : Sys) : Sys :=
  if m.power.current = 2 ∧ m.power.exiting = false then m
  else match loc with
    | .home n w => scrubTensor n.toNat w .home m
    | .copy1 n w => scrubTensor n.toNat w .copy1 m
    | .copy0 n w => scrubTensor n.toNat w .copy0 m
    | .dest n w => if arrived m n.toNat w then scrubTensor n.toNat w .dest m else m
    | .sequencer core d c => scrubWord (.core core.toNat) d c (sequencerFails core) m
    | .freeCore core d c => scrubWord (.core core.toNat) d c id m
    | .free s d c => scrubWord (.stack s.val) d c id m
    | .mapReserve s d c => scrubWord (.stack s.val) d c countRepair m
    | .tableEntry n d c =>
      let v := draw m
      scrubWord (.stack (v.1.toNat % 12)) d c (entryFails n.toNat) v.2
    | .replayStore s vc d c => scrubWord (.stack s.val) d c (fun m => countRepair (replayFails vc m)) m
    | .staging s d c => scrubWord (.stack s.val) d c countRepair m
    | .firmware s reload d c => scrubWord (.stack s.val) d c (firmwareFails reload) m

/-- SCRUB (R394). -/
def execScrub (loc : WordLoc) (s : State) : Host.Outcome State Fault Refusal := done s (whileLive (scrub loc))

/-- SCRUB_SLOW (R395). -/
def execScrubSlow (s : State) : Host.Outcome State Fault Refusal :=
  done s (asEvent 9 fun m =>
    if m.integrity.scrubSlow then m
    else notice 0x0D 1 (leBytes 4 ((now m - m.integrity.t1Start) / (3600 * secTurns))) (onIntegrity (fun x => { x with scrubSlow := true }) m))

/-! ### Merge buffers (R390) -/

/-- Entries of a stack's merge buffer in use: its distinct lines. -/
def mergeLines (m : Sys) (h : WordHome) : List (TNum × Nat) :=
  ((m.integrity.merge.filter fun e => match tensorOf m e.tensor.toNat with
    | some t => wordHome t.place e.word == h
    | none => false).map fun e => (e.tensor, e.word / 8)).eraseDups

/-- Entries of a core store's merge buffer in use. -/
def mergeWords (m : Sys) (h : WordHome) : List MergeEntry := m.integrity.merge.filter fun e => match tensorOf m e.tensor.toNat with
  | some t => wordHome t.place e.word == h
  | none => false

/-- A narrow write finds an entry: its own word's or line's, or a free one (R390). -/
def mergeRoom (m : Sys) (n : TNum) (w : Nat) (h : WordHome) : Bool :=
  match h with
  | .stack _ => (mergeLines m h).contains (n, w / 8) || decide ((mergeLines m h).length < 32)
  | .core _ => m.integrity.merge.contains { tensor := n, word := w } || decide ((mergeWords m h).length < 4)
  | .elsewhere => true

/-- A narrow write merges into one word of a movable tensor and is written back; its entry drains with the turn (R389, R390). A full
buffer, or a unit in a motion's window, makes it wait (R151, R390). -/
def narrowWrite (n : TNum) (off : Nat) (data : List Byte) (m : Sys) : Sys :=
  match tensorOf m n.toNat with
  | none => m
  | some t =>
    let w := off / 8
    let h := wordHome (placeAt t ((sourcesOf t (off / unitSize)).headD .home)) w
    if data.isEmpty ∨ 8 ≤ data.length ∨ w ≠ (off + data.length - 1) / 8 ∨ t.size < off + data.length ∨ t.isSealed = true ∨
        t.state = .lost ∨ inWindow t off data.length = true ∨ stackWaits m t off data.length = true ∨ mergeRoom m n w h = false then m
    else
      let e : MergeEntry := { tensor := n, word := w }
      let m := onIntegrity (fun x => { x with merge := if x.merge.contains e then x.merge else x.merge ++ [e] }) m
      (writePiece n.toNat off data m).2

/-- NARROW_WRITE_MERGE (R390). -/
def execNarrowWriteMerge (tensor : TNum) (off : BitVec 40) (data : List Byte) (s : State) : Host.Outcome State Fault Refusal :=
  done s (whileLive (narrowWrite tensor off.toNat data))

/-! ### Rows of the event and of the counters -/

/-- UNCORRECTABLE_DATA_ERROR (R167): the event is counted where a tensor's home takes new damage. -/
def execUncorrectableDataError (tensor : TNum) (unit : Nat) (s : State) : Host.Outcome State Fault Refusal :=
  done s fun m =>
    if live m then damage tensor.toNat unit (tensorAddr tensor.toNat (unit * unitSize)) m
    else if inHoldup m then takeEvent 4 m
    else m

/-- ECC_CNT_CLR (R9). -/
def clearEcc (m : Sys) : Sys :=
  onCores (tmap fun c => { c with eccCorr := 0, eccUncorr := 0 })
    (onIntegrity (fun x => { x with
      copyDrops := 0, notWritten := 0, mergeUncorr := 0, repairs := 0, stackTab := tmap (fun s => { s with corrected := 0, uncorr := 0 }) x.stackTab }) m)

/-- ECC_CNT_CLR (R9). -/
def execEccCntClr (s : State) : Host.Outcome State Fault Refusal := done s (whileLive clearEcc)

end Sys2Proof.Machine
end

