-- ==== Sys2Proof/Machine/CmdTable.lean ====
section
/-!
DEFINITION. The effect of a command by its opcode, for a command that waited and is now run (R32, R98, R121).
-/
namespace Sys2Proof.Machine

/-- The commands of the chapters on tasks, plans and search by opcode (R98, R283, R309). -/
def jobEffect (c : Cmd) : Nat → Option (Sys → Sys)
  | 0x00 => some (nopCmd c)
  | 0x01 => some (readCmd c)
  | 0x02 => some (writeCmd c)
  | 0x08 => some (powerStateCmd c)
  | 0x0A => some (abortTagCmd c)
  | 0x10 => some (jobSubmit c)
  | 0x11 => some (jobEndCmd c)
  | 0x12 => some (jobQuery c)
  | 0x18 => some (ctxOpen c)
  | 0x19 => some (ctxClose c)
  | 0x20 => some (indexCreate c)
  | 0x21 => some (indexDrop c)
  | 0x22 => some (indexQuery c)
  | 0x24 => some (searchCmd c)
  | 0x25 => some (indexInsert c)
  | 0x26 => some (indexDelete c)
  | 0x27 => some (indexMerge c)
  | _ => none

/-- The commands of the chapters on tensors and flash by opcode (R142, R378). -/
def tensorEffect (c : Cmd) : Nat → Option (Sys → Sys)
  | 0x30 => some (tensorCmd c false fun n => createOp (.cmd c) n c.param)
  | 0x31 => some (tensorCmd c true fun n => deleteOp (.cmd c) n false)
  | 0x32 => some (tensorCmd c false fun n => moveAsk (.cmd c) n c.param)
  | 0x33 => some (tensorCmd c false fun n => dropOp (.cmd c) n c.param)
  | 0x34 => some (tensorCmd c false fun n => pinOp (.cmd c) n)
  | 0x35 => some (tensorCmd c false fun n => unpinOp (.cmd c) n)
  | 0x36 => some (tensorCmd c true fun n => sealNow (.cmd c) n (nsOf c.param))
  | 0x37 => some (appendCmd c)
  | 0x38 => some (tensorCmd c true fun n => closeOp (.cmd c) n)
  | 0x39 => some (queryCmd c)
  | 0x50 => some (nsCreate c)
  | 0x51 => some (nsDelete c)
  | 0x52 => some (nsQuery c)
  | 0x58 => some (mediaQuery c)
  | 0x59 => some (mediaFlush c)
  | _ => none

/-- The commands of the chapters on firmware and health by opcode (R415, R460). -/
def firmwareEffect (c : Cmd) : Nat → Option (Sys → Sys)
  | 0x60 => some fun m => complete c (doneWith (fwQueryResult m)) m
  | 0x61 => some (fwLoad c)
  | 0x62 => some (fwVerify c)
  | 0x63 => some (fwCommit c)
  | 0x64 => some (fwActivate c)
  | 0x65 => some (fwFetch c)
  | 0x66 => some (fwDiscard c)
  | 0x68 => some (attestCmd c)
  | 0x69 => some (certRead c)
  | 0x6A => some (calRead c)
  | 0x6C => some (cfgRead c)
  | 0x6D => some (cfgWrite c)
  | 0x70 => some (healthQuery c)
  | 0x71 => some (ledgerRead c)
  | 0x72 => some (ledgerMark c)
  | 0x73 => some (ledgerCheckpoint c)
  | 0x74 => some (healthSelftest c)
  | _ => none

/-- Run a command that waited: its own effect, by its opcode; an opcode that is not assigned is BAD_COMMAND (R98, R99). -/
def runCommand (c : Cmd) (m : Sys) : Sys :=
  let o := c.opcode.toNat
  match ((jobEffect c o).orElse fun _ => tensorEffect c o).orElse fun _ => firmwareEffect c o with
  | some f => asCommand c f m
  | none => endWith c stBadCommand m

end Sys2Proof.Machine
end

