-- ==== Sys2Proof/Machine/PowerRows.lean ====
section
/-!
DEFINITION. Input power, emergency power-off, the hold-up sequence and its store, the power cap, sensors and thermal limits, and the
exits of power states (R19 to R41, R119 to R121, R440, R468, R469).
-/
namespace Sys2Proof.Machine

/-! ### The management pin-pair (R21, R22, R31) -/

/-- The module goes off for good until it is started: emergency power-off away from the hold-up sequence. -/
def turnOff (m : Sys) : Sys := cleared (onPower (fun p => { p with run := .off }) m)

/-- Emergency power-off fires: the main switch opens, the latch is set, and the power-fail event follows; a module that is off already
stays off (R22). -/
def fireEpo (m : Sys) : Sys :=
  let m := onPower (fun p => { p with epoArmed := false, epoLatch := true, path := .opened }) m
  if live m then powerFail .emergencyOff m
  else if inHoldup m then takeEvent 0 m
  else turnOff m

/-- The main switch can join VIN: VIN has mated, and no pre-charge period runs (R24). -/
def switchMay (m : Sys) : Bool := m.power.path == .opened || m.power.path == .closed

/-- The module may be started by 0x5A at offset 0x41: its latch is set and it is off, or it is in P3 (R22, R31). DEDUCED: without VIN
or inside the pre-charge period R24 keeps the switch open, and the write starts nothing (log entry 35). -/
def restartable (m : Sys) : Bool := switchMay m && ((m.power.epoLatch && m.power.run == .off) || m.power.run == .offline)

/-- A start with its main switch joined and no latch, from the RAILS stage. -/
def startUp (cause : Nat) (m : Sys) : Sys :=
  restart cause false (onPower (fun p => { p with path := .closed, epoLatch := false, lowForSecond := false }) m)

/-- 0x5A at offset 0x41 (R22, R31). -/
def i2cStart (m : Sys) : Sys :=
  let m := onPower (fun p => { p with epoArmed := false }) m
  if restartable m then startUp 2 m else m

/-- An I²C write (R21, R22): 0xE5 at 0x40 arms; 0x5E fires what is armed; any other write disarms. The offset is the one that
later reads start from. -/
def i2cWrite (offset value : Byte) (m : Sys) : Sys :=
  let m := onPower (fun p => { p with i2cOffset := offset }) m
  if offset = 0x40 ∧ value = 0xE5 then onPower (fun p => { p with epoArmed := true }) m
  else if offset = 0x40 ∧ value = 0x5E ∧ m.power.epoArmed = true then fireEpo m
  else if offset = 0x41 ∧ value = 0x5A then i2cStart m
  else onPower (fun p => { p with epoArmed := false }) m

/-- The status byte at I²C offset 0x01 (R21). DEDUCED: class 5 is critical while its critical action is in force, from the critical
threshold until every sensor is below throttle (R41), and not only at the threshold (log entry 35). DESIGN CHOICE: while the module is
off or waits for its input, which is none of the four power states, bits [4:3] show the reset value 1 of CURRENT (log entry 35). -/
def i2cStatus (m : Sys) : Nat :=
  flagAt (5000 ≤ m.power.vin.toNat && m.power.vin.toNat ≤ 6000) 0 + flagAt (inHoldup m) 1 + flagAt m.power.epoLatch 2 +
    8 * m.power.current.toNat + flagAt (m.power.storeUsable && !m.power.critActs.getLsbD 5) 5

/-- The part number in ASCII, "JXV6-307T", padded with spaces (R21). -/
def partNumber : List Byte := [0x4A, 0x58, 0x56, 0x36, 0x2D, 0x33, 0x30, 0x37, 0x54] ++ List.replicate 7 0x20

/-- What a read of an I²C offset returns; offsets not listed read zero (R21, R400). -/
def i2cByte (offset : Nat) (m : Sys) : Byte :=
  if offset = 0 then 0x56
  else if offset = 1 then BitVec.ofNat 8 (i2cStatus m)
  else if 0x10 ≤ offset ∧ offset < 0x20 then partNumber.getD (offset - 0x10) 0
  else if 0x20 ≤ offset ∧ offset < 0x31 then Config.calRow (offset - 0x10)
  else 0

/-- An I²C read: the byte at the offset pointer, which moves on by one; it disarms nothing (R21, R22). No row of the table is a read,
so a reader applies this to the state it finds (log entry 35). -/
def i2cRead (m : Sys) : Byte × Sys :=
  (i2cByte m.power.i2cOffset.toNat m, onPower (fun p => { p with i2cOffset := p.i2cOffset + 1 }) m)

/-- EMERGENCY_POWER_OFF_ARM (R22). -/
def execEmergencyPowerOffArm (offset value : Byte) (s : State) : Host.Outcome State Fault Refusal := done s (i2cWrite offset value)

/-- EMERGENCY_POWER_OFF (R22): the write of 0x5E. -/
def execEmergencyPowerOff (s : State) : Host.Outcome State Fault Refusal := done s (i2cWrite 0x40 0x5E)

/-- EPO_ARM_TIMEOUT (R22). -/
def execEpoArmTimeout (s : State) : Host.Outcome State Fault Refusal := done s (onPower fun p => { p with epoArmed := false })

/-- I2C_RESTART (R22, R31). -/
def execI2cRestart (s : State) : Host.Outcome State Fault Refusal := done s i2cStart

/-! ### The input (R19, R22 to R24) -/

/-- VIN_PRE mates: a module that was out of its slot begins to charge its input capacitance (R24). -/
def preMate (m : Sys) : Sys :=
  if live m || inHoldup m then m else onPower (fun p => { p with path := .precharging, run := .off }) m

/-- VIN_PRE_MATE (R24). -/
def execVinPreMate (s : State) : Host.Outcome State Fault Refusal := done s preMate

/-- PRECHARGE_END (R24): the switch joins VIN only if VIN has mated by then; otherwise it joins only after another insertion. -/
def execPrechargeEnd (vinMated : Bool) (s : State) : Host.Outcome State Fault Refusal :=
  done s (onPower fun p => if p.path = .precharging then { p with path := if vinMated then .closed else .unmated } else p)

/-- VIN rises through 47.0 V: a module that is off starts, and one in P3 whose input had been low for 1 s; not while the latch is set,
nor before the switch may join (R22, R23, R31). -/
def vinRises (mv : Nat) (m : Sys) : Sys :=
  let p := m.power
  if 47000 ≤ mv ∧ p.epoLatch = false ∧ switchMay m = true ∧
      (p.run = .off ∨ (p.run = .offline ∧ p.lowForSecond = true)) then startUp 0 m
  else m

/-- VIN_START (R23). -/
def execVinStart (mv : Nat) (s : State) : Host.Outcome State Fault Refusal := done s (vinRises mv)

/-- The input has been below 45.0 V for 1 s: the latch is cleared, and the next rise starts the module (R22, R31). -/
def inputLow (m : Sys) : Sys :=
  if live m || inHoldup m then m else onPower (fun p => { p with epoLatch := false, lowForSecond := true }) m

/-- INPUT_LOW_1S (R22). -/
def execInputLow1s (s : State) : Host.Outcome State Fault Refusal := done s inputLow

/-- The power-fail event of a source (R34): above 62.0 V the main switch opens, whether the module runs or not (R23), and emergency
power-off opens and latches it. In a hold-up sequence it is only counted (R439), and a hub without power takes no event. -/
def takePowerFail (src : PfSource) (m : Sys) : Sys :=
  let m := onPower (fun p => { p with
    path := if (src = .inputHigh ∧ switchMay m = true) ∨ (src = .emergencyOff ∧ (live m || inHoldup m) = true) then .opened else p.path,
    epoLatch := p.epoLatch || (src == .emergencyOff && (live m || inHoldup m)) }) m
  if live m then powerFail src m else if inHoldup m then takeEvent 0 m else m

/-- The input voltage, in mV, is beyond the threshold of its source (R23). -/
def trips (src : PfSource) (mv : Nat) : Bool :=
  match src with
  | .inputLow => decide (mv < 45000)
  | .inputHigh => decide (62000 < mv)
  | _ => true

/-- POWER_FAIL (R34). The row "above 62.0 V" of R23 has no upper limit. DESIGN CHOICE: what an input above 80 V damages is not said,
and the model's module takes the row's effect and nothing more (log entry 38). -/
def execPowerFail (src : PfSource) (mv : Nat) (s : State) : Host.Outcome State Fault Refusal :=
  done s fun m => if trips src mv then takePowerFail src m else m

/-! ### The hold-up sequence (R34, R36, R40, R440) -/

/-- The programs in flight have completed, and the final journal flush begins; a flush in progress ends with them. A map that was not
yet rebuilt has no records (R34, R434). -/
def programsDone (m : Sys) : Sys :=
  if m.power.run ≠ .holdPrograms ∨ m.flash.programs ≠ [] then m
  else
    let m := onPower (fun p => { p with run := .holdFlush }) m
    if mapRuns m then startFlush (finishFlush 0 m) else m

/-- HOLDUP_PROGRAMS_DONE (R34). -/
def execHoldupProgramsDone (s : State) : Host.Outcome State Fault Refusal := done s programsDone

/-- The final journal flush has been programmed: every record is durable (R34, R366, R452). The sequence waits for a stack that retrains
(R398). -/
def finalFlushDone (m : Sys) : Sys :=
  if m.power.run ≠ .holdFlush ∨ m.integrity.stackTab.any (·.2.state == 3) = true then m
  else
    let m := if mapRuns m then onFlash (fun x => { x with finalFlush := true }) (finishFlush 0 m) else m
    onPower (fun p => { p with run := .holdLedger, pfFlushTurns := now m - p.pfTurn }) m

/-- FINAL_JOURNAL_FLUSH_DONE (R34). -/
def execFinalJournalFlushDone (s : State) : Host.Outcome State Fault Refusal := done s finalFlushDone

/-- The code of a power-fail source (R452). -/
def sourceCode : PfSource → Nat
  | .inputLow => 0
  | .inputHigh => 1
  | .emergencyOff => 2
  | .thermalShutdown => 3

/-- The converters stop: the module is off, in P3 after a thermal shutdown, or waits for its input (R22, R34, R36, R40). -/
def converters (m : Sys) : Sys :=
  let run : RunState :=
    if m.power.epoLatch then .off else if m.power.pfSource = .thermalShutdown then .offline else .waitInput
  let m := cleared (onPower (fun p => { p with run }) m)
  if run = .offline then onPower (fun p => { p with current := 3, target := 3 }) m else m

/-- The power-fail entry of the ledger: the POWER_FAIL record, then parts 0 and 1 of the checkpoint (R34, R452, R454). -/
def writeEntry (m : Sys) : Sys :=
  let p := m.power
  let m := writeRecord 0x04 false (leBytes 1 (sourceCode p.pfSource) ++ zeros 3 ++ leBytes 4 p.pfFlushTurns ++ leBytes 2 p.energy.toNat ++
    zeros 2 ++ leBytes 8 m.flash.journalSeq.toNat) m
  writePage (checkpointPart m 1) (writePage (checkpointPart m 0) m)

/-- The ledger entry has been written (R34): a page program that was in progress has completed before it (R405). -/
def holdupEnds (m : Sys) : Sys :=
  if m.power.run ≠ .holdLedger then m
  else converters (writeEntry (onBoot (fun b => { b with op := none, opQueue := [] }) m))

/-- HOLDUP_LEDGER_DONE (R34). -/
def execHoldupLedgerDone (s : State) : Host.Outcome State Fault Refusal := done s holdupEnds

/-- The store is exhausted in the sequence: programs in flight are abandoned, the ledger entry is not written, and the converters stop
(R440). -/
def exhausted (m : Sys) : Sys :=
  if !inHoldup m then m
  else
    let m := takeEvent 1 m
    let m := onHealth (fun h => { h with
      pages := h.pages.filter fun e => decide (e.1 ≤ programmedPage m), nextPage := programmedPage m + 1 }) m
    let m := onBoot (fun b => { b with op := none, opQueue := [] }) (onFlash (fun x => { x with programs := [], flushing := none }) m)
    converters (onPower (fun p => { p with exhausted := true }) m)

/-- HOLDUP_EXHAUSTION (R440). -/
def execHoldupExhaustion (s : State) : Host.Outcome State Fault Refusal := done s exhausted

/-- HOLDUP_RESTART (R36): the input has been good for 100 ms after the sequence. -/
def execHoldupRestart (s : State) : Host.Outcome State Fault Refusal :=
  done s fun m => if m.power.run = .waitInput then startUp 1 m else m

/-- INPUT_INTERRUPTION (R36): the 100 ms begin again, which the restart's own event tells; an input above 62.0 V opens the switch
(R23). -/
def execInputInterruption (mv : Nat) (s : State) : Host.Outcome State Fault Refusal :=
  done s fun m => if m.power.run = .waitInput ∧ 62000 < mv then onPower (fun p => { p with path := .opened }) m else m

/-! ### The store's measurements (R24, R35, R41) -/

/-- The store changes state: a HOLDUP_STATE notice (R443). -/
def setStoreState (st : Nat) (m : Sys) : Sys :=
  if m.power.storeState.toNat = st then m
  else
    let m := onPower (fun p => { p with storeState := BitVec.ofNat 4 st }) m
    notice 0x09 (if st = 3 then 3 else if st = 2 then 2 else 1) (leBytes 1 st ++ leBytes 2 m.power.energy.toNat) m

/-- A measurement begins (R35). -/
def beginMeasure (m : Sys) : Sys :=
  if m.power.charged && m.power.storeState != 4 then
    setStoreState 4 (onPower (fun p => { p with storeBefore := p.storeState }) m)
  else m

/-- The store is charged, and the start's first measurement begins (R24, R35). -/
def storeCharged (m : Sys) : Sys := if m.power.charged then m else beginMeasure (onPower (fun p => { p with charged := true }) m)

/-- HOLDUP_CHARGED (R24). -/
def execHoldupCharged (s : State) : Host.Outcome State Fault Refusal := done s (whileLive storeCharged)

/-- HOLDUP_MEASUREMENT (R35): a timer of 24 h. -/
def execHoldupMeasurement (s : State) : Host.Outcome State Fault Refusal := done s (asEvent 10 beginMeasure)

/-- The state that a measured energy, in 10 mJ, gives (R35). -/
def storeFor (energy : Nat) : Nat := if 1600 ≤ energy then 1 else if 1400 ≤ energy then 2 else 3

/-- A class's critical action is in force. -/
def critAct (cls : Nat) (m : Sys) : Bool := m.power.critActs.getLsbD cls

/-- A measurement ends: the store's state, the read-only causes STARTUP and HOLDUP, and the totals follow (R35, R41, R375, R455). -/
def measured (energy : BitVec 16) (m : Sys) : Sys :=
  if m.power.storeState ≠ 4 then m
  else
    let e := energy.toNat
    let st := storeFor e
    let good := st != 3
    let m := onPower (fun p => { p with energy, measured := true, storeUsable := good }) m
    let m := setTotal 161 (if total 160 m = 0 then e else min (total 161 m) e) m
    let m := setStoreState st (setTotal 160 e m)
    if good then (if critAct 5 m then setCause 0 false m else setCause 1 false (setCause 0 false m))
    else sealsReadOnly (setCause 1 true m)

/-- HOLDUP_MEASUREMENT_DONE (R35). -/
def execHoldupMeasurementDone (energy : BitVec 16) (s : State) : Host.Outcome State Fault Refusal := done s (whileLive (measured energy))

/-! ### The power cap (R25, R26, R28, R468) -/

/-- e_cycle in fJ (R26, R400). -/
def cycleEnergy : Nat := leNat (calBytes 0x28 4)

/-- The cap allowance of R26 from the measured input power and the arithmetic power admitted, both in mW. -/
def capAllowance (cap inputMw arithMw : Nat) : Nat :=
  let spare : Int := (cap * 10000 : Int) - ((inputMw : Int) - arithMw)
  min 524288 (max 8192 (spare * 16000 / cycleEnergy).toNat)

/-- The allowance that admission moves towards (R26). -/
def allowTarget (p : Power) : Nat := min p.aCap p.thermAllow

/-- One turn's move of the admitted allowance: 32,768 engine-cycles in 1 µs are 524 in a turn (R26). -/
def moveAllow (p : Power) : Power :=
  let t := allowTarget p
  { p with allow := if p.allow < t then min t (p.allow + 524) else max t (p.allow - 524) }

/-- CAP_PERIOD (R26): a timer of 64 µs. The admitted allowance moves with the turns. -/
def execCapPeriod (inputMw arithMw : Nat) (s : State) : Host.Outcome State Fault Refusal :=
  done s (asEvent 10 (onPower fun p => { p with aCap := capAllowance p.cap.toNat inputMw arithMw }))

/-- The bound of R28 in 0.1 W: the cap and 2 % of it or 5 W, whichever is larger. -/
def capBound (cap : Nat) : Nat := cap * 100 + max (cap * 2) 50

/-- CAP_UNMET is judged on the 10 ms mean; its setting raises a notice (R28, R443). -/
def judgeCap (m : Sys) : Sys :=
  let unmet := decide (capBound m.power.cap.toNat < m.power.pin.toNat)
  let was := m.power.capUnmet
  onlyIf (unmet && !was) (notice 0x18 1 (leBytes 2 m.power.pin.toNat)) (onPower (fun p => { p with capUnmet := unmet }) m)

/-- GLB.PWR_INPUT is refreshed, from the end of the RAILS stage on (R468). -/
def refreshInput (vin iin pin : BitVec 16) (m : Sys) : Sys :=
  if m.boot.stage = 0 then m else judgeCap (onPower (fun p => { p with vin, iin, pin }) m)

/-- PWR_INPUT_REFRESH (R468): a timer of 1 ms. -/
def execPwrInputRefresh (vin iin pin : BitVec 16) (s : State) : Host.Outcome State Fault Refusal :=
  done s (asEvent 10 (refreshInput vin iin pin))

/-- Address of GLB.PWR_CAP (R25). -/
def capAddr : Nat := 0x1000

/-- A write to GLB.PWR_CAP (R10, R25): CAP_ERR clears by writing 1, unless it was set in this turn, and is set by a CAP out of range,
which changes nothing else. -/
def writeCap (v : Word) (m : Sys) : Sys :=
  let cap : BitVec 7 := v.extractLsb' 0 7
  let bad := cap.toNat < 30 || 95 < cap.toNat
  let clears := v.getLsbD 8 && !setInTurn capAddr 8 m
  onlyIf bad (noteSet capAddr 8)
    (onPower (fun p => { p with cap := if bad then p.cap else cap, capErr := bad || (p.capErr && !clears) }) m)

/-- PWR_CAP_WRITE (R25). -/
def execPwrCapWrite (value : Word) (s : State) : Host.Outcome State Fault Refusal := done s (whileLive (writeCap value))

/-! ### Sensors (R38 to R41) -/

/-- A threshold in 0.1 °C. -/
def tenths (deg : Nat) : Int := 10 * (deg : Int)

/-- Some sensor of a class is at or above a threshold. -/
def classAt (cls deg : Nat) (m : Sys) : Bool := (classTemps cls m).any fun t => decide (tenths deg ≤ t)

/-- The reading of one sensor, if it has been read. -/
def sensorTemp (cls idx : Nat) (m : Sys) : Option Int := tfind (256 * cls + idx) m.power.temps

/-- A class reaches a threshold with this reading; class 4 counts each optical engine by itself (R38, R443). -/
def reaches (cls idx deg : Nat) (temp : Int) (m : Sys) : Bool :=
  decide (tenths deg ≤ temp) &&
    !(if cls = 4 then (sensorTemp cls idx m).any fun t => decide (tenths deg ≤ t) else classAt cls deg m)

/-- DETAIL of the THERMAL notices (R443). -/
def thermalDetail (cls idx : Nat) (temp : Int) : List Byte :=
  leBytes 1 cls ++ tempBytes (some temp) ++ leBytes 1 (if cls = 4 then idx else 0)

/-- The larger of a kept temperature and a new one. -/
def keepMax (cls : Nat) (t : Int) (l : Tab Int) : Tab Int := tset cls ((tfind cls l).elim t (max t)) l

/-- A reading is taken: the class's temperatures, and the notices of the thresholds it reaches (R38, R443, R449). -/
def takeReading (cls idx : Nat) (temp : Int) (m : Sys) : Sys :=
  let warn := reaches cls idx (thresholds cls).1 temp m
  let thr := reaches cls idx (thresholds cls).2.1 temp m
  let m := onPower (fun p => { p with
    temps := tset (256 * cls + idx) temp p.temps, tempMax := keepMax cls temp p.tempMax, tempLife := keepMax cls temp p.tempLife,
    tempHist := tset cls (match tget [] cls p.tempHist with
      | [] => [temp]
      | t :: rest => max t temp :: rest) p.tempHist }) m
  onlyIf thr (notice 0x06 1 (thermalDetail cls idx temp)) (onlyIf warn (notice 0x05 1 (thermalDetail cls idx temp)) m)

/-- Admission of flash programs and erases is halved from the throttle threshold of class 3 on; after a critical action until every
sensor is 3 K below it (R38, R41). -/
def halveFlash (m : Sys) : Sys :=
  let hot := classAt 3 75 m
  let cooled := !classAt 3 72 m || (classTemps 3 m).all fun t => decide (t ≤ 720)
  onPower (fun p => { p with
    flashHalved := hot || (p.flashHalved && p.flashCooling && !cooled), flashCooling := p.flashCooling && !cooled }) m

/-- The cores run again, and a paused job resumes, once every sensor of classes 0 to 2 is below its throttle threshold (R40). -/
def resumeCores (m : Sys) : Sys :=
  if m.power.coresHeld && !classAt 0 100 m && !classAt 1 100 m && !classAt 2 90 m then
    onJob (fun j => { j with paused := false }) (onPower (fun p => { p with coresHeld := false }) m)
  else m

/-- The critical actions of a class (R38, R40): cores gated and the job paused; migration, flash programs or a transmitter stopped;
the store counts as insufficient. -/
def critical (cls idx : Nat) (m : Sys) : Sys :=
  let m := onPower (fun p => { p with
    critActs := if cls = 2 ∨ cls = 3 ∨ cls = 5 then setBit p.critActs cls true else p.critActs,
    coresHeld := p.coresHeld || decide (cls ≤ 2),
    opticsOff := if cls = 4 then setBit p.opticsOff idx true else p.opticsOff }) m
  let m := if cls ≤ 2 then onJob (fun j => { j with paused := true }) m else m
  if cls = 5 then sealsReadOnly (setCause 1 true m) else m

/-- The thermal critical event (R40). -/
def takeCritical (cls idx : Nat) (temp : Int) (m : Sys) : Sys :=
  let d := thermalDetail cls idx temp
  let m := onPower (fun p => { p with critLife := tupd 0 cls (· + 1) p.critLife }) (takeReading cls idx temp m)
  halveFlash (critical cls idx (eventRec 4 (256 * cls + idx) d (notice 0x07 3 d m)))

/-- A sensor has reached its critical threshold: the event is taken, or only counted in a hold-up sequence (R40, R439). -/
def thermalReached (cls idx : Nat) (temp : Int) (m : Sys) : Sys :=
  if temp < tenths (thresholds cls).2.2 then m else asEvent 3 (takeCritical cls idx temp) m

/-- THERMAL_CRITICAL (R40). -/
def execThermalCritical (cls : Fin 6) (idx : BitVec 8) (temp : Int) (s : State) : Host.Outcome State Fault Refusal :=
  done s (thermalReached cls.val idx.toNat temp)

/-- A sensor crosses a warn or throttle threshold, upwards or downwards (R38, R40, R41). -/
def sensorCrosses (cls idx : Nat) (temp : Int) (m : Sys) : Sys :=
  if tenths (thresholds cls).2.2 ≤ temp then thermalReached cls idx temp m
  else whileLive (fun m => resumeCores (halveFlash (takeReading cls idx temp m))) m

/-- SENSOR_THRESHOLD (R38). -/
def execSensorThreshold (cls : Fin 6) (idx : BitVec 8) (temp : Int) (s : State) : Host.Outcome State Fault Refusal :=
  done s (sensorCrosses cls.val idx.toNat temp)

/-- The thermal allowance after one more second (R39). DESIGN CHOICE: a second counts by the readings held at its end, when
THERMAL_SECOND comes; a threshold crossed and left within it does not count (log entry 35). -/
def nextAllowance (m : Sys) : Nat :=
  let a := m.power.thermAllow
  if classAt 0 100 m || classAt 1 100 m || classAt 2 90 m then max 8192 (a - 16384)
  else if !(classTemps 0 m ++ classTemps 1 m).any (fun t => decide (970 < t)) && !(classTemps 2 m).any (fun t => decide (870 < t)) then
    min 524288 (a + 8192)
  else a

/-- A second in the temperature histogram of a class, and an hour that has elapsed in its history (R449, R455). -/
def classSecond (cls : Nat) (m : Sys) : Sys :=
  match hottest cls m with
  | none => m
  | some t =>
    let m := addTotal (56 + 16 * cls + tempBin (t / 10)) 1 m
    if now m / secTurns % 3600 = 0 ∧ 3600 ≤ now m / secTurns then
      onPower (fun p => { p with tempHist := tset cls ((t :: tget [] cls p.tempHist).take 17) p.tempHist }) m
    else m

/-- Each thermal second (R39). -/
def thermalSecond (m : Sys) : Sys :=
  forEach (List.range 6) classSecond (onPower (fun p => { p with thermAllow := nextAllowance m }) m)

/-- THERMAL_SECOND (R39): a timer. -/
def execThermalSecond (s : State) : Host.Outcome State Fault Refusal := done s (asEvent 10 thermalSecond)

/-- A sensor has stayed critical for 30 s: the notice, then the power-fail event that leads to P3 (R40, R443). -/
def thermalShut (cls idx : Nat) (m : Sys) : Sys :=
  match sensorTemp cls idx m with
  | some t =>
    if t < tenths (thresholds cls).2.2 then m
    else takePowerFail .thermalShutdown (notice 0x08 3 (thermalDetail cls idx t) m)
  | none => m

/-- THERMAL_SHUTDOWN (R40): a timer; in a hold-up sequence the power-fail event is only counted (R439). -/
def execThermalShutdown (cls : Fin 6) (idx : BitVec 8) (s : State) : Host.Outcome State Fault Refusal :=
  done s fun m => if live m then thermalShut cls.val idx.toNat m else if inHoldup m then takeEvent 0 m else m

/-- The critical action of class 2, 3 or 5 ends once every sensor of the class is below its throttle threshold (R41). -/
def endCritical (cls : Nat) (m : Sys) : Sys :=
  if !critAct cls m || classAt cls (thresholds cls).2.1 m then m
  else
    let m := onPower (fun p => { p with
      critActs := setBit p.critActs cls false, flashHalved := p.flashHalved || cls == 3, flashCooling := p.flashCooling || cls == 3 }) m
    if cls = 5 then beginMeasure m else if cls = 3 then resumeFlash (halveFlash m) else m

/-- CRITICAL_ACTION_END (R41). -/
def execCriticalActionEnd (cls : Fin 6) (s : State) : Host.Outcome State Fault Refusal := done s (whileLive (endCritical cls.val))

/-- An optical engine has cooled for 10 s: its transmitter turns on, and its port trains from DOWN (R41). -/
def opticsCool (p : Nat) (m : Sys) : Sys :=
  if !m.power.opticsOff.getLsbD p || (sensorTemp 4 p m).any (fun t => decide (750 ≤ t)) then m
  else
    let m := onPower (fun x => { x with opticsOff := setBit x.opticsOff p false }) m
    if (portOf m p).train = .disabled then m else fullTraining p m

/-- OPTICS_COOLDOWN (R41): a timer. -/
def execOpticsCooldown (port : BitVec 3) (s : State) : Host.Outcome State Fault Refusal := done s (asEvent 10 (opticsCool port.toNat))

/-! ### Power states (R32, R120, R121, R469) -/

/-- The exit from P2 completes: what caused it runs; a POWER_STATE command that asked for P1 is DONE (R119, R121). -/
def exitP2 (m : Sys) : Sys :=
  if !m.power.exiting then m
  else
    let l := m.power.waitExit
    forEach l (fun c => if c.opcode = 0x08 then endWith c stDone else runCommand c)
      (onPower (fun p => { p with exiting := false, inTransition := false, current := 1, target := 1, waitExit := [] }) m)

/-- P2_EXIT (R121). -/
def execP2Exit (s : State) : Host.Outcome State Fault Refusal := done s (whileLive exitP2)

/-- An entry paused for more than 1 s in total is abandoned: the module stays in P1 and the command ends BUSY (R120). -/
def abandonEntry (m : Sys) : Sys :=
  match m.power.entry with
  | some e =>
    if e.step = .complete then m
    else
      let m := endEntryWaits m
      let st : BitVec 2 := if m.jobs.job.isSome then 0 else 1
      endWith e.cmd stBusy (onPower (fun p => { p with entry := none, inTransition := false, current := st, target := st }) m)
  | none => m

/-- ENTRY_ABANDON (R120): a timer. -/
def execEntryAbandon (s : State) : Host.Outcome State Fault Refusal := done s (asEvent 10 abandonEntry)

/-- P3 is entered: the converters of every rail but standby stop (R469 step 5). The journal flush of step 1 holds every record unless
something was recorded after it (log entry 37). -/
def enterP3 (m : Sys) : Sys :=
  if !m.power.p3Pending then m
  else
    let m := onFlash (fun x => { x with finalFlush := x.journal.isEmpty && x.flushing.isNone && x.programs.isEmpty }) m
    onPower (fun p => { p with current := 3, target := 3 }) (cleared (onPower (fun p => { p with run := .offline }) m))

/-- P3_CONVERTERS_OFF (R469). -/
def execP3ConvertersOff (s : State) : Host.Outcome State Fault Refusal := done s (whileLive enterP3)

end Sys2Proof.Machine
end

