-- ==== Sys2Proof/Machine/RegRead.lean ====
section
/-!
DEFINITION. What every register of the register space reads (R462 and the register tables of chapters 01 to 14). A register address
that none of these functions knows is a hole.
-/
namespace Sys2Proof.Machine

/-! ### GLB -/

/-- Codes of the classes whose hottest sensor is at or above a threshold (GLB.THERM_STATUS). -/
def classBits (m : Sys) (threshold : Nat × Nat × Nat → Nat) (lo : Nat) : Nat :=
  (List.range 6).foldl (fun a c => a + flagAt ((classTemps c m).any fun t => decide (10 * (threshold (thresholds c) : Int) ≤ t)) (lo + c)) 0

/-- Power, cooling and hold-up registers, 0x1000 to 0x1028 (chapter 01). -/
def readPower (o : Nat) (m : Sys) : Option Word :=
  let p := m.power
  match o with
  | 0x1000 => some (word [flagAt p.capErr 8, p.cap.toNat])
  | 0x1008 => some (word [place p.allow 32 20, flagAt (decide (p.aCap < p.thermAllow)) 31,
      flagAt (decide (p.thermAllow < p.aCap)) 30, flagAt p.capUnmet 29])
  | 0x1010 => some (word [place p.vin.toNat 32 16, place p.iin.toNat 16 16, p.pin.toNat])
  | 0x1018 => some (word [flagAt (lowBlocked m) 9, flagAt p.inTransition 8, place p.target.toNat 4 2, p.current.toNat])
  | 0x1020 => some (word [place p.energy.toNat 32 16, place p.lastSeq.toNat 16 16, place p.storeState.toNat 4 4])
  | 0x1028 => some (word [classBits m (·.2.2) 16, classBits m (·.2.1) 8, classBits m (·.1) 0])
  | _ => none

/-- Compute, numeric and operation registers, 0x1100 to 0x1308 (chapters 05 to 07). -/
def readNumbers (o : Nat) (m : Sys) : Option Word :=
  let j := m.jobs
  match o with
  | 0x1100 => some (if m.range.t0Ready then word [place (squaresIn m) 48 9, place (coresIn m) 32 13, place (halvesIn m) 0 17] else 0)
  | 0x1200 => some (word [place 0x3FFF 16 14, m.boot.numRev.toNat])
  | 0x1208 => some (word [place j.nonfinite.toNat 48 16, place j.saturated.toNat 32 16, j.recompute.toNat])
  | 0x1210 => some j.rollSeed
  | 0x1218 => some j.rollKey
  | 0x1220 => some (word [j.rollElem.toNat])
  | 0x1228 => some (word [j.rollNode.toNat])
  | 0x1230 => some (word [flagAt j.rollValid 24, j.rollOut.toNat])
  | 0x1238 => some 0
  | 0x1300 => some (word [place j.nanScore.toNat 48 16, place j.filterTrunc.toNat 32 16, j.indexRange.toNat])
  | 0x1308 => some 0
  | _ => none

/-- Job registers, 0x1400 to 0x1440 (chapter 08). -/
def readJobs (o : Nat) (m : Sys) : Option Word :=
  let x := m.jobs
  let of (last : Word) (f : Job → Nat) : Option Word := some ((x.job.map fun j => BitVec.ofNat 64 (f j)).getD last)
  match o with
  | 0x1400 => some (word [place ((x.job.map (·.no)).getD x.lastNo).toNat 32 32, place x.queue.length 24 8,
      place ((x.job.map (·.service.toNat)).getD 0) 16 4, flagAt ((x.job.map (·.plan.serving)).getD false) 8, jobState m])
  | 0x1408 => some (word [place ((x.job.map (·.step)).getD x.lastStep.toNat) 32 32,
      place ((x.job.map (·.stepsDone)).getD x.lastDone.toNat) 0 32])
  | 0x1410 => of x.lastPips (·.pips)
  | 0x1418 => of x.lastBudget (·.budget)
  | 0x1420 => of x.lastStall (·.stall)
  | 0x1428 => some (word [place ((x.job.map fun j => if j.inStep then j.rows.length else 0).getD 0) 48 16,
      place ((x.job.map fun j => min 2047 j.waiting.length).getD 0) 32 11, place ((x.job.map (·.ctxs.length)).getD 0) 0 11])
  | 0x1430 => some (word [x.svcOff.toNat])
  | 0x1438 => some (word [place x.faultRetries.toNat 48 16, place x.budgetOver.toNat 32 16, x.jobsEnded.toNat])
  | 0x1440 => some 0
  | _ => none

/-- Search registers, 0x1500 to 0x1520 (chapter 09). -/
def readSearchRegs (o : Nat) (m : Sys) : Option Word :=
  let x := m.search
  match o with
  | 0x1500 => some (word [place ((m.jobs.job.map fun j => (j.ctxs.filter (·.2.search)).length).getD 0) 32 11,
      place x.registry.length 16 10, place (x.registry.filter (·.2.merge.isSome)).length 0 10])
  | 0x1508 => some (word [place x.searches.toNat 40 24, place x.shorts.toNat 16 24, x.shardFail.toNat])
  | 0x1510 => some x.cmp
  | 0x1518 => some x.rerank
  | 0x1520 => some 0
  | _ => none

/-- Boot store and start-up registers, 0x1600 to 0x1800 (chapters 11 to 13). -/
def readStart (o : Nat) (m : Sys) : Option Word :=
  let b := m.boot
  let runs (erase : Bool) : Bool := !b.suspended && (match b.op with
    | some x => erases x == erase
    | none => false)
  let given (n : Nat) : Nat := if b.storeReady then n else 0
  match o with
  | 0x1600 => some (word [place (given (sparesLeft m)) 48 16, place (given b.sectorsRetired) 32 16,
      place (given ((m.health.nextPage - 1) / (ringSectors * sectorPages))) 16 16, flagAt b.spareLow 4, flagAt b.cfgCopy 3,
      flagAt b.suspended 2, flagAt (runs false) 1, flagAt (runs true) 0])
  | 0x1608 => some (word [place (given (b.sectorErases.foldl (fun a e => a + e.2) 0)) 32 32, place (given (maxCycles m)) 0 17])
  | 0x1610 => some (word [place b.suspends.toNat 32 32, place b.waitMax.toNat 16 16])
  | 0x1700 => some (word [place b.startMs.toNat 24 16, place b.halt.toNat 16 8, place b.cause.toNat 12 4, flagAt b.cfgDefault 4,
      b.stage.toNat])
  | 0x1708 => some (word [place b.release.toNat 32 32, place b.svnFloor.toNat 20 6, place b.svn.toNat 14 6,
      place b.keyRevoked.toNat 12 2, place b.staging.toNat 8 4, flagAt b.fromT1 2, flagAt b.imageValid 1, flagAt b.source 0])
  | 0x1710 => some (word [place b.starts.toNat 32 32, place b.recoveries.toNat 16 16, b.halts.toNat])
  | 0x1718 => some (word [place b.attests.toNat 32 32, place m.flash.spaces.length 16 10, flagAt m.flash.keyChan 1,
      flagAt b.identityOk 0])
  | 0x1800 => some (word [place m.health.lifeLeft.toNat 8 8, m.health.mode.toNat])
  | _ => none

/-- Registers of the map itself, 0x0000 to 0x0018 (chapter 14). -/
def readMapRegs (o : Nat) (m : Sys) : Option Word :=
  let h := m.health
  match o with
  | 0x0000 => some (word [place hwRev 16 8, 1])
  | 0x0008 => some (word [place h.readHole.toNat 48 16, place h.writeHole.toNat 32 16, place h.misaligned.toNat 16 16, h.bcastRead.toNat])
  | 0x0010 => some h.groupRead
  | 0x0018 => some 0
  | _ => none

/-- A register of the GLB block. -/
def readGlb (o : Nat) (m : Sys) : Option Word :=
  if o < 0x1000 then readMapRegs o m
  else if o < 0x1100 then readPower o m
  else if o < 0x1400 then readNumbers o m
  else if o < 0x1500 then readJobs o m
  else if o < 0x1600 then readSearchRegs o m
  else readStart o m

/-! ### TRF (chapter 03) -/

/-- The 8 bytes of a HELD task register's block; a FREE register reads 0 (R93, R94). -/
def readTaskReg (x : Endpoint) (o : Nat) : Word :=
  match tfind (o / 0x80) x.held with
  | some h => BitVec.ofNat 64 (leAt h.block (o % 0x80) 8)
  | none => 0

/-- A register of endpoint `e`'s block. At a module that is not the rook only RELAY_RESET and RELAY_STATUS are in use. -/
def readTrf (e o : Nat) (m : Sys) : Option Word :=
  let x := if m.fabric.rook then epOf m e else endpointReset
  if o < 0x8000 then some (readTaskReg x o)
  else if 0x8100 ≤ o ∧ o < 0x8120 then
    some (word ((x.held.filter fun h => h.1 / 64 == (o - 0x8100) / 8).map fun h => 2 ^ (h.1 % 64)))
  else match o with
  | 0x8000 => some 0
  | 0x8008 => some (word [place x.held.length 32 9, place x.epoch.toNat 20 4, flagAt x.resetBusy 19, flagAt x.valid 18, x.credit.toNat])
  | 0x8010 => some (word [place x.accepted.toNat 32 32, x.refused.toNat])
  | 0x8018 => some (word [place x.resets.toNat 48 16, x.latMax.toNat])
  | 0x8040 => some (relayResetValue (epOf m e))
  | 0x8048 => some (word [place (epOf m e).relayBusy.toNat 32 32, place (m.task.relayed.filter fun c => c.ep.toNat == e).length 0 13])
  | _ => none

/-! ### FAB (chapter 02) -/

/-- Training state code (R48). -/
def trainCode : Train → Nat
  | .down => 0
  | .signal => 1
  | .equalize => 2
  | .align => 3
  | .hello => 4
  | .up => 5
  | .retrain => 6
  | .disabled => 7
  | .failed => 8

/-- A route entry's word. -/
def routeValue (r : Route) : Word :=
  word [flagAt r.driver 15, place r.hops.toNat 8 4, flagAt r.valid 4, flagAt r.isLocal 3, r.port.toNat]

/-- Per-port registers (0x0100, 0x0140 and 0x0180 on). -/
def readPort (o : Nat) (m : Sys) : Option Word :=
  let x := portOf m (o % 0x40 / 8)
  if o < 0x140 then
    some (word [place x.retrains.toNat 48 16, place x.lanes.toNat 32 4, flagAt x.host 11, flagAt x.hostActive 10, flagAt x.pfNotice 9,
      trainCode x.train])
  else if o < 0x180 then some (word [place x.fecCorr.toNat 32 32, place x.fecFail.toNat 16 16, x.replays.toNat])
  else some (word [flagAt x.peerValid 19, place x.peerPort.toNat 16 3, x.peerAddr.toNat])

/-- A register of the FAB block. -/
def readFab (o : Nat) (m : Sys) : Option Word :=
  let x := m.fabric
  if 0x100 ≤ o ∧ o < 0x1C0 then readPort o m
  else if 0x10000 ≤ o ∧ o < 0x12000 then some (routeValue (tget routeReset ((o - 0x10000) / 8) x.grp))
  else if 0x12000 ≤ o ∧ o < 0x12200 then some (routeValue (tget routeReset ((o - 0x12000) / 8) x.mbr))
  else match o with
  | 0x0000 => some identity
  | 0x0008 => some (word [flagAt x.rook 23, flagAt x.assigned 22, flagAt (activeHost m).isSome 21, place ((activeHost m).getD 0) 18 3,
      flagAt x.groupSet 17, place x.group.toNat 6 10, x.member.toNat])
  | 0x0010 => some (word [place x.portDisable.toNat 32 8, flagAt x.routeAuto 8])
  | 0x0018 => some (word [place x.discTime.toNat 32 32, place x.overrideLost.toNat 24 8, place x.groupSize.toNat 16 7,
      flagAt x.conflict 1, flagAt x.done 0])
  | 0x0200 => some (word [place x.borrowMax.toNat 16 9, x.lendMax.toNat])
  | 0x0208 => some (word [place x.recallLate.toNat 48 16, place (lentGib m) 32 9, place (borrowedGib m) 16 9,
      flagAt (x.borrowed.any (·.2.recalled)) 8, place x.borrowed.length 0 8])
  | 0x0210 => some (word [place x.broken.toNat 48 16, place x.bcrcErr.toNat 32 16, place x.badBlock.toNat 16 16, place x.tx.length 0 13])
  | _ => none

/-! ### MAP and CHN (chapter 10) -/

/-- Blocks retired on a set of dies. -/
def retiredOn (m : Sys) (p : Nat → Bool) : Nat := (m.flash.dies.filter fun e => p e.1).foldl (fun a e => a + e.2.retired) 0

/-- A register of the MAP block. Values of the media read 0 until the map has been rebuilt (log entry 37). -/
def readMap (o : Nat) (m : Sys) : Option Word :=
  let x := m.flash
  let given (w : Word) : Word := if x.ready then w else 0
  match o with
  | 0x00 => some (word [place x.roCause.toNat 32 8, flagAt (x.ready && decide (spareLeft m < 10)) 17, flagAt x.lockErr 16,
      place (mapStateCode m) 8 4, flagAt x.clean 0])
  | 0x08 => some (given (word [place (freeChunks m) 32 29, totalChunks]))
  | 0x10 => some (given (word [place (slcTarget m / 10 ^ 9) 32 17, place (slcFilled m / 10 ^ 9) 0 17]))
  | 0x18 => some (given (word [place (retiredOn m fun _ => true) 40 24, place (spareLeft m) 32 8, place (wearUsed m) 24 8,
      place (wearMax m) 16 8, place (worstDie m) 0 11]))
  | 0x20 => some x.journalSeq
  | 0x28 => some (word [place x.flushes.toNat 32 32, x.flushMax.toNat])
  | 0x30 => some (word [place x.rebuildTime.toNat 48 16, place x.scanned.toNat 24 24, x.recovered.toNat])
  | 0x38 => some (word [place x.erases.toNat 32 32, place (x.copied / 65536) 0 32])
  | 0x40 => some (word [place x.suspends.toNat 32 32, place x.waitMax.toNat 16 16, x.longWaits.toNat])
  | 0x48 => some (word [place x.lapTime.toNat 32 32, x.refreshed.toNat])
  | 0x50 => some 0
  | _ => none

/-- A register of channel `c`'s block; die d of the channel is die 24c + d. -/
def readChan (c o : Nat) (m : Sys) : Option Word :=
  let x := chanOf m c
  let dies (f : Die → Bool) (lo : Nat) : Nat := (List.range 24).foldl (fun a d => a + flagAt (f (dieAt m (24 * c + d))) (lo + d)) 0
  match o with
  | 0x00 => some (word [dies (·.out) 40, dies (·.suspended) 16, x.state.toNat])
  | 0x08 => some x.reads
  | 0x10 => some (word [place x.retry.toNat 32 32, place x.soft.toNat 16 16, x.uncorr.toNat])
  | 0x18 => some (word [place x.progFail.toNat 48 16, place x.eraseFail.toNat 32 16, place (retiredOn m fun d => d / 24 == c) 16 16])
  | _ => none

/-! ### MEM (chapters 04 and 11) -/

/-- Bytes of core stores that a tensor holds. -/
def t0Held (t : Tensor) : Nat :=
  let cores := ((placesOf t).flatMap fun p => match p with
    | .t0 c => coreList c
    | _ => []).eraseDups
  cores.foldl (fun a n => a + coreHeld n t) 0

/-- Bytes of leases that a tensor holds. -/
def tnHeld (t : Tensor) : Nat :=
  (placesOf t).foldl (fun a p => match p with
    | .tn _ _ => a + granuleBytes t.size
    | _ => a) 0

/-- A MEM.POOL word, in MiB: capacity, pinned and free (R168). -/
def poolValue (m : Sys) (capacity out : Nat) (held : Tensor → Nat) : Word :=
  let mib (n : Nat) : Nat := n / 2 ^ 20
  word [place (mib capacity) 40 20, place (mib (sumTensors (fun t => if isPinned t then held t else 0) m)) 20 20,
    place (mib (capacity - sumTensors held m - out)) 0 20]

/-- Stacks with a property, as bits. -/
def stackBits (m : Sys) (f : Stack → Bool) (lo : Nat) : Nat :=
  (List.range 12).foldl (fun a s => a + flagAt (f (stackOf m s)) (lo + s)) 0

/-- Tensor registers, 0x8000 to 0x8040 (chapter 04). -/
def readPools (o : Nat) (m : Sys) : Option Word :=
  let x := m.range
  match o with
  | 0x8000 => some (poolValue m (if x.t0Ready then (servingCores m).length * coreCapacity else 0) 0 t0Held)
  | 0x8008 => some (poolValue m (if x.t1Ready then t1Capacity else 0) (lentGib m * 2 ^ 30) t1Held)
  | 0x8010 => some (poolValue m (borrowedGib m * 2 ^ 30) 0 tnHeld)
  | 0x8018 => some (word [place (x.tensors.filter (·.2.isSealed)).length 24 24, place (x.tensors.filter (!·.2.isSealed)).length 0 24])
  | 0x8020 => some (word [flagAt (thermalHold m) 33, flagAt (x.waits.any (waitsForSpace m)) 32, place (queuedMotions m) 16 16, place (activeMotions m) 0 6])
  | 0x8028 => some (word [place x.seals.toNat 40 24, x.units.toNat])
  | 0x8030 => some (word [place x.full.toNat 48 16, place x.demoted.toNat 24 24, x.dropped.toNat])
  | 0x8038 => some (word [place x.prefetchLost.toNat 48 16, x.stallTurns.toNat])
  | 0x8040 => some 0
  | _ => none

/-- A register of the MEM block. -/
def readMem (o : Nat) (m : Sys) : Option Word :=
  let x := m.integrity
  let s := stackOf m (o % 0x80 / 8)
  if 0x8000 ≤ o then readPools o m
  else if 0x100 ≤ o ∧ o < 0x160 then some (word [place s.corrected.toNat 32 32, place s.uncorr.toNat 16 16, place s.remap.length 0 7])
  else if 0x180 ≤ o ∧ o < 0x1E0 then some (word [place s.retrains.toNat 48 16, s.state.toNat])
  else match o with
  | 0x00 => some (word [stackBits m (·.state == 4) 36, stackBits m (·.remapFull) 24, stackBits m (·.state == 3) 12,
      flagAt (m.cores.any fun e => decide (8 ≤ e.2.remap.length)) 1, flagAt x.scrubSlow 0])
  | 0x08 => some (word [place x.t1Lap.toNat 32 32, place x.t0Lap.toNat 16 16, x.t1Laps.toNat])
  | 0x10 => some (word [place x.copyDrops.toNat 48 16, place x.notWritten.toNat 32 16, place x.mergeUncorr.toNat 16 16, x.repairs.toNat])
  | 0x18 => some 0
  | _ => none

/-! ### EVT (chapter 13) -/

/-- A register of the EVT block. -/
def readEvt (o : Nat) (m : Sys) : Option Word :=
  let h := m.health
  if 0x100 ≤ o ∧ o < 0x158 then some (tget 0 ((o - 0x100) / 8) h.counts)
  else match o with
  | 0x000 => some h.turn
  | 0x158 => some (word [place h.multi.toNat 32 32, h.maxIn.toNat])
  | 0x200 => some (word [place h.mask.toNat 32 32, flagAt h.enable 20, place h.ep.toNat 16 4])
  | 0x208 => some (word [place h.sent.toNat 32 32, place h.lost.toNat 16 16, place h.notices.length 0 7])
  | 0x300 => some (word [place h.computeLap.toNat 32 32, place h.laneLap.toNat 16 16, h.channelLap.toNat])
  | 0x308 => some (word [place h.halfFail.toNat 48 16, place h.vectorFail.toNat 32 16, place h.laneFail.toNat 16 16, h.channelFail.toNat])
  | 0x310 => some (word [flagAt h.pause 0])
  | 0x400 => some h.ledgerHead
  | 0x408 => some h.ledgerWin
  | 0x500 => some 0
  | _ => none

/-! ### CORE (chapters 05 and 11) -/

/-- Engines of a core that hold a tile. -/
def engBusy (m : Sys) (n : Nat) : Nat :=
  (List.range 8).foldl (fun a e => a + flagAt (!halfFree (coreOf m n) (2 * e) || !halfFree (coreOf m n) (2 * e + 1)) e) 0

/-- CORE.STATUS of core `n`. -/
def coreStatus (m : Sys) (n : Nat) : Word :=
  let c := coreOf m n
  word [place c.halfOut.toNat 32 16, place (engBusy m n) 24 8, flagAt c.permanent 18, flagAt c.squareOut 17, flagAt c.coreOut 16,
    flagAt (!corePowered m n) 15, place n 0 12]

/-- A register of core `n`'s block. -/
def readCore (n o : Nat) (m : Sys) : Option Word :=
  let c := coreOf m n
  match o with
  | 0x00 => some (coreStatus m n)
  | 0x08 => some (word [place c.lastEngine.toNat 33 3, flagAt c.lastHalf 32, c.fault.toNat &&& 0xFE])
  | 0x10 => some c.validPips
  | 0x18 => some c.dummyPips
  | 0x20 => some c.bubblePips
  | 0x28 => some c.capHeld
  | 0x30 => some 0
  | 0x40 => some (word [place c.eccCorr.toNat 32 32, place c.eccUncorr.toNat 16 16, place c.remap.length 0 4])
  | _ => none

/-! ### Group windows (R465, R466) -/

/-- A group window: the number that names it in GLB.GROUP_READ, and its cores. -/
structure Window where
  number : Nat
  first : Nat
  cores : Nat
deriving DecidableEq, Repr

/-- The window, the view (true: mismatch) and the core register offset that an address names (R462, R465). -/
def windowAt (a : Nat) : Option (Window × Bool × Nat) :=
  let view (w : Window) (o : Nat) : Option (Window × Bool × Nat) :=
    if o < 0x20000 then some (w, decide (0x10000 ≤ o), o % 0x10000) else none
  if 0x20000000 ≤ a ∧ a < 0x20020000 then view { number := 0x100, first := 0, cores := 4096 } (a - 0x20000000)
  else if 0x30000000 ≤ a ∧ a < 0x40000000 then
    view { number := (a - 0x30000000) / 0x100000, first := 16 * ((a - 0x30000000) / 0x100000), cores := 16 } ((a - 0x30000000) % 0x100000)
  else none

/-- One sample of a core register over a window. -/
def sampleOf (w : Window) (o : Nat) (m : Sys) : List Word := (span w.first w.cores).filterMap fun n => readCore n o m

/-- The OR of a sample. -/
def orWord (l : List Word) : Word := l.foldl (· ||| ·) 0

/-- Bit i is 1 when bit i is not the same in every value of the sample. -/
def mismatchWord (l : List Word) : Word := orWord (l.map (· ^^^ l.headD 0))

/-- What a register address outside the group windows reads; none is a hole (R462). -/
def readReg (a : Nat) (m : Sys) : Option Word :=
  if a < 0x100000 then readGlb a m
  else if a < 0x200000 then readTrf ((a - 0x100000) / 0x10000) (a % 0x10000) m
  else if 0x01000000 ≤ a ∧ a < 0x02000000 then readFab (a - 0x01000000) m
  else if 0x02000000 ≤ a ∧ a < 0x03000000 then readMap (a - 0x02000000) m
  else if 0x03000000 ≤ a ∧ a < 0x03040000 then readChan ((a - 0x03000000) / 0x1000) (a % 0x1000) m
  else if 0x04000000 ≤ a ∧ a < 0x05000000 then readMem (a - 0x04000000) m
  else if 0x05000000 ≤ a ∧ a < 0x06000000 then readEvt (a - 0x05000000) m
  else if 0x10000000 ≤ a ∧ a < 0x20000000 then readCore ((a - 0x10000000) / 0x10000) (a % 0x10000) m
  else none

end Sys2Proof.Machine
end

