-- ==== Sys2Proof/Machine/Stop.lean ====
section
/-!
DEFINITION. The queue reset: how a command that runs is stopped, the reset at the rook, and the relay reset at an executing module
(R112 to R116, R147, R153, R294, R303, R421).
-/
namespace Sys2Proof.Machine

/-! ### Stopping one command (R113) -/

/-- The command has done its work and waits for a page to program, or its own program is in progress: an indivisible step that ends with
the command's own status (R113, R359, R403, R432). -/
def workDone (m : Sys) (c : Cmd) : Bool :=
  m.flash.bound.any (fun e => e.2.1 == .cmd c) || m.flash.keyDrops.any (fun e => sameCmd e.2.2 c) ||
    m.health.pageWaits.any (fun e => sameCmd e.2.1 c) || (m.boot.cfgWrites.head?.map (sameCmd c)).getD false

/-- The command leaves every list in which it waits or is carried on; a motion that it asked for goes on as the module's own (R113,
R153). -/
def forgetCmd (c : Cmd) (m : Sys) : Sys :=
  let mine (d : Cmd) : Bool := sameCmd c d
  let m := motionGoesOn c (onTask (fun t => { t with fetches := t.fetches.filter fun f => !mine f.cmd }) m)
  let m := onPower (fun p => { p with waitExit := p.waitExit.filter fun d => !mine d }) m
  let m := onHealth (fun h => if h.selftest.any mine then { h with selftest := none, mode := 0 } else h) m
  let m := onBoot (fun b => { b with cfgWrites := b.cfgWrites.filter fun d => !mine d }) m
  let m := onlyIf (m.boot.fetch.any fun e => e.1.any mine) (fun m => emptyStaging (onBoot (fun b => { b with fetch := none }) m)) m
  onJob (fun j => { j with
    enders := j.enders.filter fun d => !mine d, waiting := j.waiting.filter fun x => !mine x.cmd,
    ctxs := tmap (fun x => { x with closers := x.closers.filter fun d => !mine d }) j.ctxs }) m

/-- An entry to a power state that the command asked for is given up (R120). -/
def dropEntry (c : Cmd) (m : Sys) : Sys :=
  match m.power.entry with
  | some e =>
    if sameCmd e.cmd c then
      let st : BitVec 2 := if m.power.current = 2 then 2 else if m.jobs.job.isSome then 0 else 1
      onPower (fun p => { p with entry := none, inTransition := false, target := st }) m
    else m
  | none => m

/-- Seals of the command stop at their step boundary, which may be now (R147). -/
def stopSealsNow (c : Cmd) (m : Sys) : Sys :=
  forEach ((m.flash.seals.filter fun s => s.asker == .cmd c).map (·.target)) (fun t m =>
    match sealOf m t.toNat with
    | some s => sealBoundary s m
    | none => m) (stopCmdSeals stFlushed c m)

/-- A job command stops: a waiting job and one being admitted end now, a running one at its next step boundary (R113, R294). -/
def stopJobCmd (c : Cmd) (m : Sys) : Sys :=
  match m.jobs.queue.find? fun w => sameCmd w.cmd c with
  | some w => refuseJob w 0 (ending stFlushed) (onJobs (fun x => { x with queue := x.queue.filter fun v => !sameCmd v.cmd c }) m)
  | none =>
    match m.jobs.job with
    | some j =>
      if !sameCmd j.cmd c then endWith c stFlushed m
      else if j.admitting then refuseJob { no := j.no, cmd := j.cmd, service := j.service } 0 (ending stFlushed) (freeComplex j m)
      else stopJob .flushed m
    | none => endWith c stFlushed m

/-- An active context of the command (R303). -/
def activeCtx (m : Sys) (c : Cmd) : Bool :=
  (m.jobs.job.map fun j => j.ctxs.any fun e => sameCmd e.2.cmd c && !e.2.search).getD false

/-- A started search is an indivisible step: it runs to its end and completes with its own status (R113, R317). -/
def startedWalk (m : Sys) (c : Cmd) : Bool :=
  c.opcode == 0x24 && (m.jobs.job.map fun j => j.ctxs.any fun e => sameCmd e.2.cmd c && e.2.core.isSome).getD false

/-- A command of this module is stopped: at its next step boundary it ends FLUSHED (R113). A WRITE that had begun reports the conditions that
its pieces met (R108). -/
def stopCommand (c : Cmd) (m : Sys) : Sys :=
  if workDone m c then m
  else if m.flash.seals.any fun s => s.asker == .cmd c then stopSealsNow c m
  else if c.opcode = 0x10 then stopJobCmd c m
  else if activeCtx m c then
    onJob (fun j => { j with ctxs := tmap (fun x => if sameCmd x.cmd c then { x with ending := x.ending.orElse fun _ => some stFlushed } else x) j.ctxs }) m
  else if m.boot.commit.any fun e => e.1.any (sameCmd c) then onBoot (fun b => { b with commitStop := true }) m
  else if startedWalk m c then m
  else if c.opcode = 0x24 then endSearch c (ending stFlushed) (forgetCmd c m)
  else if c.opcode = 0x25 ∨ c.opcode = 0x26 ∨ c.opcode = 0x27 then
    releaseOld (indexWriteFails c (ending stFlushed) (forgetCmd c m))
  else
    let conds := ((m.task.fetches.find? fun f => sameCmd f.cmd c).map (·.conds)).getD 0
    complete c { ending stFlushed with conds := conds } (dropEntry c (forgetCmd c m))

/-! ### QRESET (R112 to R115) -/

/-- Members that hold sub-searches of an endpoint's searches (R338, R340). -/
def subHolders (m : Sys) (e : Nat) : List Addr :=
  (m.search.shards.filter fun s => s.cmd.rook == ownAddr m && s.cmd.ep.toNat == e).flatMap (·.waiting)

/-- The relay reset write to one module, and the read of the same register behind it (R113, R114). -/
def resetRelays (e : Nat) (a : Addr) (m : Sys) : Sys :=
  sendBlock { newBlock (ownAddr m) a kRegRead with target := relayResetAddr e, tag := resetTag e } (sendRelayReset e a m)

/-- A queue reset of an endpoint at the rook (R112, R113). -/
def queueReset (e : Nat) (m : Sys) : Sys :=
  let x := epOf m e
  if x.resetBusy || !m.fabric.rook then m
  else
    let told := (relayedTo x ++ subHolders m e).eraseDups
    let held := x.held.map (·.2)
    let m := onEp e (fun x => { x with resetBusy := true, epoch := x.epoch + 1, credit := 0, awaited := told }) m
    let m := forEach (held.filter fun h => h.phase == .waiting) (fun h => endWith h.cmd stFlushed) m
    let m := forEach (held.filter fun h => h.phase == .running) (fun h => stopCommand h.cmd) m
    settleReset e (forEach told (resetRelays e) m)

/-- QRESET (R112). -/
def execQreset (ep : BitVec 4) (s : State) : Host.Outcome State Fault Refusal := done s (whileLive (queueReset ep.toNat))

/-! ### RELAY_RESET_WRITE (R113, R114) -/

/-- The relay reset of a rook's endpoint: every relayed command of it with another epoch is stopped (R113), and records of such commands are
not repeated any more (R110). -/
def relayReset (e : Nat) (v : Word) (m : Sys) : Sys :=
  let rook : Addr := v.extractLsb' 0 16
  let epoch : BitVec 4 := v.extractLsb' 16 4
  let old (ep : BitVec 4) (r : Addr) (x : BitVec 4) : Bool := r == rook && ep.toNat == e && x != epoch
  let m := onTask (fun t => { t with resends := t.resends.filter fun r => !old r.ep r.rook (recordEpoch r.record) })
    (onEp e (fun x => { x with relayEpoch := epoch, relayRook := rook }) m)
  answerReads e (forEach (m.task.relayed.filter fun c => c.rook == rook && c.ep.toNat == e && c.epoch != epoch) stopCommand m)

/-- RELAY_RESET_WRITE (R113). -/
def execRelayResetWrite (ep : BitVec 4) (value : Word) (s : State) : Host.Outcome State Fault Refusal :=
  done s (whileLive (relayReset ep.toNat value))

end Sys2Proof.Machine
end

