-- ==== Sys2Proof/Machine/Regs.lean ====
section
/-!
DEFINITION. Register writes and reads from the fabric: the outcome of every access (R9, R10, R409, R410, R462 to R467), the clearing of
the saturating counters, and the roll check (R216).
-/
namespace Sys2Proof.Machine

/-! ### Counter clears (R9) -/

/-- CORE.CTRL.CNT_CLR: the four pip counters of a core. -/
def clearCore (n : Nat) : Sys → Sys := onCore n fun c => { c with validPips := 0, dummyPips := 0, bubblePips := 0, capHeld := 0 }

/-- CORE_CNT_CLR (R9). -/
def execCoreCntClr (core : BitVec 12) (s : State) : Host.Outcome State Fault Refusal := done s (whileLive (clearCore core.toNat))

/-- MEM.MIG_CTRL.CNT_CLR: MIG_COUNT, EVICT and STALL. -/
def clearMig : Sys → Sys := onRange fun r =>
  { r with seals := 0, units := 0, full := 0, demoted := 0, dropped := 0, prefetchLost := 0, stallTurns := 0 }

/-- MIG_CNT_CLR (R9). -/
def execMigCntClr (s : State) : Host.Outcome State Fault Refusal := done s (whileLive clearMig)

/-- GLB.NUM_CTRL.CNT_CLR: NUM_COUNT. -/
def clearNum : Sys → Sys := onJobs fun j => { j with nonfinite := 0, saturated := 0, recompute := 0 }

/-- NUM_CNT_CLR (R9). -/
def execNumCntClr (s : State) : Host.Outcome State Fault Refusal := done s (whileLive clearNum)

/-- GLB.OP_CTRL.CNT_CLR: OP_COUNT. -/
def clearOp : Sys → Sys := onJobs fun j => { j with nanScore := 0, filterTrunc := 0, indexRange := 0 }

/-- OP_CNT_CLR (R9). -/
def execOpCntClr (s : State) : Host.Outcome State Fault Refusal := done s (whileLive clearOp)

/-- GLB.JOB_CTRL.CNT_CLR: JOB_COUNT. -/
def clearJob : Sys → Sys := onJobs fun j => { j with faultRetries := 0, budgetOver := 0, jobsEnded := 0 }

/-- JOB_CNT_CLR (R9). -/
def execJobCntClr (s : State) : Host.Outcome State Fault Refusal := done s (whileLive clearJob)

/-- GLB.SRCH_CTRL.CNT_CLR: SRCH_COUNT, SRCH_CMP and SRCH_RERANK. -/
def clearSrch : Sys → Sys := onSearch fun x => { x with searches := 0, shorts := 0, shardFail := 0, cmp := 0, rerank := 0 }

/-- SRCH_CNT_CLR (R9). -/
def execSrchCntClr (s : State) : Host.Outcome State Fault Refusal := done s (whileLive clearSrch)

/-- MAP.CTRL.CNT_CLR: the MAP counters and the counters of every channel. -/
def clearMap : Sys → Sys := onFlash fun x =>
  { x with
    flushes := 0, flushMax := 0, erases := 0, copied := 0, suspends := 0, waitMax := 0, longWaits := 0, refreshed := 0,
    chans := tmap (fun c => { c with reads := 0, retry := 0, soft := 0, uncorr := 0, progFail := 0, eraseFail := 0 }) x.chans }

/-- MAP_CNT_CLR (R9). -/
def execMapCntClr (s : State) : Host.Outcome State Fault Refusal := done s (whileLive clearMap)

/-- EVT.CTRL.CNT_CLR: COUNT, SIMUL, SENT, LOST and IST_FAIL. -/
def clearEvt : Sys → Sys := onHealth fun h =>
  { h with
    counts := [], multi := 0, maxIn := 0, sent := 0, lost := 0, halfFail := 0, vectorFail := 0, laneFail := 0, channelFail := 0 }

/-- EVT_CNT_CLR (R9). -/
def execEvtCntClr (s : State) : Host.Outcome State Fault Refusal := done s (whileLive clearEvt)

/-- GLB.REG_CTRL.CNT_CLR: REG_ERR. -/
def clearReg : Sys → Sys := onHealth fun h => { h with readHole := 0, writeHole := 0, misaligned := 0, bcastRead := 0 }

/-- REG_CNT_CLR (R9). -/
def execRegCntClr (s : State) : Host.Outcome State Fault Refusal := done s (whileLive clearReg)

/-! ### ROLL_COMPUTE (R216) -/

/-- GLB.ROLL_OUT takes the roll of the current key, after a write to a key register. -/
def computeRoll : Sys → Sys := onJobs fun j =>
  if !j.rollDue then j else { j with
    rollValid := true
    rollDue := false
    rollOut := roll j.rollSeed (j.rollKey.extractLsb' 32 32) (j.rollKey.extractLsb' 0 32) j.rollElem.toNat j.rollNode }

/-- ROLL_COMPUTE (R216). -/
def execRollCompute (s : State) : Host.Outcome State Fault Refusal := done s (whileLive computeRoll)

/-! ### Writes (R9, R10) -/

/-- A write to the GLB block; RO and RSV fields ignore it. -/
def writeGlb (o : Nat) (v : Word) (m : Sys) : Sys :=
  let clr : Bool := v.getLsbD 0
  match o with
  | 0x0018 => onlyIf clr clearReg m
  | 0x1000 => writeCap v m
  | 0x1210 => onJobs (fun j => { j with rollSeed := v, rollDue := true }) m
  | 0x1218 => onJobs (fun j => { j with rollKey := v, rollDue := true }) m
  | 0x1220 => onJobs (fun j => { j with rollElem := v.extractLsb' 0 40, rollDue := true }) m
  | 0x1228 => onJobs (fun j => { j with rollNode := v.extractLsb' 0 32, rollDue := true }) m
  | 0x1238 => onlyIf clr clearNum m
  | 0x1308 => onlyIf clr clearOp m
  | 0x1430 => serviceCtrl (v.extractLsb' 0 3) m
  | 0x1440 => onlyIf clr clearJob m
  | 0x1520 => onlyIf clr clearSrch m
  | _ => m

/-- A write to endpoint `e`'s block. Task registers take no register write (R96). -/
def writeTrf (e o : Nat) (v : Word) (m : Sys) : Sys :=
  match o with
  | 0x8000 => onlyIf (m.fabric.rook && v.getLsbD 0) (queueReset e) (onlyIf (m.fabric.rook && v.getLsbD 1) (clearEp e) m)
  | 0x8040 => relayReset e v m
  | _ => m

/-- FAB.CTRL: PORT_DISABLE, ROUTE_AUTO, CNT_CLR and RESET (R48, R82, R91). -/
def writeFabCtrl (v : Word) (m : Sys) : Sys :=
  onlyIf (v.getLsbD 0) (asEvent 2 resetFabric)
    (onlyIf (v.getLsbD 1) clearFab
      (onFabric (fun x => { x with routeAuto := v.getLsbD 8 }) (setDisable (v.extractLsb' 32 8) m)))

/-- A write to the FAB block. -/
def writeFab (o : Nat) (v : Word) (m : Sys) : Sys :=
  if 0x100 ≤ o ∧ o < 0x140 then onlyIf (v.getLsbD 9 && !setInTurn (0x01000000 + o) 9 m) (onPort ((o - 0x100) / 8) fun x => { x with pfNotice := false }) m
  else match o with
  | 0x0010 => writeFabCtrl v m
  | 0x0200 => onFabric (fun x => { x with borrowMax := v.extractLsb' 16 9, lendMax := v.extractLsb' 0 9 }) m
  | _ => m

/-- A write to the MAP block. -/
def writeMap (o : Nat) (v : Word) (m : Sys) : Sys :=
  match o with
  | 0x00 => onlyIf (v.getLsbD 16 && !setInTurn mapStatusAddr 16 m) (onFlash fun x => { x with lockErr := false }) m
  | 0x50 => onlyIf (v.getLsbD 1 && mapRuns m) askFlush (onlyIf (v.getLsbD 0) clearMap m)
  | _ => m

/-- A write to the MEM block. -/
def writeMem (o : Nat) (v : Word) (m : Sys) : Sys :=
  match o with
  | 0x0018 => onlyIf (v.getLsbD 0) clearEcc m
  | 0x8040 => onlyIf (v.getLsbD 0) clearMig m
  | _ => m

/-- A write to the EVT block. -/
def writeEvt (o : Nat) (v : Word) (m : Sys) : Sys :=
  match o with
  | 0x200 => onHealth (fun h => { h with mask := v.extractLsb' 32 32, enable := v.getLsbD 20, ep := v.extractLsb' 16 4 }) m
  | 0x310 => onHealth (fun h => { h with pause := v.getLsbD 0 }) m
  | 0x500 => onlyIf (v.getLsbD 1) writeCheckpoint (onlyIf (v.getLsbD 0) clearEvt m)
  | _ => m

/-- The bits of CORE.FAULT that a write clears: those written as 1 and not set in this turn (R9, R10). -/
def faultClears (n : Nat) (v : Word) (m : Sys) : BitVec 8 :=
  BitVec.ofNat 8 ((span 1 7).foldl (fun k i => if v.getLsbD i && !setInTurn (coreFaultAddr n) i m then k + 2 ^ i else k) 0)

/-- A write to core `n`'s block. -/
def writeCore (n o : Nat) (v : Word) (m : Sys) : Sys :=
  match o with
  | 0x08 => onCore n (fun c => { c with fault := c.fault &&& ~~~(faultClears n v m) }) m
  | 0x30 => onlyIf (v.getLsbD 1) (askRetest n) (onlyIf (v.getLsbD 0) (clearCore n) m)
  | _ => m

/-- The effect of a write to a register outside the group windows. -/
def writeReg (a : Nat) (v : Word) (m : Sys) : Sys :=
  if a < 0x100000 then writeGlb a v m
  else if a < 0x200000 then writeTrf ((a - 0x100000) / 0x10000) (a % 0x10000) v m
  else if 0x01000000 ≤ a ∧ a < 0x02000000 then writeFab (a - 0x01000000) v m
  else if 0x02000000 ≤ a ∧ a < 0x03000000 then writeMap (a - 0x02000000) v m
  else if 0x04000000 ≤ a ∧ a < 0x05000000 then writeMem (a - 0x04000000) v m
  else if 0x05000000 ≤ a ∧ a < 0x06000000 then writeEvt (a - 0x05000000) v m
  else if 0x10000000 ≤ a ∧ a < 0x20000000 then writeCore ((a - 0x10000000) / 0x10000) (a % 0x10000) v m
  else m

/-! ### Access from the fabric (R463) -/

def countReadHole : Sys → Sys := onHealth fun h => { h with readHole := satInc h.readHole }
def countWriteHole : Sys → Sys := onHealth fun h => { h with writeHole := satInc h.writeHole }
def countMisaligned : Sys → Sys := onHealth fun h => { h with misaligned := satInc h.misaligned }
def countBcastRead : Sys → Sys := onHealth fun h => { h with bcastRead := satInc h.bcastRead }

/-- Registers work from the start of the FIRMWARE stage, and in the recovery loader (R409, R427). -/
def regsOpen (m : Sys) : Bool := live m && (m.boot.stage == 4 || m.boot.stage == stageServing || m.boot.stage == stageLoader)

/-- A halted module answers reads of GLB and FAB; GLB.HEALTH answers in every stage (R410). -/
def readOpen (a : Nat) (m : Sys) : Bool :=
  regsOpen m || (live m && ((m.boot.stage == stageHalted && (decide (a < 0x100000) || (decide (0x01000000 ≤ a) && decide (a < 0x02000000)))) ||
    a == 0x1800))

/-- The data of a REG_WRITE (R65). -/
def writtenWord (b : Block) : Word := BitVec.ofNat 64 (leAt b.body 0 8)

/-- A register write is carried out (R463, R465). -/
def writeAt (a : Nat) (v : Word) (m : Sys) : Sys :=
  if a % 8 ≠ 0 then countMisaligned m
  else match windowAt a with
    | some (w, mismatch, o) =>
      if mismatch || (readCore w.first o m).isNone then countWriteHole m
      else forEach (span w.first w.cores) (fun n => writeCore n o v) m
    | none => if (readReg a m).isNone then countWriteHole m else writeReg a v m

/-- A REG_WRITE block (R463). -/
def regWriteIn (b : Block) (m : Sys) : Sys :=
  let m := consumed b m
  if regsOpen m then writeAt b.target.toNat (writtenWord b) m else m

/-- REG_WRITE (R463). -/
def execRegWrite (b : Block) (s : State) : Host.Outcome State Fault Refusal := done s (regWriteIn b)

/-- GROUP_WINDOW_WRITE (R465). -/
def execGroupWindowWrite (b : Block) (s : State) : Host.Outcome State Fault Refusal := done s (regWriteIn b)

/-- Answer a register read (R65, R463). -/
def respondRead (b : Block) (value : Word) (status : Byte) (m : Sys) : Sys :=
  toRook b.src (regResp m b.src b.host b.ep b.tag b.target value status) m

/-- GLB.GROUP_READ after a group read (R467). -/
def groupReadWord (old : Word) (b : Block) (w : Window) (mismatch : Bool) (o : Nat) (flag : Bool) : Word :=
  word [place b.src.toNat 48 16, flagAt b.host 47, if b.host then place b.ep.toNat 43 4 else 0, flagAt flag 40,
    place (wfield old 32 8 + 1) 32 8, flagAt mismatch 25, place w.number 16 9, place o 0 16]

/-- A group read: one sample, its OR or its mismatch word, and GLB.GROUP_READ (R466, R467). -/
def groupRead (b : Block) (w : Window) (mismatch : Bool) (o : Nat) (m : Sys) : Sys :=
  let l := sampleOf w o m
  let d := mismatchWord l
  respondRead b (if mismatch then d else orWord l) stDone
    (onHealth (fun h => { h with groupRead := groupReadWord h.groupRead b w mismatch o (d != 0) }) m)

/-- A register read is carried out (R463): a relay-reset read may wait (R114). -/
def readAt (b : Block) (m : Sys) : Sys :=
  let a := b.target.toNat
  if a % 8 ≠ 0 then respondRead b 0 stBadCommand (countMisaligned m)
  else match windowAt a with
    | some (w, mismatch, o) =>
      if (readCore w.first o m).isNone then respondRead b 0 stBadCommand (countReadHole m) else groupRead b w mismatch o m
    | none =>
      match readReg a m with
      | none => respondRead b 0 stBadCommand (countReadHole m)
      | some v =>
        if 0x100000 ≤ a ∧ a < 0x200000 ∧ a % 0x10000 = 0x8040 then
          relayResetRead ((a - 0x100000) / 0x10000) b.src (if b.host then some b.ep else none) b.tag m
        else respondRead b v stDone m

/-- A REG_READ block (R463). -/
def regReadIn (b : Block) (m : Sys) : Sys :=
  let m := consumed b m
  if !readOpen b.target.toNat m then m
  else if b.bcast ≠ 0 then countBcastRead m
  else readAt b m

/-- REG_READ (R463). -/
def execRegRead (b : Block) (s : State) : Host.Outcome State Fault Refusal := done s (regReadIn b)

/-- GROUP_WINDOW_READ (R466). -/
def execGroupWindowRead (b : Block) (s : State) : Host.Outcome State Fault Refusal := done s (regReadIn b)

end Sys2Proof.Machine
end

