-- ==== Sys2Proof/Machine/TensorBlocks.lean ====
section
/-!
DEFINITION. Arrivals of TENSOR_READ, TENSOR_READ_RESP and TENSOR_WRITE: host transfers, relays and sub-searches, leased memory, and the
firmware image served to peers (R86, R103 to R105, R130, R338, R425).
-/
namespace Sys2Proof.Machine

/-! ### Leased memory at the lender (R86) -/

/-- Byte of leased memory: as written, or the unwritten marker's (R387). -/
def leaseByte (l : Lease) (off : Nat) : Byte := tget (wordByte unwrittenData (off % 8)) off l.bytes

/-- The lease that a TARGET names, when it is lent and holds the whole range. -/
def leaseRange (m : Sys) (a : Word) (len : Nat) : Option (Nat × Nat × Lease) :=
  match leaseTarget a with
  | some (n, off) => match tfind n m.fabric.lent with
    | some l => if off + len ≤ l.gib * 2 ^ 30 then some (n, off, l) else none
    | none => none
  | none => none

/-! ### TENSOR_READ (R86, R105, R425) -/

/-- Answer a TENSOR_READ of this module's memory. -/
def answerRead (b : Block) (data : List Byte) (m : Sys) : Sys :=
  sendBlock { newBlock (ownAddr m) b.src kTensorReadResp with target := b.target, tag := b.tag, body := data } m

/-- A TENSOR_READ arrives: for the host through the rook, of the firmware image, or of leased memory. -/
def tensorRead (b : Block) (m : Sys) : Sys :=
  let m := consumed b m
  let len := leAt b.body 0 4
  if b.host then (if m.fabric.rook && b.src != ownAddr m then toHost b m else badBlock m)
  else if tnumOf b.target = imageTensor then
    if len ≤ 4096 ∧ offsetOf b.target + len ≤ 268435456 then answerRead b (imageBytes (offsetOf b.target) len m) m else m
  else match leaseRange m b.target len with
    | some (_, off, l) => if len ≤ 4096 then answerRead b ((span off len).map (leaseByte l)) m else m
    | none => m

/-- TENSOR_READ (R105). -/
def execTensorRead (b : Block) (s : State) : Host.Outcome State Fault Refusal := done s (whileLive (tensorRead b))

/-! ### TENSOR_READ_RESP (R105, R151, R420, R425) -/

/-- The fetch that a host block answers. -/
def fetchOf (b : Block) (m : Sys) : Option Fetch :=
  m.task.fetches.find? fun f => f.cmd.rook == b.src && f.cmd.ep == b.ep && f.cmd.tag.zeroExtend 32 == b.tag

/-- A piece of a fetch arrives: a WRITE writes it, or lets it wait for the window of its tensor's motion; FW_LOAD stages it. The next
piece is asked for (R105). -/
def pieceIn (f : Fetch) (off len : Nat) (data : List Byte) (m : Sys) : Sys :=
  let f := { f with asked := f.asked.filter fun a => a.1 != off }
  let r :=
    if f.cmd.opcode = 0x61 then (f, stagePiece (par f.cmd 32 4 + off) data m)
    else if pieceWaits f off len m then ({ f with blocked := f.blocked ++ [(off, data)] }, m)
    else putPiece f off data m
  let r := askPieces r.1 1 r.2
  keepFetch r.1 r.2

/-- A lender answers a read of leased memory: the contents that State holds of the tensor there are those of the lender, unless a write
has been sent since (R86; log entry 31). -/
def leaseData (b : Block) (m : Sys) : Sys :=
  match leasedAt m b.src b.target with
  | some (n, off) => updTensor n (fun t =>
      match t.place with
      | .tn h _ =>
        if ((tfind h.toNat m.fabric.borrowed).map leaseTag) = some b.tag then { t with store := (writeStore t.store off b.body).store } else t
      | _ => t) m
  | none => m

/-- A TENSOR_READ_RESP arrives: for a fetch of this module, for the host through the rook, a piece of a peer's image, or an answer of a
lender. -/
def tensorResp (b : Block) (m : Sys) : Sys :=
  let m := consumed b m
  if b.host then
    match fetchOf b m with
    | some f =>
      let off := (b.target - f.cmd.hostAddr).toNat
      match f.asked.find? fun a => a.1 == off with
      | some (_, len) => pieceIn f off len (fitBytes len b.body) m
      | none => m
    | none => onlyIf (m.fabric.rook && b.src != ownAddr m) (toHost b) m
  else if b.tag = imageTag ∧ tnumOf b.target = imageTensor then imagePiece b m
  else leaseData b m

/-- TENSOR_READ_RESP (R105). -/
def execTensorReadResp (b : Block) (s : State) : Host.Outcome State Fault Refusal := done s (whileLive (tensorResp b))

/-! ### TENSOR_WRITE (R86, R103, R104, R338) -/

/-- Answer a TENSOR_WRITE. -/
def answerWrite (b : Block) (status : Byte) (m : Sys) : Sys :=
  sendBlock { newBlock (ownAddr m) b.src kTensorWriteAck with tag := b.tag, body := [status, 0, 0, 0] } m

/-- A relay is taken here: the module serves, or its recovery loader runs, and neither has admission stopped nor is P3 entered (R34, R409, R423, R427, R469). -/
def takesRelays (m : Sys) : Bool :=
  !m.task.stopped && !m.power.p3Pending && (m.boot.stage == stageServing || m.boot.stage == stageLoader) && decide (m.task.relayed.length < 4096)

/-- The relayed command that a relay header and command block spell (R103). -/
def relayedCmd (l : List Byte) : Cmd :=
  readCommand (BitVec.ofNat 16 (leAt l 0 2)) (BitVec.ofNat 4 (leAt l 2 1)) (BitVec.ofNat 8 (leAt l 3 1)) (BitVec.ofNat 4 (leAt l 4 1))
    (bytesAt l 32 128)

/-- A sub-search: a relayed SEARCH whose command is addressed to another module (R338). -/
def isSubSearch (m : Sys) (c : Cmd) : Bool := c.opcode == 0x24 && c.exec != ownAddr m

/-- Bytes of a sub-search, once its first 160 are known: 160 + 4D + 24T; an index that is not here has no query to wait for (R338). -/
def subLength (m : Sys) (c : Cmd) : Nat :=
  match (tfind (par c 32 2) m.search.registry).bind fun i => (rootOf i (runOf 0 m)).1 with
  | some x => 160 + 4 * x.dim + 24 * termTotal (searchAsk c)
  | none => 160

/-- The command is held at this module (R104). -/
def holdRelay (c : Cmd) : Sys → Sys := onTask fun t => { t with relayed := t.relayed ++ [c] }

/-- Refuse a relay with BUSY, counted for its endpoint (R104). -/
def relayBusy (b : Block) (c : Cmd) (m : Sys) : Sys :=
  answerWrite b stBusy (onEp c.ep.toNat (fun x => { x with relayBusy := satInc x.relayBusy }) m)

/-- A sub-search is taken when all of its bytes have come (R338). -/
def subBytes (b : Block) (l : List Byte) (m : Sys) : Sys :=
  let c := relayedCmd l
  let rest := m.search.subs.filter fun e => e.1 != b.src
  if l.length < subLength m c then onSearch (fun x => { x with subs := rest ++ [(b.src, l)] }) m
  else
    answerWrite b stDone (holdRelay c (onSearch (fun x => { x with subs := rest, leaders := x.leaders ++ [(c, b.src, l.drop 160)] }) m))

/-- A write to the relay window (R103, R104, R338). -/
def relayIn (b : Block) (m : Sys) : Sys :=
  let off := offsetOf b.target
  if off = 0 then
    let c := relayedCmd b.body
    if b.body.length < 160 then m
    else if !takesRelays m then relayBusy b c m
    else if isSubSearch m c then subBytes b b.body m
    else answerWrite b stDone (holdRelay c m)
  else match m.search.subs.find? fun e => e.1 == b.src with
    | some e => if e.2.length = off then subBytes b (e.2 ++ b.body) m else m
    | none => m

/-- A write to leased memory (R86). -/
def leaseWrite (b : Block) (m : Sys) : Sys :=
  match leaseRange m b.target b.body.length with
  | some (n, off, l) =>
    let bytes := (b.body.foldl (fun (acc : Nat × Tab Byte) v => (acc.1 + 1, tset acc.1 v acc.2)) (off, l.bytes)).2
    answerWrite b stDone (onFabric (fun x => { x with lent := tset n { l with bytes } x.lent }) m)
  | none => m

/-- A TENSOR_WRITE arrives: at the relay window, or for leased memory. -/
def tensorWrite (b : Block) (m : Sys) : Sys :=
  let m := consumed b m
  if tnumOf b.target = 0xFFFFFF then relayIn b m else leaseWrite b m

/-- TENSOR_WRITE (R104). -/
def execTensorWrite (b : Block) (s : State) : Host.Outcome State Fault Refusal := done s (whileLive (tensorWrite b))

/-- RELAY_MODULE_LOST (R126): a timer of 1 s; a fetch of the module's image ends too (R425). -/
def execRelayModuleLost (addr : Addr) (s : State) : Host.Outcome State Fault Refusal :=
  done s (asEvent 10 fun m => imagePeerLost addr (moduleLost addr m))

end Sys2Proof.Machine
end

