-- ==== Sys2Proof/Machine/Startup.lean ====
section
/-!
DEFINITION. The start sequence: its stages, its halts, the rebuild of the flash map, and SERVING (R365, R406 to R413, R419, R424, R426,
R428, R433, R434).
-/
namespace Sys2Proof.Machine

/-! ### Halts and resets (R406, R410) -/

/-- START_MS: milliseconds from the trigger (R434). -/
def startMsNow (m : Sys) : BitVec 16 := satOf 16 (now m / msTurns)

/-- The start halts with a code; after codes 1 and 2 the transmitters stay off (R410). -/
def haltStart (code : Nat) (m : Sys) : Sys :=
  let n := m.boot.lifeHalts + 1
  let m := onBoot (fun b => { b with
    stage := stageHalted, halt := BitVec.ofNat 8 code, startMs := startMsNow m, lifeHalts := n, halts := satOf 16 n }) m
  writeRecord 0x03 false (leBytes 1 code) (onPower (fun p => { p with txOn := decide (2 < code) }) m)

/-- The settings of a start: those of the configuration copy in use, or the defaults (R412, R413). -/
def loadSettings (m : Sys) : Sys :=
  let copy := chooseCopy m.boot
  let l := chosenSettings m.boot
  let m := onBoot (fun b => { b with
    settings := l, cfgCopy := copy == some true, cfgDefault := copy.isNone, recoverPeer := (leAt l 5 1).testBit 1 }) m
  let m := onPower (fun p => { p with cap := BitVec.ofNat 7 (leAt l 2 1) }) m
  let m := onJobs (fun j => { j with svcOff := BitVec.ofNat 3 (leAt l 3 1) }) m
  let m := onFabric (fun x => { x with
    group := BitVec.ofNat 10 (leAt l 0 2), groupSet := (leAt l 0 2).testBit 15, routeAuto := (leAt l 5 1).testBit 0,
    borrowMax := BitVec.ofNat 9 (leAt l 6 2), lendMax := BitVec.ofNat 9 (leAt l 8 2) }) m
  setDisable (BitVec.ofNat 8 (leAt l 4 1)) m

/-- What the boot ROM reads: the ledger's head, totals and counts, the fuses and the configuration; and the START record that it writes
(R402, R407, R411, R424, R452, R454). Hold-up exhaustion is counted by the first start after it, since its own ledger entry was not
written (R440; log entry 37). -/
def bootRead (m : Sys) : Sys :=
  let pages := m.health.pages
  let n := m.boot.lifeStarts + 1
  let m := onHealth (fun h => { h with totals := ledgerTotals pages }) m
  let m := onlyIf (m.power.exhausted && decide (m.boot.cause.toNat ≤ 2)) (addTotal 3 1) (setTotal 1 n m)
  let m := onHealth (fun h => { h with lifeLeft := BitVec.ofNat 8 (total 162 m) }) m
  let m := onBoot (fun b => { b with
    lifeStarts := n, noServing := startsUnserved pages, starts := satOf 32 n, recoveries := satOf 16 b.lifeRecoveries,
    halts := satOf 16 b.lifeHalts, svnFloor := b.svnFuses, keyRevoked := b.revFuses, storeReady := true,
    spareLow := decide (spareSectors ≤ b.sectorsRetired) }) m
  let m := onPower (fun p => { p with lastSeq := satOf 16 (lastHoldup pages / 625) }) m
  let m := writeRecord 0x01 false (leBytes 1 m.boot.cause.toNat ++ leBytes 1 (flagAt m.power.exhausted 0) ++ zeros 2 ++ leBytes 4 n) m
  loadSettings (loadLedgerRegs m)

/-- Three clock-loss starts within 10 s (R410). -/
def clockTrouble (b : Boot) : Bool := decide (3 ≤ b.clockStarts.length) && b.clockStarts.all fun t => decide (t ≤ 10000)

/-- A clock domain loses lock: a module reset with cause 0x3, which tells no neighbour; the third within 10 s halts (R126, R406, R410). -/
def clockLost (m : Sys) : Sys :=
  if m.boot.stage = stageHalted then m
  else
    let m := onBoot (fun b => { b with clockStarts := (0 :: b.clockStarts).take 3 }) (moduleReset 3 m)
    if clockTrouble m.boot then haltStart 5 (bootRead m) else m

/-- CLOCK_LOSS (R406). -/
def execClockLoss (s : State) : Host.Outcome State Fault Refusal := done s (whileLive clockLost)

/-- STARTUP_WATCHDOG (R406): a timer; the FIRMWARE stage has run for 30 s. -/
def execStartupWatchdog (s : State) : Host.Outcome State Fault Refusal :=
  done s (asEvent 10 fun m => if m.boot.stage = 4 then moduleReset 7 m else m)

/-- ACTIVATION_RESET (R423): a timer, 10 ms after FW_ACTIVATE has completed. -/
def execActivationReset (s : State) : Host.Outcome State Fault Refusal :=
  done s (asEvent 10 fun m => if m.boot.activating then moduleReset 6 m else m)

/-! ### RAILS and BOOT_ROM (R407, R428, R468) -/

/-- The rails are up: the first sample of the input is taken, and the boot ROM runs (R407, R468). -/
def railsUp (vin iin pin : BitVec 16) (m : Sys) : Sys :=
  if m.boot.stage ≠ 0 then m else refreshInput vin iin pin (onBoot (fun b => { b with stage := 1 }) m)

/-- RAILS_DONE (R407). -/
def execRailsDone (vin iin pin : BitVec 16) (s : State) : Host.Outcome State Fault Refusal := done s (whileLive (railsUp vin iin pin))

/-- The calibration row is good: MAGIC, FORMAT and CRC (R400, R410). -/
def calGood : Bool :=
  leNat (calBytes 0 4) == 0x4C41434A && leNat (calBytes 4 2) == 1 && calBytes 0x1FFFC 4 == crcBytes (calBytes 0 0x1FFFC)

/-- The derived public key is the certificate's, and the module identity that it gives is the calibration row's (R428). -/
@[irreducible] def identityGood : Bool :=
  match pointMul basePoint identityKey 384 with
  | none => false
  | some q => q == Config.certKey && bytesAt (sha384 ([0x04] ++ beBytes 48 q.1 ++ beBytes 48 q.2)) 0 8 == calBytes 8 8

/-- The boot ROM is done: the DRAM stage follows, or a halt (R407, R410). -/
def bootRom (m : Sys) : Sys :=
  if m.boot.stage ≠ 1 then m
  else
    let m := bootRead m
    if !calGood then haltStart 1 m
    else if !identityGood then haltStart 2 m
    else onBoot (fun b => { b with identityOk := true, stage := 2 }) m

/-- BOOT_ROM_DONE (R407). -/
def execBootRomDone (s : State) : Host.Outcome State Fault Refusal := done s (whileLive bootRom)

/-! ### DRAM (R392, R397, R407) -/

/-- Locations of the failing-address list for one stack or core store, as its remap table loads them (R392). -/
def listedFor (isCore : Bool) (unit room : Nat) (m : Sys) : List Nat :=
  ((m.health.failAddrs.filter fun e => e.1 == isCore && e.2.1 == unit).map fun e => e.2.2).eraseDups.take room

/-- Load every remap table (R391, R392). -/
def loadRemaps (m : Sys) : Sys :=
  let m := forEach (List.range 12) (fun s m =>
    let l := listedFor false s 64 m
    onStack s (fun x => { x with remap := l, remapFull := l.length == 64 }) m) m
  let cores := ((m.health.failAddrs.filter (·.1)).map fun e => e.2.1).eraseDups
  forEach cores (fun n m => onCore n (fun c => { c with remap := listedFor true n 8 m }) m) m

/-- The DRAM stage is done: every stack is in service, with what its test found remapped; or the start halts (R397, R407). -/
def dramDone (failed : BitVec 12) (found : List (Fin 12 × Nat)) (m : Sys) : Sys :=
  if m.boot.stage ≠ 2 then m
  else
    let m := forEach (List.range 12) (fun s => onStack s fun x => { x with state := if failed.getLsbD s then 4 else 2 }) m
    if failed ≠ 0 then haltStart 3 m
    else
      let m := forEach found (fun e => takeRemap false e.1.val e.2) (loadRemaps m)
      onBoot (fun b => { b with stage := 3 }) (onRange (fun r => { r with t1Ready := true }) m)

/-- DRAM_STAGE_DONE (R407). -/
def execDramStageDone (failed : BitVec 12) (found : List (Fin 12 × Nat)) (s : State) : Host.Outcome State Fault Refusal :=
  done s (whileLive (dramDone failed found))

/-! ### IMAGE (R411, R418, R419) -/

/-- The boot store's image, as far as its header says that it goes. -/
def storedImage (m : Sys) : List Byte := m.boot.image.take (fwSize m.boot.image)

/-- The recovery loader runs (R419, R427). -/
def runLoader (m : Sys) : Sys :=
  let n := m.boot.lifeRecoveries + 1
  onPower (fun p => { p with txOn := true }) (onBoot (fun b => { b with
    stage := stageLoader, imageValid := false, lifeRecoveries := n, recoveries := satOf 16 n }) (runImage Config.loaderImage true false m))

/-- The IMAGE stage is done: the staged image, the boot store's or the recovery loader runs, or the start halts (R411, R419). -/
def imageDone (m : Sys) : Sys :=
  if m.boot.stage ≠ 3 then m
  else
    let forced := decide (3 ≤ m.boot.noServing)
    let staged := m.boot.staging == 2 && (fwCheck 0 m (stagedImage m)).isNone
    let stored := (fwCheck 1 m (storedImage m)).isNone
    let m := if staged then m else emptyStaging m
    if staged && !forced then
      enterFirmware (onBoot (fun b => { b with imageValid := stored }) (runImage (stagedImage m) false true m))
    else if stored && !forced then
      enterFirmware (onBoot (fun b => { b with imageValid := true }) (runImage (storedImage m) false false m))
    else if (fwCheck 1 m Config.loaderImage).isNone then runLoader m
    else haltStart 4 m

/-- IMAGE_STAGE_DONE (R419). -/
def execImageStageDone (s : State) : Host.Outcome State Fault Refusal := done s (whileLive imageDone)

/-! ### The rebuild (R361, R364, R365) -/

/-- The map state of the anchor, the map pages and the flushed journal is loaded (R365). -/
def loadImage (m : Sys) : Sys :=
  let i := m.flash.image
  onSearch (fun x => { x with registry := tmap (fun v => { v with merge := none }) i.registry })
    (onRange (fun r => { r with tensors := i.tensors })
      (onFlash (fun x => { x with
        map := i.map, blocks := i.blocks, freeSeq := i.freeSeq, owner := i.tensors.foldl (fun t e =>
          (List.range (64 * e.2.chunks.length)).foldl (fun t o =>
            let u := 64 * e.2.chunks.getD (o / 64) 0 + o % 64
            if (tfind u i.map).isSome then tset u (e.1 * 2 ^ 32 + o) t else t) t) [] }) m))

/-- A page that the scan found, with its tag. -/
abbrev Found1 := Nat × Nat × Nat × PageTag

/-- Blocks that the POINTER and RESERVE records of the last complete flush name, on dies in service: die, block, first page to read, pages
(R365). -/
def namedBlocks (gone : Nat → Bool) (m : Sys) : List (Nat × Nat × Nat × Nat) :=
  let opened := m.flash.image.pointers.map fun e => (e.1, e.2.1, e.2.2, blockPages (blockOf m e.1 e.2.1).slc)
  let reserved := m.flash.image.reserves.flatMap fun e => e.2.map fun b => (e.1, b, 0, blockPages false)
  (opened ++ reserved).filter fun e => !gone e.1

/-- Read the tags of a block from page `p` on: the good tags, the first erased page, and the pages read (R365). -/
def scanPages (m : Sys) (d b : Nat) : Nat → Nat → List Found1 × Nat × Nat
  | 0, p => ([], p, 0)
  | n + 1, p =>
    match tfind (pageKey d b p) m.flash.tags with
    | none => ([], p, 1)
    | some l =>
      let r := scanPages m d b n (p + 1)
      ((match readTag l with
        | some t => [(d, b, p, t)]
        | none => []) ++ r.1, r.2.1, r.2.2 + 1)

/-- The unit's SEQ in the records: of its map entry, or of the FREE record that unmapped it (R365). -/
def recordSeq (m : Sys) (u : Nat) : Nat :=
  max (((tfind u m.flash.image.map).map (·.seq)).getD 0) (tget 0 u m.flash.image.freeSeq)

/-- Tags that the rebuild notes, in SEQ order (R365). -/
def notedTags (m : Sys) (scan : List Found1) : List Found1 :=
  sortBy (fun (a b : Found1) => decide (a.2.2.2.seq < b.2.2.2.seq))
    (scan.filter fun g => decide (g.2.2.2.kind.toNat ≤ 3) && decide (recordSeq m g.2.2.2.unit < g.2.2.2.seq))

/-- A page was programmed in SLC mode: seal data always, a refresh in the mode of its unit (R352, R354, R373). -/
def tagSlc (m : Sys) (g : Found1) : Bool :=
  let b := blockOf m g.1 g.2.1
  let t := g.2.2.2
  if b.state = .opened then b.slc
  else if t.kind = 0 then true
  else if t.kind = 3 then ((tfind t.unit m.flash.image.map).map (·.slc)).getD false
  else false

/-- The map entry that a tag gives. -/
def tagEntry (m : Sys) (g : Found1) : MapEntry :=
  let t := g.2.2.2
  { slc := tagSlc m g, damaged := ((tfind t.unit m.flash.image.map).map fun e => e.damaged && t.kind != 0).getD false,
    block := g.2.1, page := g.2.2.1, seq := t.seq, secs := poweredSecs m }

/-- A scanned block stands at its first erased page; one whose every page fails its check counts as SLC (R365; log entry 25). -/
def scanPointer (d b : Nat) (r : List Found1 × Nat × Nat) (m : Sys) : Sys :=
  if r.2.1 = 0 then m
  else
    let slc := (r.1.head?.map (tagSlc m)).getD (if (blockOf m d b).state = .opened then (blockOf m d b).slc else true)
    onBlock d b (fun x => { x with slc, wptr := r.2.1, state := if blockPages slc ≤ r.2.1 then .full else .opened }) m

/-- A noted unit is mapped (R365). -/
def mapTag (g : Found1) (e : MapEntry) (m : Sys) : Sys :=
  let t := g.2.2.2
  journalMap t.unit (some e) (onFlash (fun x => { x with
    owner := tset t.unit (t.tensor.toNat * 2 ^ 32 + t.offset) x.owner, recovered := satInc x.recovered }) m)

/-- The chunks that a command took, from its MAP records or from the offsets of its tags. -/
def commandChunks (m : Sys) (noted : List PageTag) (g : PageTag) : List Nat :=
  match m.flash.image.seals.find? fun s => s.started && s.first == g.cmd with
  | some s => s.chunks
  | none =>
    let held := ((tensorOf m g.tensor.toNat).map (·.chunks)).getD []
    let mine := (noted.filter fun t => t.kind == 0 && t.cmd == g.cmd).map fun t => (t.offset / 64, t.unit / 64)
    ((sortBy (fun (a b : Nat × Nat) => decide (a.1 < b.1)) mine).map (·.2)).eraseDups.filter fun c => !held.contains c

/-- A tensor as a TENSOR_SEAL's COMMIT tag gives it. -/
def sealedFresh (g : PageTag) : Tensor :=
  { isSealed := true, state := .live, size := g.length, appended := g.length, place := .flash, store := freshStore true,
    copy1 := none, copy0 := none, pins := 0, ns := g.ns, touched := 0, damaged := [], motion := none, chunks := [], created := g.created, lostCores := [] }

/-- A COMMIT tag without its record: its command's units in the flushed records are mapped, and its tensor takes the tag's length and
state (R358, R365). -/
def commitTag (noted : List PageTag) (g : PageTag) (m : Sys) : Sys :=
  let n := g.tensor.toNat
  let extra := commandChunks m noted g
  let t := (tensorOf m n).getD (sealedFresh g)
  let m := match m.flash.image.seals.find? fun s => s.started && s.first == g.cmd with
    | some s => mapPlaced n (t.chunks ++ extra) s.placed m
    | none => m
  journal (.commit g.tensor g.length (if g.live then .live else .building))
    (setTensor n { t with
      chunks := t.chunks ++ extra, appended := g.length, size := if g.live then g.length else t.size,
      state := if g.live then .live else .building, place := .flash } m)

/-- Every block in ERASE_PENDING, or with its erase abandoned, is erased; one whose erase fails is retired (R364, R365). -/
def eraseLeft (fails : List (Nat × Nat)) (m : Sys) : Sys :=
  forEach (m.flash.blocks.filter fun e => e.2.state == .erasePending || e.2.state == .erasing) (fun e m =>
    let d := e.1 / 16384
    let b := e.1 % 16384
    eraseDone d b (!fails.contains (d, b)) (onBlock d b (fun x => { x with state := .erasing }) m)) m

/-- Tensors that the index registry names. -/
def registered (m : Sys) (n : TNum) : Bool :=
  m.search.registry.any fun e => e.2.root == n || e.2.parts.contains n || e.2.segments.any fun s => s.tensor == n

/-- Outputs of index writes and merges without their DONE are deleted, and so is what no search holds any more (R336, R341). -/
def dropPartial (m : Sys) : Sys :=
  let gone := m.flash.image.writing.filter fun n => !registered m n
  let old := m.search.registry.flatMap fun e => e.2.old
  removeAll (gone ++ old) (onSearch (fun x => { x with registry := tmap (fun v => { v with old := [] }) x.registry }) m)

/-- Key entries whose namespace the journal does not hold are destroyed, and namespaces without an entry are deleted with their
tensors (R433). -/
def reconcileKeys (m : Sys) : Sys :=
  let spaces := m.flash.image.spaces
  let kept := m.flash.keyTable.filter fun e => spaces.contains e.1
  let m := if kept.length = m.flash.keyTable.length then m
    else
      let q := nextSeq m
      onFlash (fun x => { x with keyTable := kept, keySeq := q.1 }) q.2
  forEach (spaces.filter fun n => (tfind n kept).isNone) (fun n m =>
    journal (.ns n false) (forEach (nsTensors m n) (fun e => dropTensor e.1 e.2) m))
    (onFlash (fun x => { x with spaces := kept.filterMap fun e => (keyUnwrap kekOf e.2).map fun k => (e.1, k) }) m)

/-- The map as the anchor, the flushed records and the scan give it (R365). -/
def rebuildMap (gone : Nat → Bool) (m : Sys) : Sys :=
  let m := loadImage m
  let blocks := (namedBlocks gone m).map fun e => (e.1, e.2.1, scanPages m e.1 e.2.1 (e.2.2.2 - e.2.2.1) e.2.2.1)
  let found := blocks.flatMap fun e => e.2.2.1
  let noted := notedTags m found
  let tags := noted.map (·.2.2.2)
  let commits := tags.filter fun t => t.kind == 0 && t.commit
  let entries := (noted.filter fun g => g.2.2.2.kind != 0 || commits.any fun c => c.cmd == g.2.2.2.cmd).map fun g => (g, tagEntry m g)
  let m := onFlash (fun x => { x with
    seq := found.foldl (fun n g => max n g.2.2.2.seq) x.seq + 2 ^ 20, scanned := satOf 24 (blocks.foldl (fun n e => n + e.2.2.2.2) 0) }) m
  let m := forEach blocks (fun e => scanPointer e.1 e.2.1 e.2.2) m
  forEach entries (fun e => mapTag e.1 e.2) (forEach commits (commitTag tags) m)

/-- The rebuild of R365 and the work of the flash branch that follows it (R332, R336, R341, R364, R366, R408, R433). -/
def rebuild (gone : Nat → Bool) (eraseFails : List (Nat × Nat)) (m : Sys) : Sys :=
  let m := reconcileKeys (dropPartial (eraseLeft eraseFails (emptyBlocks (rebuildMap gone m))))
  let d := draw m
  onFlash (fun x => { x with
    clean := x.finalFlush, finalFlush := false, rebuildTime := BitVec.ofNat 16 (d.1.toNat % (if x.finalFlush then 2001 else 4001)),
    lapStart := now m }) (finishFlush 0 (startFlush (emptyBlocks d.2)))

/-! ### FLASH_BRANCH_DONE (R345, R347, R361, R408, R410, R433) -/

/-- A channel that holds the anchor and the key table is gone, with die 0 of it. -/
def anchorLost (chanFailed : BitVec 64) (diesOut : List (Fin 1536)) (chan : Nat) : Bool :=
  chanFailed.getLsbD chan || diesOut.any fun d => d.val == 24 * chan

/-- Channels and dies are in service, or not (R345, R347). A die has too few good blocks: cause SPARE (R375). -/
def channelsUp (chanFailed : BitVec 64) (diesOut : List (Fin 1536)) (m : Sys) : Sys :=
  let m := forEach (List.range 64) (fun c m =>
    if chanFailed.getLsbD c then channelLeaves c m else onChan c (fun x => { x with state := 2 }) m) m
  let m := forEach diesOut (fun d => dieLeaves d.val) m
  onlyIf ((List.range dieCount).any fun d => decide (goodBlocks m d < neededBlocks)) (setCause 2 true) m

/-- Blocks that have been retired since shipment, per die, from the block table (R373). -/
def countRetired (m : Sys) : Sys :=
  let l := m.flash.blocks.filter fun e => e.2.state == .retired
  forEach ((l.map fun e => e.1 / 16384).eraseDups) (fun d => onDie d fun x => { x with
    retired := (l.filter fun e => e.1 / 16384 == d).length }) m

/-- The flash branch ends; a start without a key table or an anchor halts (R408, R410). -/
def flashBranch (chanFailed : BitVec 64) (diesOut : List (Fin 1536)) (eraseFails : List (Fin 1536 × BitVec 14)) (m : Sys) : Sys :=
  if m.boot.stage ≠ 4 ∨ m.boot.flashDone = true then m
  else
    let first := anchorLost chanFailed diesOut 0
    let bothLost := first && anchorLost chanFailed diesOut 32
    if bothLost ∨ m.flash.keyValid = false ∨ m.flash.keyTable.any (fun e => (keyUnwrap kekOf e.2).isNone) = true then haltStart 7 m
    else if !m.flash.anchor then haltStart 6 m
    else
      let m := onFlash (fun x => { x with keyChan := first }) m
      let gone (d : Nat) : Bool := chanFailed.getLsbD (d / 24) || diesOut.any fun e => e.val == d
      let m := countRetired (rebuild gone (eraseFails.map fun e => (e.1.val, e.2.toNat)) m)
      onBoot (fun b => { b with flashDone := true })
        (channelsUp chanFailed diesOut (onFlash (fun x => { x with ready := true, mapState := 2 }) m))

/-- FLASH_BRANCH_DONE (R408). -/
def execFlashBranchDone (chanFailed : BitVec 64) (diesOut : List (Fin 1536)) (eraseFails : List (Fin 1536 × BitVec 14)) (s : State) :
    Host.Outcome State Fault Refusal :=
  done s (whileLive (flashBranch chanFailed diesOut eraseFails))

/-! ### COMPUTE_BRANCH_DONE (R197, R392, R408, R434) -/

/-- Mark a permanent domain. -/
def markPermanent (d : Domain) (m : Sys) : Sys :=
  forEach (domainCores d) (fun n => onCore n fun c => { c with permanent := true }) (markOut d m)

/-- A domain that fails its test stays out, or leaves service (R195, R408). -/
def failsTest (d : Domain) (m : Sys) : Sys := if m.health.outNow.contains d then markOut d m else takeOut d m

/-- The compute branch ends: domains that pass return unless permanent, what the test found is remapped, and T0 has its capacity; it
waits while cores are gated by a critical sensor (R197, R392, R408, R434). -/
def computeBranch (failed : List Domain) (found : List (BitVec 12 × Nat)) (m : Sys) : Sys :=
  if m.boot.stage ≠ 4 ∨ m.boot.computeDone = true ∨ m.power.coresHeld = true then m
  else
    let m := forEach m.health.permanent markPermanent m
    let m := forEach (m.health.outNow.filter fun d => !failed.contains d) bringBack m
    let m := forEach failed failsTest m
    let m := forEach found (fun e => takeRemap true e.1.toNat e.2) m
    onBoot (fun b => { b with computeDone := true }) (onRange (fun r => { r with t0Ready := true }) m)

/-- COMPUTE_BRANCH_DONE (R408). -/
def execComputeBranchDone (failed : List Domain) (found : List (BitVec 12 × Nat)) (s : State) : Host.Outcome State Fault Refusal :=
  done s (whileLive (computeBranch failed found))

/-! ### SERVING (R409, R424, R426) -/

/-- The fuses that a running image from a valid boot store calls for are burned (R424, R452). -/
def burnFuses (m : Sys) : Sys :=
  let b := m.boot
  if b.source || b.fromT1 || !b.imageValid then m
  else
    let flags : BitVec 2 := BitVec.ofNat 2 (fwFlags b.running)
    let newSvn := decide (b.svnFuses < b.svn)
    let newRev := flags &&& ~~~b.revFuses
    let m := onBoot (fun b => { b with
      svnFuses := if newSvn then b.svn else b.svnFuses, svnFloor := if newSvn then b.svn else b.svnFloor,
      revFuses := b.revFuses ||| flags, keyRevoked := b.keyRevoked ||| flags }) m
    let m := onlyIf newSvn (firmwareRec 3 b.release.toNat b.svn.toNat) m
    onlyIf (newRev != 0) (firmwareRec 4 b.release.toNat b.svn.toNat) m

/-- The module reaches SERVING (R409): P1, credits, relays, the SERVING record, a checkpoint (R454), due fuses, the notice of R443, and
the self-commit of an image that runs from T1 (R426). -/
def reachServing (m : Sys) : Sys :=
  if m.boot.stage ≠ 4 ∨ m.boot.flashDone = false ∨ m.boot.computeDone = false then m
  else
    let ms := startMsNow m
    let m := onBoot (fun b => { b with stage := stageServing, startMs := ms }) m
    let m := onPower (fun p => { p with current := 1, target := 1 }) (onHealth (fun h => { h with mode := 0 }) m)
    let b := m.boot
    let m := writeRecord 0x02 false (leBytes 4 ms.toNat ++ leBytes 4 b.release.toNat ++ leBytes 1 (flagAt b.source 0)) m
    let m := reportAll (burnFuses (writeCheckpoint m))
    let m := notice 0x1A 0 (leBytes 1 b.cause.toNat ++ leBytes 1 (flagAt b.source 0) ++ zeros 2 ++ leBytes 4 b.release.toNat) m
    onlyIf b.fromT1 (beginCommit none) m

/-- SERVING (R409). -/
def execServing (s : State) : Host.Outcome State Fault Refusal := done s (whileLive reachServing)

end Sys2Proof.Machine
end

