-- ==== Sys2Proof/Machine/Dispatch.lean ====
section
/-!
DEFINITION. One arm per row of the opcode table: the meaning of each command, arrival, register access, event and descriptor.
-/
namespace Sys2Proof.Machine

def exec (i : Instr) (s : State) : Host.Outcome State Fault Refusal :=
  match i with
  | .nop c => Sys2Proof.Machine.execNop c s
  | .read c => Sys2Proof.Machine.execRead c s
  | .write c => Sys2Proof.Machine.execWrite c s
  | .powerState c => Sys2Proof.Machine.execPowerState c s
  | .abortTag c => Sys2Proof.Machine.execAbortTag c s
  | .jobSubmit c => Sys2Proof.Machine.execJobSubmit c s
  | .jobEnd c => Sys2Proof.Machine.execJobEnd c s
  | .jobQuery c => Sys2Proof.Machine.execJobQuery c s
  | .ctxOpen c => Sys2Proof.Machine.execCtxOpen c s
  | .ctxClose c => Sys2Proof.Machine.execCtxClose c s
  | .indexCreate c => Sys2Proof.Machine.execIndexCreate c s
  | .indexDrop c => Sys2Proof.Machine.execIndexDrop c s
  | .indexQuery c => Sys2Proof.Machine.execIndexQuery c s
  | .search c => Sys2Proof.Machine.execSearch c s
  | .indexInsert c => Sys2Proof.Machine.execIndexInsert c s
  | .indexDelete c => Sys2Proof.Machine.execIndexDelete c s
  | .indexMerge c => Sys2Proof.Machine.execIndexMerge c s
  | .tensorCreate c => Sys2Proof.Machine.execTensorCreate c s
  | .tensorDelete c => Sys2Proof.Machine.execTensorDelete c s
  | .tensorMove c => Sys2Proof.Machine.execTensorMove c s
  | .tensorDrop c => Sys2Proof.Machine.execTensorDrop c s
  | .tensorPin c => Sys2Proof.Machine.execTensorPin c s
  | .tensorUnpin c => Sys2Proof.Machine.execTensorUnpin c s
  | .tensorSeal c => Sys2Proof.Machine.execTensorSeal c s
  | .sealAppend c => Sys2Proof.Machine.execSealAppend c s
  | .sealClose c => Sys2Proof.Machine.execSealClose c s
  | .tensorQuery c => Sys2Proof.Machine.execTensorQuery c s
  | .nsCreate c => Sys2Proof.Machine.execNsCreate c s
  | .nsDelete c => Sys2Proof.Machine.execNsDelete c s
  | .nsQuery c => Sys2Proof.Machine.execNsQuery c s
  | .mediaQuery c => Sys2Proof.Machine.execMediaQuery c s
  | .mediaFlush c => Sys2Proof.Machine.execMediaFlush c s
  | .fwQuery c => Sys2Proof.Machine.execFwQuery c s
  | .fwLoad c => Sys2Proof.Machine.execFwLoad c s
  | .fwVerify c => Sys2Proof.Machine.execFwVerify c s
  | .fwCommit c => Sys2Proof.Machine.execFwCommit c s
  | .fwActivate c => Sys2Proof.Machine.execFwActivate c s
  | .fwFetch c => Sys2Proof.Machine.execFwFetch c s
  | .fwDiscard c => Sys2Proof.Machine.execFwDiscard c s
  | .attest c => Sys2Proof.Machine.execAttest c s
  | .certRead c => Sys2Proof.Machine.execCertRead c s
  | .calRead c => Sys2Proof.Machine.execCalRead c s
  | .cfgRead c => Sys2Proof.Machine.execCfgRead c s
  | .cfgWrite c => Sys2Proof.Machine.execCfgWrite c s
  | .healthQuery c => Sys2Proof.Machine.execHealthQuery c s
  | .ledgerRead c => Sys2Proof.Machine.execLedgerRead c s
  | .ledgerMark c => Sys2Proof.Machine.execLedgerMark c s
  | .ledgerCheckpoint c => Sys2Proof.Machine.execLedgerCheckpoint c s
  | .healthSelftest c => Sys2Proof.Machine.execHealthSelftest c s
  | .taskWrite port b => Sys2Proof.Machine.execTaskWrite port b s
  | .commandDispatch => Sys2Proof.Machine.execCommandDispatch s
  | .taskRegisterFree ep reg => Sys2Proof.Machine.execTaskRegisterFree ep reg s
  | .completion b => Sys2Proof.Machine.execCompletion b s
  | .completionResend rook ep reg => Sys2Proof.Machine.execCompletionResend rook ep reg s
  | .tensorWriteAck b => Sys2Proof.Machine.execTensorWriteAck b s
  | .relayModuleLost addr => Sys2Proof.Machine.execRelayModuleLost addr s
  | .qreset ep => Sys2Proof.Machine.execQreset ep s
  | .epCntClr ep => Sys2Proof.Machine.execEpCntClr ep s
  | .relayResetWrite ep value => Sys2Proof.Machine.execRelayResetWrite ep value s
  | .relayResetRead ep src tag => Sys2Proof.Machine.execRelayResetRead ep src tag s
  | .regWrite b => Sys2Proof.Machine.execRegWrite b s
  | .regRead b => Sys2Proof.Machine.execRegRead b s
  | .regReadResp b => Sys2Proof.Machine.execRegReadResp b s
  | .pwrCapWrite value => Sys2Proof.Machine.execPwrCapWrite value s
  | .portDisable mask => Sys2Proof.Machine.execPortDisable mask s
  | .fabCntClr => Sys2Proof.Machine.execFabCntClr s
  | .retest core => Sys2Proof.Machine.execRetest core s
  | .coreCntClr core => Sys2Proof.Machine.execCoreCntClr core s
  | .migCntClr => Sys2Proof.Machine.execMigCntClr s
  | .numCntClr => Sys2Proof.Machine.execNumCntClr s
  | .rollCompute => Sys2Proof.Machine.execRollCompute s
  | .opCntClr => Sys2Proof.Machine.execOpCntClr s
  | .jobCntClr => Sys2Proof.Machine.execJobCntClr s
  | .serviceDisable mask => Sys2Proof.Machine.execServiceDisable mask s
  | .srchCntClr => Sys2Proof.Machine.execSrchCntClr s
  | .mapFlush => Sys2Proof.Machine.execMapFlush s
  | .mapCntClr => Sys2Proof.Machine.execMapCntClr s
  | .eccCntClr => Sys2Proof.Machine.execEccCntClr s
  | .evtCheckpoint => Sys2Proof.Machine.execEvtCheckpoint s
  | .evtCntClr => Sys2Proof.Machine.execEvtCntClr s
  | .istPause on => Sys2Proof.Machine.execIstPause on s
  | .regCntClr => Sys2Proof.Machine.execRegCntClr s
  | .groupWindowWrite b => Sys2Proof.Machine.execGroupWindowWrite b s
  | .groupWindowRead b => Sys2Proof.Machine.execGroupWindowRead b s
  | .emergencyPowerOffArm offset value => Sys2Proof.Machine.execEmergencyPowerOffArm offset value s
  | .emergencyPowerOff => Sys2Proof.Machine.execEmergencyPowerOff s
  | .epoArmTimeout => Sys2Proof.Machine.execEpoArmTimeout s
  | .i2cRestart => Sys2Proof.Machine.execI2cRestart s
  | .vinPreMate => Sys2Proof.Machine.execVinPreMate s
  | .prechargeEnd vinMated => Sys2Proof.Machine.execPrechargeEnd vinMated s
  | .vinStart mv => Sys2Proof.Machine.execVinStart mv s
  | .inputLow1s => Sys2Proof.Machine.execInputLow1s s
  | .powerFail src mv => Sys2Proof.Machine.execPowerFail src mv s
  | .holdupProgramsDone => Sys2Proof.Machine.execHoldupProgramsDone s
  | .finalJournalFlushDone => Sys2Proof.Machine.execFinalJournalFlushDone s
  | .holdupLedgerDone => Sys2Proof.Machine.execHoldupLedgerDone s
  | .holdupExhaustion => Sys2Proof.Machine.execHoldupExhaustion s
  | .holdupRestart => Sys2Proof.Machine.execHoldupRestart s
  | .holdupCharged => Sys2Proof.Machine.execHoldupCharged s
  | .holdupMeasurement => Sys2Proof.Machine.execHoldupMeasurement s
  | .holdupMeasurementDone energy => Sys2Proof.Machine.execHoldupMeasurementDone energy s
  | .capPeriod inputMw arithMw => Sys2Proof.Machine.execCapPeriod inputMw arithMw s
  | .pwrInputRefresh vin iin pin => Sys2Proof.Machine.execPwrInputRefresh vin iin pin s
  | .sensorThreshold cls idx temp => Sys2Proof.Machine.execSensorThreshold cls idx temp s
  | .thermalCritical cls idx temp => Sys2Proof.Machine.execThermalCritical cls idx temp s
  | .thermalSecond => Sys2Proof.Machine.execThermalSecond s
  | .thermalShutdown cls idx => Sys2Proof.Machine.execThermalShutdown cls idx s
  | .criticalActionEnd cls => Sys2Proof.Machine.execCriticalActionEnd cls s
  | .opticsCooldown port => Sys2Proof.Machine.execOpticsCooldown port s
  | .p2Exit => Sys2Proof.Machine.execP2Exit s
  | .entryAbandon => Sys2Proof.Machine.execEntryAbandon s
  | .p3ConvertersOff => Sys2Proof.Machine.execP3ConvertersOff s
  | .clockLoss => Sys2Proof.Machine.execClockLoss s
  | .railsDone vin iin pin => Sys2Proof.Machine.execRailsDone vin iin pin s
  | .bootRomDone => Sys2Proof.Machine.execBootRomDone s
  | .dramStageDone failed found => Sys2Proof.Machine.execDramStageDone failed found s
  | .imageStageDone => Sys2Proof.Machine.execImageStageDone s
  | .flashBranchDone chanFailed diesOut eraseFails => Sys2Proof.Machine.execFlashBranchDone chanFailed diesOut eraseFails s
  | .computeBranchDone failed found => Sys2Proof.Machine.execComputeBranchDone failed found s
  | .serving => Sys2Proof.Machine.execServing s
  | .startupWatchdog => Sys2Proof.Machine.execStartupWatchdog s
  | .activationReset => Sys2Proof.Machine.execActivationReset s
  | .loaderRetry => Sys2Proof.Machine.execLoaderRetry s
  | .signalDetect port => Sys2Proof.Machine.execSignalDetect port s
  | .laneLock port => Sys2Proof.Machine.execLaneLock port s
  | .equaliserAgreed port => Sys2Proof.Machine.execEqualiserAgreed port s
  | .frameLock port => Sys2Proof.Machine.execFrameLock port s
  | .hello port h => Sys2Proof.Machine.execHello port h s
  | .lossOfLock port locked => Sys2Proof.Machine.execLossOfLock port locked s
  | .retrainTrigger port => Sys2Proof.Machine.execRetrainTrigger port s
  | .fastRetrainTimeout port => Sys2Proof.Machine.execFastRetrainTimeout port s
  | .fullTrainingFailed port => Sys2Proof.Machine.execFullTrainingFailed port s
  | .failedRetry port => Sys2Proof.Machine.execFailedRetry port s
  | .dataFrame port raw => Sys2Proof.Machine.execDataFrame port raw s
  | .idleFrame port raw => Sys2Proof.Machine.execIdleFrame port raw s
  | .replayTimeout port => Sys2Proof.Machine.execReplayTimeout port s
  | .streamResendTimeout key => Sys2Proof.Machine.execStreamResendTimeout key s
  | .streamClose key => Sys2Proof.Machine.execStreamClose key s
  | .controlReissue => Sys2Proof.Machine.execControlReissue s
  | .replayShareRoom vc => Sys2Proof.Machine.execReplayShareRoom vc s
  | .e2eAck b => Sys2Proof.Machine.execE2eAck b s
  | .tensorRead b => Sys2Proof.Machine.execTensorRead b s
  | .tensorReadResp b => Sys2Proof.Machine.execTensorReadResp b s
  | .tensorWrite b => Sys2Proof.Machine.execTensorWrite b s
  | .collScale b => Sys2Proof.Machine.execCollScale b s
  | .collData b => Sys2Proof.Machine.execCollData b s
  | .collRaw b => Sys2Proof.Machine.execCollRaw b s
  | .collScaleTimeout src scaleRef => Sys2Proof.Machine.execCollScaleTimeout src scaleRef s
  | .linkState port ls => Sys2Proof.Machine.execLinkState port ls s
  | .assign identity member => Sys2Proof.Machine.execAssign identity member s
  | .election => Sys2Proof.Machine.execElection s
  | .routeRecompute => Sys2Proof.Machine.execRouteRecompute s
  | .discoveryDone => Sys2Proof.Machine.execDiscoveryDone s
  | .routeSet b => Sys2Proof.Machine.execRouteSet b s
  | .routeCommit b => Sys2Proof.Machine.execRouteCommit b s
  | .routeStageExpire epoch => Sys2Proof.Machine.execRouteStageExpire epoch s
  | .hostPortFailover => Sys2Proof.Machine.execHostPortFailover s
  | .rookHandover => Sys2Proof.Machine.execRookHandover s
  | .memberUnreachable addr powerFail => Sys2Proof.Machine.execMemberUnreachable addr powerFail s
  | .leaseReq identity addr gib => Sys2Proof.Machine.execLeaseReq identity addr gib s
  | .leaseGrant identity addr lease gib => Sys2Proof.Machine.execLeaseGrant identity addr lease gib s
  | .leaseRecall lease => Sys2Proof.Machine.execLeaseRecall lease s
  | .leaseRelease lease => Sys2Proof.Machine.execLeaseRelease lease s
  | .leaseGrantTimeout => Sys2Proof.Machine.execLeaseGrantTimeout s
  | .leaseIdleRelease lease => Sys2Proof.Machine.execLeaseIdleRelease lease s
  | .recallLate lease => Sys2Proof.Machine.execRecallLate lease s
  | .lenderUnreachable identity => Sys2Proof.Machine.execLenderUnreachable identity s
  | .borrowerUnreachable identity => Sys2Proof.Machine.execBorrowerUnreachable identity s
  | .powerFailNotice port => Sys2Proof.Machine.execPowerFailNotice port s
  | .event b => Sys2Proof.Machine.execEvent b s
  | .fabricReset => Sys2Proof.Machine.execFabricReset s
  | .jobAdmission => Sys2Proof.Machine.execJobAdmission s
  | .taskPlacement => Sys2Proof.Machine.execTaskPlacement s
  | .descriptorIssue task desc => Sys2Proof.Machine.execDescriptorIssue task desc s
  | .descriptorComplete task desc => Sys2Proof.Machine.execDescriptorComplete task desc s
  | .taskComplete task => Sys2Proof.Machine.execTaskComplete task s
  | .stepEnd => Sys2Proof.Machine.execStepEnd s
  | .servingStepStart => Sys2Proof.Machine.execServingStepStart s
  | .jobFault d core half => Sys2Proof.Machine.execJobFault d core half s
  | .budgetExpiry => Sys2Proof.Machine.execBudgetExpiry s
  | .jobStopComplete => Sys2Proof.Machine.execJobStopComplete s
  | .engineIdleGate core half => Sys2Proof.Machine.execEngineIdleGate core half s
  | .collectiveTimeout coll => Sys2Proof.Machine.execCollectiveTimeout coll s
  | .shardTimeout coll member => Sys2Proof.Machine.execShardTimeout coll member s
  | .matmul task d => Sys2Proof.Machine.execMatmul task d s
  | .hamming task d => Sys2Proof.Machine.execHamming task d s
  | .ewArray task d => Sys2Proof.Machine.execEwArray task d s
  | .sketch task d => Sys2Proof.Machine.execSketch task d s
  | .ew task d => Sys2Proof.Machine.execEw task d s
  | .norm task d => Sys2Proof.Machine.execNorm task d s
  | .softmax task d => Sys2Proof.Machine.execSoftmax task d s
  | .reduce task d => Sys2Proof.Machine.execReduce task d s
  | .convert task d => Sys2Proof.Machine.execConvert task d s
  | .move task d => Sys2Proof.Machine.execMove task d s
  | .gather task d => Sys2Proof.Machine.execGather task d s
  | .scatter task d => Sys2Proof.Machine.execScatter task d s
  | .scatterAdd task d => Sys2Proof.Machine.execScatterAdd task d s
  | .relayout task d => Sys2Proof.Machine.execRelayout task d s
  | .transpose task d => Sys2Proof.Machine.execTranspose task d s
  | .topk task d => Sys2Proof.Machine.execTopk task d s
  | .select task d => Sys2Proof.Machine.execSelect task d s
  | .allreduce task d => Sys2Proof.Machine.execAllreduce task d s
  | .allgather task d => Sys2Proof.Machine.execAllgather task d s
  | .filter task d => Sys2Proof.Machine.execFilter task d s
  | .scan task d => Sys2Proof.Machine.execScan task d s
  | .descNop task d => Sys2Proof.Machine.execDescNop task d s
  | .emit task d => Sys2Proof.Machine.execEmit task d s
  | .tCreate task d => Sys2Proof.Machine.execTCreate task d s
  | .tDelete task d => Sys2Proof.Machine.execTDelete task d s
  | .tMove task d => Sys2Proof.Machine.execTMove task d s
  | .tDrop task d => Sys2Proof.Machine.execTDrop task d s
  | .tPin task d => Sys2Proof.Machine.execTPin task d s
  | .tUnpin task d => Sys2Proof.Machine.execTUnpin task d s
  | .tSeal task d => Sys2Proof.Machine.execTSeal task d s
  | .tAppend task d => Sys2Proof.Machine.execTAppend task d s
  | .tClose task d => Sys2Proof.Machine.execTClose task d s
  | .motionStart => Sys2Proof.Machine.execMotionStart s
  | .unitTransferDone tensor => Sys2Proof.Machine.execUnitTransferDone tensor s
  | .journalFlush => Sys2Proof.Machine.execJournalFlush s
  | .journalFlushDone tens => Sys2Proof.Machine.execJournalFlushDone tens s
  | .mapPageWriteback page => Sys2Proof.Machine.execMapPageWriteback page s
  | .sealStep tensor => Sys2Proof.Machine.execSealStep tensor s
  | .flashProgramDone die block page ok => Sys2Proof.Machine.execFlashProgramDone die block page ok s
  | .flashEraseDone die block ok => Sys2Proof.Machine.execFlashEraseDone die block ok s
  | .blockErase die block => Sys2Proof.Machine.execBlockErase die block s
  | .flashReadDone unit depth waitUs => Sys2Proof.Machine.execFlashReadDone unit depth waitUs s
  | .dieSuspend die => Sys2Proof.Machine.execDieSuspend die s
  | .dieResume die => Sys2Proof.Machine.execDieResume die s
  | .suspendWindowEnd die => Sys2Proof.Machine.execSuspendWindowEnd die s
  | .eraseForcedStart die => Sys2Proof.Machine.execEraseForcedStart die s
  | .folding die => Sys2Proof.Machine.execFolding die s
  | .garbageCollection die => Sys2Proof.Machine.execGarbageCollection die s
  | .refresh die block => Sys2Proof.Machine.execRefresh die block s
  | .patrol unit depth => Sys2Proof.Machine.execPatrol unit depth s
  | .dieOut die => Sys2Proof.Machine.execDieOut die s
  | .channelClockLoss chan => Sys2Proof.Machine.execChannelClockLoss chan s
  | .lockstepMismatch op => Sys2Proof.Machine.execLockstepMismatch op s
  | .scrub loc => Sys2Proof.Machine.execScrub loc s
  | .scrubSlow => Sys2Proof.Machine.execScrubSlow s
  | .narrowWriteMerge tensor off data => Sys2Proof.Machine.execNarrowWriteMerge tensor off data s
  | .stackPhyLoss stack => Sys2Proof.Machine.execStackPhyLoss stack s
  | .stackRetrainTimeout stack => Sys2Proof.Machine.execStackRetrainTimeout stack s
  | .uncorrectableDataError tensor unit => Sys2Proof.Machine.execUncorrectableDataError tensor unit s
  | .bootSuspend waitUs => Sys2Proof.Machine.execBootSuspend waitUs s
  | .bootResume => Sys2Proof.Machine.execBootResume s
  | .bootOpDone ok => Sys2Proof.Machine.execBootOpDone ok s
  | .ledgerSectorErase => Sys2Proof.Machine.execLedgerSectorErase s
  | .ledgerAppend => Sys2Proof.Machine.execLedgerAppend s
  | .hourlyCheckpoint => Sys2Proof.Machine.execHourlyCheckpoint s
  | .lifeLeftUpdate => Sys2Proof.Machine.execLifeLeftUpdate s
  | .noticeSend => Sys2Proof.Machine.execNoticeSend s
  | .istTick => Sys2Proof.Machine.execIstTick s
  | .istTestDone unit fail => Sys2Proof.Machine.execIstTestDone unit fail s
  | .stackRetrainDone stack => Sys2Proof.Machine.execStackRetrainDone stack s
  | .bootSuspendWindowEnd => Sys2Proof.Machine.execBootSuspendWindowEnd s
  | .channelRetrainDone chan ok => Sys2Proof.Machine.execChannelRetrainDone chan ok s
  | .inputInterruption mv => Sys2Proof.Machine.execInputInterruption mv s
  | .selftestDone domains lanes channels => Sys2Proof.Machine.execSelftestDone domains lanes channels s

end Sys2Proof.Machine
end

