-- ==== Sys2Proof/Machine/Idle.lean ====
section
/-!
DEFINITION. What a turn without inputs does (R435, R461; log entry 1): what the module does on its own as soon as it can, the steps of
an entry to P2 or P3 (R32, R120, R469), the frames that leave (R51), and the close of the turn's events.
-/
namespace Sys2Proof.Machine

/-! ### Entry to P2 or P3 (R32, R33, R120, R163, R469) -/

/-- The entry goes on to another step. -/
def entryStep (step : EntryStep) (waitSeq : Nat) : Sys → Sys := onPower fun p =>
  { p with entry := p.entry.map fun e => { e with step, waitSeq } }

/-- A command other than the entry's own is executing here, so the entry pauses (R120). -/
def entryPaused (e : Entry) (m : Sys) : Bool := m.task.running.any fun c => !sameCmd c e.cmd

/-- The tensor's home is in T0. -/
def homeInT0 (t : Tensor) : Bool := match t.place with
  | .t0 _ => true
  | _ => false

/-- A motion of the tensor holds space in T0. -/
def motionToT0 (t : Tensor) : Bool := match t.motion with
  | some mo => match mo.dest with
    | .t0 _ => true
    | _ => false
  | none => false

/-- Entry to P2 is complete: T0 holds nothing, and the command is DONE (R32, R119). -/
def enterP2 (e : Entry) (m : Sys) : Sys :=
  let m := forEach (m.range.tensors.map (·.1)) dropCopy0 m
  endWith e.cmd stDone (onPower (fun p => { p with entry := none, inTransition := false, current := 2, target := 2 }) m)

/-- The record under which entry to P2 waits for room for a tensor, due at once where there is none yet (R160, R163). -/
def entryWait (n : Nat) (m : Sys) : SpaceWait × Sys :=
  match m.range.waits.find? fun w => w.ask == .entry && w.tensor.toNat == n with
  | some w => (w, m)
  | none =>
    let (w, m) := newWait .engine n .entry m
    ({ w with due := true }, m)

/-- The next move out of T0: to T1, or to TN where T1 cannot take the tensor; without room the entry is abandoned (R32, R163). -/
def entryMove (e : Entry) (m : Sys) : Sys :=
  match m.range.tensors.find? fun x => homeInT0 x.2 with
  | some (n, t) =>
    let (w, m) := entryWait n m
    if t.motion.isSome || !w.due then m
    else match findPlace w.need 0xF noCores t.size (endEntryWaits m) with
      | (.at p, m) => requestMotion n (newMotion p 1 w.order) m
      | (.wait, m) => waitFor { w with due := false } m
      | (.full, m) => abandonEntry m
  | none => if m.range.tensors.any fun x => motionToT0 x.2 then m else enterP2 e m

/-- Every lease held is given back, and what lay in it is lost (R469 step 3). -/
def giveLeasesBack (m : Sys) : Sys :=
  forEach m.fabric.borrowed (fun x m =>
    loseInLease x.1 (sendLease kLeaseRelease (leaseAddr m x.2) x.2.number x.2.gib (onFabric (fun f => { f with borrowed := tdel x.1 f.borrowed }) m))) m

/-- Entry to P3 is complete (R469 step 4). -/
def entryComplete (e : Entry) (m : Sys) : Sys :=
  endWith e.cmd stDone (onPower (fun p => { p with entry := none, inTransition := false, current := 3, target := 3, p3Pending := true }) m)

/-- One step of an entry in progress (R469). -/
def advanceEntry (m : Sys) : Sys :=
  match m.power.entry with
  | none => m
  | some e =>
    match e.step with
    | .waitJobs =>
      if m.jobs.job.isSome || !m.jobs.queue.isEmpty then m
      else if e.target = 2 then entryStep .moves 0 m
      else entryStep .flush (m.flash.seq + 1) m
    | .moves => if entryPaused e m then m else entryMove e m
    | .flush =>
      if entryPaused e m || decide (m.flash.journalSeq.toNat < e.waitSeq) then m
      else
        let m := writeCheckpoint m
        entryStep .checkpoint (m.health.nextPage - 1) m
    | .checkpoint => if entryPaused e m || decide (programmedPage m < e.waitSeq) then m else entryStep .releaseLeases 0 m
    | .releaseLeases => if entryPaused e m then m else entryStep .complete 0 (giveLeasesBack m)
    | .complete => if entryPaused e m then m else entryComplete e m

/-! ### What the module does as soon as it can -/

/-- Cores whose removal waited for the job's end (R393). -/
def removeDue (m : Sys) : Sys :=
  if m.jobs.job.isSome then m
  else forEach (m.cores.filter fun e => e.2.removalDue) (fun e m =>
    takeOut (.core (BitVec.ofNat 12 e.1)) (onCore e.1 (fun c => { c with removalDue := false }) m)) m

/-- A stack that R397 calls out for its uncorrectable lines. -/
def removeStack (m : Sys) : Sys := match badStack m with
  | some s => stackOut s 2 m
  | none => m

/-- Search contexts that were dispatched before become active, and the registry as the last turn left it is what commands dispatched in this one
see (R317, R318). -/
def searchTurn (m : Sys) : Sys := joinSearches (onSearch (fun s => { s with prior := s.registry }) m)

/-- Merge buffer entries drain, a turn in which a core waits for operands counts, and the engines take their cycles (R27, R165, R184, R390). -/
def freshTurn (m : Sys) : Sys := engineCycles <| onlyIf (coreWaits m) stallTurn (onIntegrity (fun x => { x with merge := [] }) m)

/-- The module's own work in a turn (R26, R72, R87, R114, R393, R397, R458). -/
def ownWork (m : Sys) : Sys :=
  let m := freshTurn (searchTurn (onPower moveAllow m))
  let m := removeStack (removeDue m)
  let m := forEach (m.flash.chans.map (·.1)) beginRetrain m
  let m := releaseRecalled (advanceEntry m)
  drainHost (forEach (m.task.eps.map (·.1)) answerReads m)

/-- The transmitters turn off 10 µs into a hold-up sequence (R34). -/
def holdupTx (m : Sys) : Sys :=
  if inHoldup m && decide (usTurns 10 ≤ now m - m.power.pfTurn) then onPower (fun p => { p with txOn := false }) m else m

/-- The turn's events are closed into EVT.SIMUL and the next turn begins (R435, R461). -/
def closeTurn (m : Sys) : Sys :=
  onHealth (fun h => { h with
    turn := satInc h.turn, inTurn := [], setNow := [], multi := if h.inTurn.eraseDups.length < 2 then h.multi else satInc h.multi,
    maxIn := satMax h.maxIn h.inTurn.length }) m

/-- One turn passes. A module whose hub is not powered has no turns. -/
def turnPasses (m : Sys) : Sys :=
  if live m then closeTurn (sendFrames (ownWork m))
  else if inHoldup m then closeTurn (sendFrames (holdupTx m))
  else m

end Sys2Proof.Machine
end

