-- ==== Sys2Proof/Machine/Step.lean ====
section
/-!
DEFINITION. One step: the input at the front of the queue is carried out; with nothing waiting, one turn passes (log entry 1).
-/
namespace Sys2Proof.Machine

/-- One step of the machine. -/
def step (s : State) : Host.Outcome State Fault Refusal :=
  match s.pending with
  | [] => .next { s with sys := turnPasses s.sys }
  | i :: rest => exec i { s with pending := rest }

/-- The state with the command that a word spells put in front of its queue. No row of the opcode table has bits, so no word
spells a command and the state stays as it is. -/
def State.withFetchWord (s : State) (nbits w : Nat) : State :=
  match Sys2Proof.decodeTableWord nbits w with
  | some i => { s with pending := i :: s.pending }
  | none => s

end Sys2Proof.Machine
end

