-- ==== Sys2Proof/WellFormed.lean ====
section
/-!
DEFINITION. Which inputs are well formed: what the layouts of command blocks, blocks, descriptors and frames fix (R52, R54, R64, R65,
R97, R279), and the ranges that the operand types leave open. A meaning is given for every input; this says which ones the hardware
can present.
-/
namespace Sys2Proof
open Sys2Proof.Machine

/-- A command block of the row's opcode, with its 92 parameter bytes (R97, R98). -/
def commandGood (op : Byte) (c : Cmd) : Bool := c.opcode == op && c.param.length == 92

/-- A block of the row's kind: on the kind's virtual channel, its length a multiple of 4 up to 4,096 bytes (R64, R65). -/
def blockGood (kind : Byte) (b : Block) : Bool :=
  b.kind == kind && kindGood b && decide (b.body.length ≤ 4096) && b.body.length % 4 == 0

/-- A descriptor of the row's operation code, with its 24 PARAM bytes (R279). -/
def descriptorGood (op : Byte) (d : Desc) : Bool := d.op == op && d.param.length == 24

/-- A HELLO counts buffers for four virtual channels, and an adapter declares 1 to 16 endpoints (R58, R63). -/
def helloGood (h : Hello) : Bool := h.free.length == 4 && (!h.isHost || (decide (1 ≤ h.endpoints) && decide (h.endpoints ≤ 16)))

/-- The neighbours of a LINK_STATE stand under rising port numbers (R76). -/
def linkGood (l : LinkInfo) : Bool := keysRise (l.neighbours.map fun e => (e.1.toNat, e.2))

/-- A block number of a die : 10,176 blocks (R344). -/
def flashBlockGood (b : BitVec 14) : Bool := decide (b < 10176)

/-- An input that the hardware can present. -/
def Instr.wf : Instr → Bool
  | .nop c => commandGood 0x00 c
  | .read c => commandGood 0x01 c
  | .write c => commandGood 0x02 c
  | .powerState c => commandGood 0x08 c
  | .abortTag c => commandGood 0x0A c
  | .jobSubmit c => commandGood 0x10 c
  | .jobEnd c => commandGood 0x11 c
  | .jobQuery c => commandGood 0x12 c
  | .ctxOpen c => commandGood 0x18 c
  | .ctxClose c => commandGood 0x19 c
  | .indexCreate c => commandGood 0x20 c
  | .indexDrop c => commandGood 0x21 c
  | .indexQuery c => commandGood 0x22 c
  | .search c => commandGood 0x24 c
  | .indexInsert c => commandGood 0x25 c
  | .indexDelete c => commandGood 0x26 c
  | .indexMerge c => commandGood 0x27 c
  | .tensorCreate c => commandGood 0x30 c
  | .tensorDelete c => commandGood 0x31 c
  | .tensorMove c => commandGood 0x32 c
  | .tensorDrop c => commandGood 0x33 c
  | .tensorPin c => commandGood 0x34 c
  | .tensorUnpin c => commandGood 0x35 c
  | .tensorSeal c => commandGood 0x36 c
  | .sealAppend c => commandGood 0x37 c
  | .sealClose c => commandGood 0x38 c
  | .tensorQuery c => commandGood 0x39 c
  | .nsCreate c => commandGood 0x50 c
  | .nsDelete c => commandGood 0x51 c
  | .nsQuery c => commandGood 0x52 c
  | .mediaQuery c => commandGood 0x58 c
  | .mediaFlush c => commandGood 0x59 c
  | .fwQuery c => commandGood 0x60 c
  | .fwLoad c => commandGood 0x61 c
  | .fwVerify c => commandGood 0x62 c
  | .fwCommit c => commandGood 0x63 c
  | .fwActivate c => commandGood 0x64 c
  | .fwFetch c => commandGood 0x65 c
  | .fwDiscard c => commandGood 0x66 c
  | .attest c => commandGood 0x68 c
  | .certRead c => commandGood 0x69 c
  | .calRead c => commandGood 0x6A c
  | .cfgRead c => commandGood 0x6C c
  | .cfgWrite c => commandGood 0x6D c
  | .healthQuery c => commandGood 0x70 c
  | .ledgerRead c => commandGood 0x71 c
  | .ledgerMark c => commandGood 0x72 c
  | .ledgerCheckpoint c => commandGood 0x73 c
  | .healthSelftest c => commandGood 0x74 c
  | .taskWrite _ b => blockGood kTaskWrite b
  | .commandDispatch => true
  | .taskRegisterFree _ _ => true
  | .completion b => blockGood kCompletion b
  | .completionResend _ _ _ => true
  | .tensorWriteAck b => blockGood kTensorWriteAck b
  | .relayModuleLost _ => true
  | .qreset _ => true
  | .epCntClr _ => true
  | .relayResetWrite _ _ => true
  | .relayResetRead _ _ _ => true
  | .regWrite b => blockGood kRegWrite b
  | .regRead b => blockGood kRegRead b
  | .regReadResp b => blockGood kRegReadResp b
  | .pwrCapWrite _ => true
  | .portDisable _ => true
  | .fabCntClr => true
  | .retest _ => true
  | .coreCntClr _ => true
  | .migCntClr => true
  | .numCntClr => true
  | .rollCompute => true
  | .opCntClr => true
  | .jobCntClr => true
  | .serviceDisable _ => true
  | .srchCntClr => true
  | .mapFlush => true
  | .mapCntClr => true
  | .eccCntClr => true
  | .evtCheckpoint => true
  | .evtCntClr => true
  | .istPause _ => true
  | .regCntClr => true
  | .groupWindowWrite b => blockGood kRegWrite b
  | .groupWindowRead b => blockGood kRegRead b
  | .emergencyPowerOffArm _ _ => true
  | .emergencyPowerOff => true
  | .epoArmTimeout => true
  | .i2cRestart => true
  | .vinPreMate => true
  | .prechargeEnd _ => true
  | .vinStart _ => true
  | .inputLow1s => true
  | .powerFail _ _ => true
  | .holdupProgramsDone => true
  | .finalJournalFlushDone => true
  | .holdupLedgerDone => true
  | .holdupExhaustion => true
  | .holdupRestart => true
  | .holdupCharged => true
  | .holdupMeasurement => true
  | .holdupMeasurementDone _ => true
  | .capPeriod _ _ => true
  | .pwrInputRefresh _ _ _ => true
  | .sensorThreshold _ _ _ => true
  | .thermalCritical _ _ _ => true
  | .thermalSecond => true
  | .thermalShutdown _ _ => true
  | .criticalActionEnd _ => true
  | .opticsCooldown _ => true
  | .p2Exit => true
  | .entryAbandon => true
  | .p3ConvertersOff => true
  | .clockLoss => true
  | .railsDone _ _ _ => true
  | .bootRomDone => true
  | .dramStageDone _ found => found.all fun e => decide (e.2 < 2 ^ 32)
  | .imageStageDone => true
  | .flashBranchDone _ _ fails => fails.all fun e => flashBlockGood e.2
  | .computeBranchDone _ _ => true
  | .serving => true
  | .startupWatchdog => true
  | .activationReset => true
  | .loaderRetry => true
  | .signalDetect _ => true
  | .laneLock _ => true
  | .equaliserAgreed _ => true
  | .frameLock _ => true
  | .hello _ h => helloGood h
  | .lossOfLock _ _ => true
  | .retrainTrigger _ => true
  | .fastRetrainTimeout _ => true
  | .fullTrainingFailed _ => true
  | .failedRetry _ => true
  | .dataFrame _ raw => raw.length == 320
  | .idleFrame _ raw => raw.length == 320
  | .replayTimeout _ => true
  | .streamResendTimeout _ => true
  | .streamClose _ => true
  | .controlReissue => true
  | .replayShareRoom _ => true
  | .e2eAck b => blockGood kE2eAck b
  | .tensorRead b => blockGood kTensorRead b
  | .tensorReadResp b => blockGood kTensorReadResp b
  | .tensorWrite b => blockGood kTensorWrite b
  | .collScale b => blockGood kCollScale b
  | .collData b => blockGood kCollData b
  | .collRaw b => blockGood kCollRaw b
  | .collScaleTimeout _ _ => true
  | .linkState _ ls => linkGood ls
  | .assign _ _ => true
  | .election => true
  | .routeRecompute => true
  | .discoveryDone => true
  | .routeSet b => blockGood kRouteSet b
  | .routeCommit b => blockGood kRouteCommit b
  | .routeStageExpire _ => true
  | .hostPortFailover => true
  | .rookHandover => true
  | .memberUnreachable _ _ => true
  | .leaseReq _ _ gib => gib != 0
  | .leaseGrant _ _ _ gib => gib != 0
  | .leaseRecall _ => true
  | .leaseRelease _ => true
  | .leaseGrantTimeout => true
  | .leaseIdleRelease _ => true
  | .recallLate _ => true
  | .lenderUnreachable _ => true
  | .borrowerUnreachable _ => true
  | .powerFailNotice _ => true
  | .event b => blockGood kEvent b
  | .fabricReset => true
  | .jobAdmission => true
  | .taskPlacement => true
  | .descriptorIssue _ _ => true
  | .descriptorComplete _ _ => true
  | .taskComplete _ => true
  | .stepEnd => true
  | .servingStepStart => true
  | .jobFault _ _ _ => true
  | .budgetExpiry => true
  | .jobStopComplete => true
  | .engineIdleGate _ _ => true
  | .collectiveTimeout _ => true
  | .shardTimeout _ _ => true
  | .matmul _ d => descriptorGood 0x01 d
  | .hamming _ d => descriptorGood 0x02 d
  | .ewArray _ d => descriptorGood 0x03 d
  | .sketch _ d => descriptorGood 0x04 d
  | .ew _ d => descriptorGood 0x10 d
  | .norm _ d => descriptorGood 0x11 d
  | .softmax _ d => descriptorGood 0x12 d
  | .reduce _ d => descriptorGood 0x13 d
  | .convert _ d => descriptorGood 0x14 d
  | .move _ d => descriptorGood 0x20 d
  | .gather _ d => descriptorGood 0x21 d
  | .scatter _ d => descriptorGood 0x22 d
  | .scatterAdd _ d => descriptorGood 0x23 d
  | .relayout _ d => descriptorGood 0x24 d
  | .transpose _ d => descriptorGood 0x25 d
  | .topk _ d => descriptorGood 0x30 d
  | .select _ d => descriptorGood 0x31 d
  | .allreduce _ d => descriptorGood 0x38 d
  | .allgather _ d => descriptorGood 0x39 d
  | .filter _ d => descriptorGood 0x40 d
  | .scan _ d => descriptorGood 0x41 d
  | .descNop _ d => descriptorGood 0x50 d
  | .emit _ d => descriptorGood 0x58 d
  | .tCreate _ d => descriptorGood 0x60 d
  | .tDelete _ d => descriptorGood 0x61 d
  | .tMove _ d => descriptorGood 0x62 d
  | .tDrop _ d => descriptorGood 0x63 d
  | .tPin _ d => descriptorGood 0x64 d
  | .tUnpin _ d => descriptorGood 0x65 d
  | .tSeal _ d => descriptorGood 0x66 d
  | .tAppend _ d => descriptorGood 0x67 d
  | .tClose _ d => descriptorGood 0x68 d
  | .motionStart => true
  | .unitTransferDone _ => true
  | .journalFlush => true
  | .journalFlushDone _ => true
  | .mapPageWriteback _ => true
  | .sealStep _ => true
  | .flashProgramDone _ block _ _ => flashBlockGood block
  | .flashEraseDone _ block _ => flashBlockGood block
  | .blockErase _ block => flashBlockGood block
  | .flashReadDone _ _ _ => true
  | .dieSuspend _ => true
  | .dieResume _ => true
  | .suspendWindowEnd _ => true
  | .eraseForcedStart _ => true
  | .folding _ => true
  | .garbageCollection _ => true
  | .refresh _ block => flashBlockGood block
  | .patrol _ _ => true
  | .dieOut _ => true
  | .channelClockLoss _ => true
  | .lockstepMismatch _ => true
  | .scrub _ => true
  | .scrubSlow => true
  | .narrowWriteMerge _ _ data => !data.isEmpty
  | .stackPhyLoss _ => true
  | .stackRetrainTimeout _ => true
  | .uncorrectableDataError _ _ => true
  | .bootSuspend _ => true
  | .bootResume => true
  | .bootOpDone _ => true
  | .ledgerSectorErase => true
  | .ledgerAppend => true
  | .hourlyCheckpoint => true
  | .lifeLeftUpdate => true
  | .noticeSend => true
  | .istTick => true
  | .istTestDone _ _ => true
  | .stackRetrainDone _ => true
  | .bootSuspendWindowEnd => true
  | .channelRetrainDone _ _ => true
  | .inputInterruption _ => true
  | .selftestDone _ _ _ => true

end Sys2Proof
end

