-- ==== Sys2Proof/Safety.lean ====
section
/-!
DEFINITION. The terms in which claims about the module are made: what an input does to everything but the queue, when commands are
carried out, and what a sound state is.
-/
namespace Sys2Proof.Machine

/-! ### Outcomes -/

/-- Carrying out input `i` in state `s` answers a next state: the queue stays as it was and everything else is `m`. -/
def Becomes (i : Instr) (s : State) (m : Sys) : Prop := exec i s = .next { s with sys := m }

/-- Carrying out input `i` in state `s` answers a next state: the queue stays as it was and everything else satisfies `P`. -/
def Answers (i : Instr) (s : State) (P : Sys → Prop) : Prop := ∃ m, exec i s = .next { s with sys := m } ∧ P m

/-- Commands are carried out: the module runs, its stage is SERVING (R409), and it is not at rest in P2, which a command would first
leave (R32, R121). -/
def serves (m : Sys) : Bool :=
  live m && m.boot.stage == stageServing && !(m.power.current == 2 && m.power.entry.isNone)

/-- What a descriptor row finds to carry out: the module runs, and the running job has a placed task whose issued descriptor `d` may run, and its operands
have arrived (R164, R189, R294). The descriptor's number in its task, and its shape. -/
def readyDesc (m : Sys) (task : BitVec 16) (d : Desc) : Option (Nat × Shape) :=
  if !live m then none
  else m.jobs.job.bind fun j => match issuedAs j task.toNat d, shapeNow j d with
    | some i, some sh => if mayRun j d && !operandWaits m j d sh then some (i, sh) else none
    | _, _ => none

/-- The searches without the list of the commands in progress that it keeps for their snapshots (R318). -/
def indexes (m : Sys) : Search := { m.search with seen := [] }

/-- Tensors, cores, jobs, searches, flash, error counts and the start stand in `n` as they stand in `m`: only links, task registers,
power, health and the list of search commands in progress may differ. -/
def sameContents (m n : Sys) : Prop :=
  n.range = m.range ∧ n.cores = m.cores ∧ n.jobs = m.jobs ∧ indexes n = indexes m ∧ n.flash = m.flash ∧ n.integrity = m.integrity ∧
    n.boot = m.boot

/-- The command block of a command's row; events, timers and descriptors have none. -/
def commandOf : Instr → Option Cmd
  | .nop c | .read c | .write c | .powerState c | .abortTag c | .jobSubmit c | .jobEnd c | .jobQuery c | .ctxOpen c
  | .ctxClose c | .indexCreate c | .indexDrop c | .indexQuery c | .search c | .indexInsert c | .indexDelete c
  | .indexMerge c | .tensorCreate c | .tensorDelete c | .tensorMove c | .tensorDrop c | .tensorPin c | .tensorUnpin c
  | .tensorSeal c | .sealAppend c | .sealClose c | .tensorQuery c | .nsCreate c | .nsDelete c | .nsQuery c
  | .mediaQuery c | .mediaFlush c | .fwQuery c | .fwLoad c | .fwVerify c | .fwCommit c | .fwActivate c | .fwFetch c
  | .fwDiscard c | .attest c | .certRead c | .calRead c | .cfgRead c | .cfgWrite c | .healthQuery c | .ledgerRead c
  | .ledgerMark c | .ledgerCheckpoint c | .healthSelftest c => some c
  | _ => none

/-- The rows that act on a module that is off: its input, its management pins, and its restart (R21 to R24, R36). -/
def actsWhenOff : Instr → Bool
  | .emergencyPowerOffArm _ _ | .emergencyPowerOff | .epoArmTimeout | .i2cRestart => true
  | .vinPreMate | .prechargeEnd _ | .vinStart _ | .inputLow1s | .powerFail _ _ | .holdupRestart | .inputInterruption _ => true
  | _ => false

/-- What an input does to everything but the queue. -/
def effect (i : Instr) (m : Sys) : Sys := match exec i { pending := [], sys := m } with
  | .next t => t.sys
  | _ => m

/-- What `n` steps answer. -/
def steps : Nat → State → Host.Outcome State Fault Refusal
  | 0, s => .next s
  | n + 1, s => match step s with
    | .next t => steps n t
    | o => o

/-! ### Sound states -/

/-- PWR_CAP.CAP stands for a cap that a write may set: 30 to 95 (R25). -/
def capSound (m : Sys) : Prop := 30 ≤ m.power.cap.toNat ∧ m.power.cap.toNat ≤ 95

/-- Emergency power-off is latched and the module is off (R22). -/
def latched (m : Sys) : Prop := m.power.epoLatch = true ∧ m.power.run = .off

/-- A run of `k` steps answers a next state at every step: it meets no fault and no refusal. -/
def SafeRun (k : Nat) (s : State) : Prop := ∃ t, steps k s = .next t

end Sys2Proof.Machine
end

