-- ==== Sys2Proof/Certificates/Slice0/Obligations.lean ====
section
/-!
DEFINITION. The statements for the provers. Each docstring names the rules of spec/ that the statement formalises; log entries are those
of notes/assumptions.
-/
open Sys2Proof Sys2Proof.Machine

/-- A step takes the input at the front of the queue and carries it out with the queue's rest (log entry 1: the queue is the model's). -/
def Obligations.StepCarriesOutTheFrontCommand : Prop :=
  ∀ (c : Instr) (s : State), step { s with pending := c :: s.pending } = exec c s

/-- Every input has a meaning in every state and leaves the queue as it was, so that no run meets a fault or a refusal; an input above
62.0 V has no upper limit (R23). -/
def Obligations.EveryInputIsAnswered : Prop :=
  (∀ (i : Instr) (s : State), Answers i s fun _ => True) ∧ ∀ (k : Nat) (s : State), SafeRun k s

/-- The commands of "Task registers and command flow" (R100, R105, R117, R119). A transition that is refused or held back is not shown. -/
def Obligations.TaskFlowCommandsTakeEffect : Prop :=
  (∀ c s, serves s.sys = true → Becomes (.nop c) s (complete c (ending stDone) (startCmd c s.sys))) ∧
  (∀ c s t, serves s.sys = true → userNumber (tnumOf c.tensor) = true → tensorOf s.sys (tnumOf c.tensor) = some t →
    offsetOf c.tensor + c.length.toNat ≤ t.size → t.state ≠ .building → c.length ≠ 0 →
    unitsBusy c (tnumOf c.tensor) (offsetOf c.tensor) c.length.toNat (startCmd c s.sys) = false →
    stackWaits s.sys t (offsetOf c.tensor) c.length.toNat = false → readRaces s.sys (tnumOf c.tensor) = false →
    let r := readTensor (tnumOf c.tensor) (offsetOf c.tensor) c.length.toNat (startCmd c s.sys)
    let e := readEnding (tnumOf c.tensor) r.1
    Becomes (.read c) s (if e.status = stDone then deliver c r.1.bytes [] r.2 else complete c e r.2)) ∧
  (∀ c s t, serves s.sys = true → userNumber (tnumOf c.tensor) = true → tensorOf s.sys (tnumOf c.tensor) = some t →
    offsetOf c.tensor + c.length.toNat ≤ t.size → t.state ≠ .lost → c.length ≠ 0 →
    unitsBusy c (tnumOf c.tensor) (offsetOf c.tensor) c.length.toNat (startCmd c s.sys) = false → (s.sys.task.fetches.all fun f => !sameCmd f.cmd c) = true →
    Becomes (.write c) s (if t.isSealed then endWith c stReadOnly (startCmd c s.sys) else beginFetch c (startCmd c s.sys))) ∧
  (∀ c s (want : BitVec 2), serves s.sys = true → want = BitVec.ofNat 2 (par c 32 1) → s.sys.power.inTransition = false → s.sys.power.current = 1 →
    (want = 1 → Becomes (.powerState c) s (complete c (ending stDone) (startCmd c s.sys))) ∧
    ((want = 2 ∧ t0Leaves (startCmd c s.sys) = true) ∨ want = 3 → s.sys.fabric.rook = false → s.sys.fabric.lent = [] →
      Becomes (.powerState c) s (onPower (fun p => { p with
        inTransition := true, target := want, entry := some { target := want, cmd := c, step := .waitJobs, waitSeq := 0 } })
        (startCmd c s.sys)))) ∧
  (∀ c s h, serves s.sys = true → c.rook = ownAddr s.sys → tfind c.reg.toNat (epOf s.sys c.ep.toNat).held = some h →
    (abortTarget (epOf s.sys c.ep.toNat) (BitVec.ofNat 16 (par c 32 2)) h.order = none →
      Becomes (.abortTag c) s (endWith c stAbortMissed (startCmd c s.sys))) ∧
    (∀ x, abortTarget (epOf s.sys c.ep.toNat) (BitVec.ofNat 16 (par c 32 2)) h.order = some x → x.phase = .waiting → x.cmd.opcode ≠ 0x0A →
      Becomes (.abortTag c) s (endWith c stAborted (endWith x.cmd stAborted (startCmd c s.sys))))) ∧
  (∀ c s d, serves s.sys = true → c.rook ≠ ownAddr s.sys →
    ((s.sys.task.relayed.takeWhile fun d => !sameCmd d c).find? fun d => d.rook == c.rook && d.ep == c.ep &&
      d.tag == BitVec.ofNat 16 (par c 32 2)) = some d → d.opcode ≠ 0x0A →
    (startCmd c s.sys).task.running.any (sameCmd d) = false →
    Becomes (.abortTag c) s (endWith c stAborted (endWith d stAborted (startCmd c s.sys))))

/-- The job commands (R284, R286, R296, R300, R304). -/
def Obligations.JobCommandsTakeEffect : Prop :=
  (∀ c s, serves s.sys = true → let m := startCmd c s.sys
    m.jobs.queue.all (fun w => !sameCmd w.cmd c) = true → (∀ j, m.jobs.job = some j → sameCmd j.cmd c = false) →
    wholeTensor m (par c 32 8) = true → wholeTensor m (par c 40 8) = true → subStart c + subSteps c ≤ 2 ^ 32 →
    serviceOff m (peekService (subPlan c) m).toNat = false → m.jobs.queue.length < 64 → m.power.entry = none → m.health.selftest = none →
    Becomes (.jobSubmit c) s (onJobs (fun x => { x with
      queue := x.queue ++ [{ no := x.nextNo, cmd := c, service := peekService (subPlan c) m }],
      nextNo := if x.nextNo = 0xFFFFFFFF then 1 else x.nextNo + 1, wrapped := x.wrapped || x.nextNo == 0xFFFFFFFF }) m)) ∧
  (∀ c s j, serves s.sys = true → s.sys.jobs.job = some j → (par c 32 4 = 0 ∨ BitVec.ofNat 32 (par c 32 4) = j.no) → j.admitting = false →
    j.enders.any (sameCmd c) = false →
    Becomes (.jobEnd c) s
      (if j.stopping.isSome then complete c (enderEnding true) (startCmd c s.sys)
       else onJob (fun j => { j with enders := j.enders ++ [c] }) (startCmd c s.sys))) ∧
  (∀ c s, serves s.sys = true → (s.sys.jobs.job.all fun j => BitVec.ofNat 32 (par c 32 4) != 0 && j.no != BitVec.ofNat 32 (par c 32 4)) = true →
    (s.sys.jobs.queue.any fun w => w.no == BitVec.ofNat 32 (par c 32 4)) = false → wasGiven s.sys (BitVec.ofNat 32 (par c 32 4)) = true →
    Becomes (.jobEnd c) s (complete c (enderEnding true) (startCmd c s.sys))) ∧
  (∀ c s j, serves s.sys = true → s.sys.jobs.job = some j → (par c 32 4 = 0 ∨ BitVec.ofNat 32 (par c 32 4) = j.no) →
    Becomes (.jobQuery c) s
      (complete c { doneWith (jobQueryResult j.no (jobState s.sys) j.step j.ctxs.length) with pips := j.pips } (startCmd c s.sys))) ∧
  (∀ c s j t, serves s.sys = true → let m := startCmd c s.sys
    let len := par c 36 4
    let new := par c 40 4
    m.jobs.job = some j → j.plan.serving = true → j.admitting = false → j.stopping = none → j.service.toNat = par c 32 1 →
    serviceOff m (par c 32 1) = false → (j.waiting.any fun x => sameCmd x.cmd c) = false → (j.ctxs.any fun e => sameCmd e.2.cmd c) = false →
    1 ≤ len → 1 ≤ new → len + new ≤ j.plan.maxPos → 4 * new ≤ c.length.toNat →
    userNumber (tnumOf c.tensor) = true → tensorOf m (tnumOf c.tensor) = some t → offsetOf c.tensor + 4 * len ≤ t.size →
    t.state ≠ .building → unitsBusy c (tnumOf c.tensor) (offsetOf c.tensor) (4 * len) m = false →
    stackWaits m t (offsetOf c.tensor) (4 * len) = false →
    let r := readTensor (tnumOf c.tensor) (offsetOf c.tensor) (4 * len) m
    (readEnding (tnumOf c.tensor) r.1).status = stDone →
    Becomes (.ctxOpen c) s (onJob (fun j => { j with waiting := j.waiting ++
      [newCtx c ((List.range len).map fun i => BitVec.ofNat 32 (leAt r.1.bytes (4 * i) 4)) false m] }) r.2)) ∧
  (∀ c s j x, serves s.sys = true → s.sys.jobs.job = some j → j.plan.serving = true → j.admitting = false →
    (j.ctxs.any fun e => e.2.closers.any (sameCmd c)) = false → tfind (par c 32 2) j.ctxs = some x → x.search = false →
    Becomes (.ctxClose c) s (onJob (fun j => { j with
      ctxs := tset (par c 32 2) { x with ending := some (x.ending.getD stDone), closers := x.closers ++ [c] } j.ctxs }) (startCmd c s.sys)))

/-- The commands on indexes (R312, R317 to R320, R329, R330, R333). -/
def Obligations.IndexCommandsTakeEffect : Prop :=
  (∀ c s n t, serves s.sys = true → let m := startCmd c s.sys
    let id := par c 32 2
    askUnderWay (.cmd c) m = false → serviceOff m 1 = false → 1 ≤ id → id ≤ 1023 → indexOf m c = none → tfind id m.search.registry = none →
    namedTensor c.tensor = some n → tensorOf m n = some t → t.isSealed = true → t.state = .live → t.size = 4096 →
    let r := addrRead (n * 2 ^ 40) 4096 (runOf 0 m)
    Becomes (.indexCreate c) s
      (if r.2.failed then complete c (runEnding r.2) r.2.sys
       else match (readRoot r.1).filter (compsGood m) with
        | none => endWith c stBadCommand r.2.sys
        | some x => bindFlush (.cmd c) stDone [] (journal (.registry id) (onSearch (fun z => { z with
            registry := tset id
              { root := BitVec.ofNat 24 n, parts := compTensors x, version := 0, segments := [], nextOrd := 1, merge := none,
                objects := [], old := [] } z.registry }) r.2.sys)))) ∧
  (∀ c s, serves s.sys = true → let m := startCmd c s.sys
    let id := par c 32 2
    askUnderWay (.cmd c) m = false → serviceOff m 1 = false → indexOf m c ≠ none → indexActive m c = false →
    Becomes (.indexDrop c) s (bindFlush (.cmd c) stDone [] (journal (.registry id)
      (removeAll (((tfind id m.search.registry).map fun i => i.segments.map (·.tensor)).getD [])
        (onSearch (fun z => { z with registry := tdel id z.registry }) m))))) ∧
  (∀ c s i, serves s.sys = true → let m := startCmd c s.sys
    indexOf m c = some i → serviceOff m 1 = false →
    let r := rootOf i (runOf 0 m)
    Becomes (.indexQuery c) s
      (match r.1 with
       | none => complete c (runEnding { r.2 with bad := r.2.bad || !r.2.failed }) r.2.sys
       | some x =>
         let b := liveBase i x r.2
         if b.2.failed then complete c (runEnding b.2) b.2.sys
         else complete c (doneWith (resultOf
           [(40, leBytes 8 x.count), (48, leBytes 4 (liveSide i)), (52, leBytes 1 (i.segments.filter fun s => !s.tomb).length),
            (53, leBytes 1 (i.segments.filter fun s => s.tomb).length), (54, leBytes 1 (flagAt i.merge.isSome 0)),
            (56, leBytes 4 (baseTensors x (b.1.length + liveSide i)))])) b.2.sys)) ∧
  (∀ c s i, serves s.sys = true → let m := startCmd c s.sys
    snapOf m c = none → indexOf m c = some i → serviceOff m 1 = false → leaderOf m c = none → searchJob m ≠ none →
    let r := rootOf i (runOf 0 m)
    Becomes (.search c) s
      (match r.1 with
       | none => if r.2.failed then endSearch c (runEnding r.2) r.2.sys else refuseSearch c (ending stBadCommand) r.2.sys
       | some x =>
         let v := readSearch c x r.2
         let read := !v.1.contains .wait && !v.1.contains .busy && !v.2.failed
         if searchGood c false x = false then refuseSearch c (ending stBadCommand) r.2.sys
         else if v.1.contains .bad || (read && !searchInput (searchAsk c) x (askedBytes v.1)) then
           refuseSearch c (ending stBadCommand) v.2.sys
         else if v.1.contains .busy then refuseSearch c (ending stBusy) v.2.sys
         else if v.1.contains .wait then m
         else if v.2.failed then endSearch c (runEnding v.2) v.2.sys
         else onlyIf (searchAsk c).sharded (leadSearch c x (askedBytes v.1)) (waitCtx c i (askedBytes v.1) v.2.sys))) ∧
  (∀ c s i bytes, serves s.sys = true → snapOf s.sys c = some (i, bytes) → walks s.sys c = true →
    (s.sys.search.shards.any fun x => sameCmd x.cmd c && x.walked) = false →
    Becomes (.search c) s (runSearch c i bytes (startCmd c s.sys))) ∧
  (∀ c s i n, serves s.sys = true → let m := startCmd c s.sys
    indexWriteUnderWay c m = false → snapOf m c = none → indexOf m c = some i → serviceOff m 1 = false →
    freeNumberGood m (par c 36 4) = true → searchJob m ≠ none →
    let r := rootOf i (runOf 0 m)
    let begins (good : Root → Bool) : Sys := match r.1 with
      | none => if r.2.failed then complete c (runEnding r.2) r.2.sys else endWith c stBadCommand r.2.sys
      | some x =>
        if good x = false then endWith c stBadCommand r.2.sys
        else if readOnly m then endWith c stReadOnly r.2.sys
        else waitCtx c i [] r.2.sys
    (1 ≤ par c 40 4 → par c 40 4 ≤ 16777216 → namedTensor c.tensor = some n → tensorBusy c (tnumOf c.tensor) m = false →
      heldBack (.cmd c) (par c 36 4) m = false →
      Becomes (.indexInsert c) s (begins fun x => (namedBatch m c (par c 40 4 * batchRow x)).isSome)) ∧
    (mergeRuns m c = false → Becomes (.indexMerge c) s (begins (buildGood c)))) ∧
  (∀ c s i bytes, serves s.sys = true → let m := startCmd c s.sys
    indexWriteUnderWay c m = false → snapOf m c = some (i, bytes) → walks m c = true →
    Becomes (.indexInsert c) s (formInsert c i m) ∧ Becomes (.indexMerge c) s (formMerge c (par c 32 2) i m)) ∧
  (∀ c s i n, serves s.sys = true → let m := startCmd c s.sys
    let b := addrRead (n * 2 ^ 40) (8 * par c 40 4) (runOf 0 m)
    let l := (sortBy (fun x y => decide (x < y)) ((pieces 8 b.1).map leNat)).eraseDups
    indexWriteUnderWay c m = false → indexOf m c = some i → namedBatch m c (8 * par c 40 4) = some n →
    1 ≤ par c 40 4 → par c 40 4 ≤ 16777216 → freeNumberGood m (par c 36 4) = true → serviceOff m 1 = false →
    heldBack (.cmd c) (par c 36 4) m = false → tensorBusy c n m = false → readOnly m = false → b.2.failed = false →
    Becomes (.indexDelete c) s
      (beginSegment c i (par c 36 4) n true l (segmentHead true (par c 32 2) l.length ++ l.flatMap (leBytes 8)) b.2.sys))

/-- Create, delete, move, drop and pin (R143, R144, R154, R155, R162). -/
def Obligations.TensorCommandsTakeEffect : Prop :=
  ∀ c s n, serves s.sys = true → namedTensor c.tensor = some n → askUnderWay (.cmd c) (startCmd c s.sys) = false →
    let m := startCmd c s.sys
    let size := prm c.param 32 8
    let bit0 := flagOf c.param 0
    let bit1 := flagOf c.param 1
    let tier := tierOf c.param
    (∀ cores p m', isFree m n = true → 1 ≤ size → size ≤ 2 ^ 40 → prm c.param 40 1 = 0 → heldBack (.cmd c) n m = false →
      (if tier = 0 then coresAsked c.param = some cores else (tier = 1 ∨ tier = 4 ∨ tier = 0xF) ∧ cores = noCores) →
      let w := newWait (.cmd c) n (.create size tier bit0 bit1 cores) m
      findPlace w.1.need tier cores size w.2 = (.at p, m') → (bit1 = true → pinAllowed m' (t1Bytes p size) = true) →
      Becomes (.tensorCreate c) s (complete c (ending stDone) (addMovable n size p bit0 bit1 m'))) ∧
    (isFree m n = true → 1 ≤ size → size ≤ 2 ^ 40 → prm c.param 40 1 = 1 → tier = 0xF → bit0 = false → bit1 = false →
      nsExists m (nsOf c.param) = true → heldBack (.cmd c) n m = false → readOnly m = false →
      Becomes (.tensorCreate c) s (createSealed (.cmd c) n size (nsOf c.param) m)) ∧
    (∀ t, tensorOf m n = some t →
      (t.pins = 0 → namedByJob m n = false → inIndex m n = false → heldForMerge m n = false → tensorBusy c n m = false →
        (t.isSealed = true → startupOrHoldup m = false) →
        Becomes (.tensorDelete c) s
          (retryWaits (if t.isSealed then bindFlush (.cmd c) stDone [] (dropTensor n t m)
            else complete c (ending stDone) (dropTensor n t m)))) ∧
      (∀ cores, (if tier = 0 then coresAsked c.param = some cores else (tier = 1 ∨ (tier = 4 ∧ t.isSealed = false)) ∧ cores = noCores) →
        t.state = .live ∨ t.state = .damaged → t.motion = none → underSeal m n = false →
        let w := newWait (.cmd c) n (.move tier bit0 cores) m
        (inPlace t tier cores = true → (bit0 = true → t.pins ≠ 0xFFFF ∧ pinAllowed w.2 (pinExtra t) = true) →
          Becomes (.tensorMove c) s (complete c (ending stDone) (touch n (onlyIf bit0 (raisePin n) w.2)))) ∧
        (∀ p m', inPlace t tier cores = false → findPlace w.1.need tier cores t.size w.2 = (.at p, m') →
          Becomes (.tensorMove c) s (requestMotion n
            { newMotion p 3 w.1.order with copying := t.isSealed, touches := true, asker := .cmd c, pin := bit0 } m'))) ∧
      (t.isSealed = true → t.motion = none →
        let which := prm c.param 41 1
        Becomes (.tensorDrop c) s (retryWaits (complete c (ending stDone) (onlyIf (which.testBit 1) (dropCopy1 n)
          (onlyIf (which.testBit 0) (dropCopy0 n) (endMoves (movesTensor n which.testBit) m)))))) ∧
      (t.pins ≠ 0xFFFF → pinAllowed m (pinExtra t) = true → Becomes (.tensorPin c) s (complete c (ending stDone) (raisePin n m))) ∧
      (t.pins ≠ 0 → Becomes (.tensorUnpin c) s (complete c (ending stDone) (lowerPin n m))))

/-- Seals, queries, namespaces and the media (R145, R146, R149, R378). -/
def Obligations.SealAndNamespaceCommandsTakeEffect : Prop :=
  ∀ c s, serves s.sys = true → askUnderWay (.cmd c) (startCmd c s.sys) = false →
    let m := startCmd c s.sys
    let ns := par c 32 2
    (∀ n t, namedTensor c.tensor = some n → tensorOf m n = some t → tensorBusy c n m = false →
      (t.isSealed = false → t.state = .live → nsExists m (nsOf c.param) = true → readOnly m = false → t.motion = none →
        Becomes (.tensorSeal c) s (beginSeal (.cmd c) n n t.size (chunksFor t.size) (BitVec.ofNat 16 (nsOf c.param))
          (newWait (.cmd c) n (.seal (nsOf c.param)) m).2)) ∧
      (∀ src x, namedTensor (BitVec.ofNat 64 (prm c.param 32 8)) = some src → tensorOf m src = some x → tensorBusy c src m = false →
        t.state = .building → x.isSealed = false → x.state = .live → t.appended + x.size ≤ t.size → readOnly m = false → x.motion = none →
        Becomes (.sealAppend c) s (beginSeal (.cmd c) n src x.size (chunksFor (t.appended + x.size) - t.chunks.length) t.ns
          (newWait (.cmd c) n (.append src) m).2)) ∧
      (t.state = .building → t.appended ≠ 0 → readOnly m = false →
        Becomes (.sealClose c) s (bindFlush (.cmd c) stDone [] (journal (.tensor (BitVec.ofNat 24 n))
          (touch n (setTensor n { t with size := t.appended, state := if t.damaged.isEmpty then .live else .damaged } m)))))) ∧
    (∀ n t, namedTensor c.tensor = some n → tensorOf m n = some t →
      Becomes (.tensorQuery c) s (complete c (doneWith (queryResult m t)) (touch n m))) ∧
    (1 ≤ ns → ns ≤ 1023 → tfind ns m.flash.spaces = none → readOnly m = false →
      let key := fitBytes 64 (Config.drawKey m.health.draws)
      let q := nextSeq (onHealth (fun h => { h with draws := h.draws + 1 }) m)
      Becomes (.nsCreate c) s (bindFlush (.cmd c) stDone [] (journal (.ns ns true) (onFlash (fun x => { x with
        spaces := tset ns key x.spaces, keyTable := tset ns (keyWrap kekOf key) x.keyTable, keySeq := q.1 }) q.2)))) ∧
    (nsExists m ns = true → startupOrHoldup m = false → (m.flash.keyDrops.any fun e => sameCmd e.2.2 c) = false →
      (m.flash.seals.any fun x => x.ns.toNat == ns) = false → ((par c 34 1).testBit 0 = true ∨ nsTensors m ns = []) →
      ((nsTensors m ns).all fun e => e.2.pins == 0 && !namedByJob m e.1 && !inIndex m e.1 && !heldForMerge m e.1) = true →
      Becomes (.nsDelete c) s (retryWaits (onFlash (fun x => { x with keyDrops := x.keyDrops ++ [(x.seq, ns, c)] })
        (journal (.ns ns false) (forEach (nsTensors m ns) (fun e => dropTensor e.1 e.2) m))))) ∧
    (nsExists m ns = true →
      Becomes (.nsQuery c) s (complete c (doneWith (resultOf [(40, leBytes 4 (nsTensors m ns).length),
        (44, leBytes 8 ((nsTensors m ns).foldl (fun n e => n + e.2.chunks.length) 0))])) m)) ∧
    Becomes (.mediaQuery c) s (complete c (doneWith (resultOf
      [(40, leBytes 4 (freeChunks m)), (44, leBytes 4 (slcTarget m / 10 ^ 9)), (48, leBytes 1 (spareLeft m)), (49, leBytes 1 (wearUsed m)),
       (50, [m.flash.roCause]), (51, leBytes 1 (mapStateCode m)), (52, leBytes 4 (total 52 m))])) m) ∧
    Becomes (.mediaFlush c) s (onFlash (fun x => { x with bound := x.bound ++ [(x.seq + 1, .cmd c, stDone, [])] }) m)

/-- The firmware commands (R415, R418, R420, R421, R423, R425). -/
def Obligations.FirmwareCommandsTakeEffect : Prop :=
  ∀ c s, serves s.sys = true →
    let m := startCmd c s.sys
    Becomes (.fwQuery c) s (complete c (doneWith (fwQueryResult m)) m) ∧
    (par c 32 4 % 4096 = 0 → c.length.toNat % 4096 = 0 → c.length.toNat ≤ 16777216 → par c 32 4 + c.length.toNat ≤ 268435456 →
      m.boot.staging ≠ 3 → (m.task.fetches.any fun f => sameCmd f.cmd c) = false → c.length ≠ 0 →
      Becomes (.fwLoad c) s (beginFetch c (onBoot (fun b => { b with staging := 1 }) m))) ∧
    (m.boot.staging ≠ 3 → stagingFills m = false →
      Becomes (.fwVerify c) s (match verifyStaged m with
        | some code => complete c (reasonEnding code) m
        | none => complete c (ending stDone) (onBoot (fun b => { b with staging := 2 }) m)) ∧
      Becomes (.fwDiscard c) s (complete c (ending stDone) (emptyStaging m))) ∧
    (m.boot.commit = none → m.boot.staging = 2 →
      Becomes (.fwCommit c) s (queueBootOp (.image 0) (putImage 0 (erasedBytes 65536)
        (onBoot (fun b => { b with commit := some (some c, 0), commitStop := false, staging := 3, imageValid := false }) m)))) ∧
    (m.boot.commit = none → m.boot.staging = 2 ∨ m.boot.imageValid = true → m.jobs.job = none → m.jobs.queue = [] →
      othersHeld c m = false → m.fabric.lent = [] →
      let l := if m.boot.staging = 2 then stagedPart m 4096 else m.boot.image
      Becomes (.fwActivate c) s (onBoot (fun b => { b with activating := true }) (complete c (ending stDone)
        (onTask (fun t => { t with stopped := true, eps := tmap (fun e => { e with credit := 0 }) t.eps })
          (firmwareRec 1 (fwRelease l) (fwSvn l) m))))) ∧
    (m.boot.fetch = none → m.boot.staging = 0 →
      Becomes (.fwFetch c) s
        (if (nearPeers m).contains (BitVec.ofNat 16 (par c 32 2)) then beginImage (some c) (BitVec.ofNat 16 (par c 32 2)) m
         else complete c (ending stBadCommand) m))

/-- Identity, settings and health commands. -/
def Obligations.IdentityHealthAndSettingsCommands : Prop :=
  (∀ c s, serves s.sys = true →
     let m := startCmd c s.sys
     (512 ≤ c.length.toNat → Becomes (.attest c) s
       (deliver c (attestBody (parBytes c 32 32) m ++ ecdsaSign identityKey (attestBody (parBytes c 32 32) m)) []
         (onBoot (fun b => { b with attests := satInc b.attests }) m))) ∧
     Becomes (.certRead c) s
       (if c.length.toNat < Config.certLength then complete c (ending stBadCommand) m
        else deliver c (calBytes 0x2000 Config.certLength) (resultOf [(40, leBytes 4 Config.certLength)]) m) ∧
     (par c 32 4 + c.length.toNat ≤ 131072 → Becomes (.calRead c) s (deliver c (calBytes (par c 32 4) c.length.toNat) [] m)) ∧
     (par c 32 1 = 0 → Becomes (.cfgRead c) s (complete c (doneWith (resultOf [(40, fitBytes 16 m.boot.settings)])) m)) ∧
     (par c 32 1 = 1 → Becomes (.cfgRead c) s (complete c (doneWith (resultOf [(40, chosenSettings m.boot)])) m)) ∧
     (settingsGood (parBytes c 32 16) = true → m.boot.cfgWrites = [] →
       Becomes (.cfgWrite c) s (queueBootOp
         (.config (m.boot.cfgDefault == false && m.boot.cfgCopy == false) (configCopy (highestVersion m.boot + 1) (parBytes c 32 16)) c)
         (onBoot (fun b => { b with cfgWrites := [c] }) m)))) ∧
  (∀ c s, serves s.sys = true →
     let m := startCmd c s.sys
     (512 ≤ c.length.toNat → Becomes (.healthQuery c) s
       (deliver c (healthReport m) (resultOf [(40, leBytes 1 m.health.mode.toNat ++ leBytes 1 m.health.lifeLeft.toNat)]) m)) ∧
     (c.length.toNat % 256 = 0 → c.length.toNat ≤ 16777216 →
       let head := m.health.ledgerHead.toNat
       let l := (m.health.pages.filter fun e => decide (max (par c 32 8) m.health.ledgerWin.toNat ≤ e.1) && decide (e.1 ≤ head)).take
         (c.length.toNat / 256)
       Becomes (.ledgerRead c) s (deliver c (l.flatMap (·.2))
         (resultOf [(40, leBytes 8 ((l.head?.map (·.1)).getD 0)), (48, leBytes 8 head), (56, leBytes 4 l.length)]) m)) ∧
     (m.health.pageWaits = [] → startupOrHoldup m = false →
       (let n := appendRecords (ledgerRec 0x0E false (parBytes c 32 32) m)
        Becomes (.ledgerMark c) s (onHealth (fun h => { h with pageWaits := h.pageWaits ++ [(h.nextPage - 1, c, [])] }) n)) ∧
       (let n := writeCheckpoint m
        Becomes (.ledgerCheckpoint c) s (onHealth (fun h => { h with
          pageWaits := h.pageWaits ++ [(h.nextPage - 1, c, resultOf [(40, leBytes 8 (n.health.nextPage - 6))])] }) n))) ∧
     (m.health.selftest = none → m.jobs.job = none → m.jobs.queue = [] → m.power.current = 1 →
       Becomes (.healthSelftest c) s (onHealth (fun h => { h with selftest := some c, mode := 1, lifeLeft := checkpointLife m }) m)))

/-- Arrival, dispatch and the freeing of task registers (R94, R95, R99, R101, R103). -/
def Obligations.CommandsArriveAndAreDispatched : Prop :=
  (∀ port b s i, live s.sys = true →
    let m := takeEvent 7 (consumed b s.sys)
    let e := b.ep.toNat
    activeHost m = some port.toNat → rookServes m = true → b.host = true → b.dst = ownAddr m → b.bcast = 0 → e < (portOf m port.toNat).endpoints.toNat →
    b.body.length = 128 → (epOf m e).credit ≠ 0 → (epOf m e).resetBusy = false → taskRegister b.ep b.target = some i →
    tfind i (epOf m e).held = none →
    let c := readCommand (ownAddr m) b.ep (BitVec.ofNat 8 i) (epOf m e).epoch b.body
    Becomes (.taskWrite port b) s (onlyIf (!acceptChecks c b.body m) (endWith c stBadCommand)
      (reportCredit e (onTask (fun t => { t with order := t.order + 1 })
        (onEp e (fun x => { x with
          held := tset i { block := b.body, cmd := c, order := m.task.order, turn := now m, phase := .waiting } x.held,
          accepted := satInc x.accepted }) m))))) ∧
  (∀ s e h, rookServes s.sys = true → nextCommand s.sys = some (e, h) →
    let c := h.cmd
    let m := onTask (fun t => { t with lastEp := if c.opcode = 0x0A then t.lastEp else e }) s.sys
    let relay (d : Addr) := sendBlock { newBlock (ownAddr m) d kTensorWrite with
      target := relayWindow, tag := relayTag e c.reg.toNat, body := relayBody c h.block (ownAddr m) }
      (setPhase e c.reg.toNat (.relayed d) m)
    (routeGood c m = false → Becomes .commandDispatch s (endWith c stBadCommand m)) ∧
    (routeGood c m = true → c.opcode ≠ 0x0A → Becomes .commandDispatch s
      (if c.exec = ownAddr m then startCmd c (setPhase e c.reg.toNat .running m) else relay c.exec)) ∧
    (routeGood c m = true → c.opcode = 0x0A → Becomes .commandDispatch s (match abortAt e h m with
      | some d => relay d
      | none => abortTagCmd c m))) ∧
  (∀ s ep reg h, live s.sys = true → heldOf s.sys ep.toNat reg.toNat = some h → h.phase = .recordSent →
    recordWaits ep.toNat reg.toNat s.sys = false →
    let m := takeEvent 8 s.sys
    Becomes (.taskRegisterFree ep reg) s (settleReset ep.toNat (reportCredit ep.toNat (onEp ep.toNat (fun x => { x with
      held := tdel reg.toNat x.held,
      latMax := if h.cmd.opcode = 0x01 ∨ h.cmd.opcode = 0x02 then satMax x.latMax (now m - h.turn) else x.latMax }) m))))

/-- Records, their repeats, the answers to relays and the loss of a module (R104, R106, R110, R126). -/
def Obligations.RecordsAndRelayAnswers : Prop :=
  (∀ b s h, live s.sys = true →
    let m := takeEvent 8 (consumed b s.sys)
    let e := (recordEp b.body).toNat
    let reg := (recordReg b.body).toNat
    shardAwaiting s.sys (e * 256 + reg) b.src = none → heldOf m e reg = some h → h.phase ≠ .recordSent → h.phase ≠ .waiting → h.cmd.epoch = recordEpoch b.body →
    (epOf m e).epoch = recordEpoch b.body →
    Becomes (.completion b) s (toHost b (setPhase e reg .recordSent m))) ∧
  (∀ s r, live s.sys = true →
    let m := takeEvent 10 s.sys
    m.task.resends.find? (fun x => x.rook == r.rook && x.ep == r.ep && x.reg == r.reg) = some r →
    Becomes (.completionResend r.rook r.ep r.reg) s (sendBlock { newBlock (ownAddr m) r.rook kCompletion with
      host := true, ep := r.ep, tag := BitVec.ofNat 32 (leAt r.record 0 2), body := r.record } m)) ∧
  (∀ b s e reg h, live s.sys = true →
    let m := consumed b s.sys
    shardAwaiting s.sys (b.tag.toNat - 0x10000) b.src = none → e < 16 → reg < 256 → b.tag.toNat = 0x10000 + 256 * e + reg →
    heldOf m e reg = some h → h.phase = .relayed b.src →
    Becomes (.tensorWriteAck b) s
      (if leAt b.body 0 1 = stBusy.toNat then settleReset e (endWith h.cmd stBusy m) else setPhase e reg (.relayStarted b.src) m)) ∧
  (∀ s a, live s.sys = true → Becomes (.relayModuleLost a) s (imagePeerLost a (moduleLost a (takeEvent 10 s.sys))))

/-- The queue reset and the relay reset (R112 to R114). -/
def Obligations.ResetsOfCommandQueues : Prop :=
  ∀ s, live s.sys = true →
    (∀ ep : BitVec 4, s.sys.fabric.rook = true → (epOf s.sys ep.toNat).resetBusy = false →
      let x := epOf s.sys ep.toNat
      let told := (relayedTo x ++ subHolders s.sys ep.toNat).eraseDups
      let held := x.held.map (·.2)
      Becomes (.qreset ep) s (settleReset ep.toNat (forEach told (resetRelays ep.toNat)
        (forEach (held.filter fun h => h.phase == .running) (fun h => stopCommand h.cmd)
          (forEach (held.filter fun h => h.phase == .waiting) (fun h => endWith h.cmd stFlushed)
            (onEp ep.toNat (fun x => { x with resetBusy := true, epoch := x.epoch + 1, credit := 0, awaited := told }) s.sys)))))) ∧
    (∀ ep : BitVec 4, Becomes (.epCntClr ep) s
      (onEp ep.toNat (fun x => { x with accepted := 0, refused := 0, resets := 0, latMax := 0 }) s.sys)) ∧
    (∀ (ep : BitVec 4) (rook : Addr) (epoch : BitVec 4),
      let value : Word := rook.zeroExtend 64 ||| (epoch.zeroExtend 64 <<< 16)
      let m := onTask (fun t => { t with
          resends := t.resends.filter fun r => !(r.rook == rook && r.ep.toNat == ep.toNat && recordEpoch r.record != epoch) })
        (onEp ep.toNat (fun x => { x with relayEpoch := epoch, relayRook := rook }) s.sys)
      Becomes (.relayResetWrite ep value) s (answerReads ep.toNat
        (forEach (m.task.relayed.filter fun c => c.rook == rook && c.ep.toNat == ep.toNat && c.epoch != epoch) stopCommand m))) ∧
    (∀ (ep : BitVec 4) src tag, Becomes (.relayResetRead ep src tag) s
      (answerReads ep.toNat (onEp ep.toNat (fun x => { x with readsHeld := x.readsHeld ++ [(src, tag, none)] }) s.sys)))

/-- Register accesses and their outcomes (R463, R465 to R467), and read responses at the rook (R74, R114). -/
def Obligations.RegisterAccesses : Prop :=
  (∀ b s, regsOpen s.sys = true →
    let m := consumed b s.sys
    let a := b.target.toNat
    (a % 8 = 0 → windowAt a = none → (readReg a m).isSome = true → Becomes (.regWrite b) s (writeReg a (writtenWord b) m)) ∧
    (a % 8 ≠ 0 → Becomes (.regWrite b) s (onHealth (fun h => { h with misaligned := satInc h.misaligned }) m)) ∧
    (a % 8 = 0 → windowAt a = none → readReg a m = none →
      Becomes (.regWrite b) s (onHealth (fun h => { h with writeHole := satInc h.writeHole }) m)) ∧
    (∀ w o, a % 8 = 0 → windowAt a = some (w, false, o) → (readCore w.first o m).isSome = true →
      Becomes (.groupWindowWrite b) s (forEach (span w.first w.cores) (fun n => writeCore n o (writtenWord b)) m))) ∧
  (∀ b s, regsOpen s.sys = true → b.bcast = 0 →
    let m := consumed b s.sys
    let a := b.target.toNat
    (a % 8 ≠ 0 → Becomes (.regRead b) s (respondRead b 0 stBadCommand (onHealth (fun h => { h with misaligned := satInc h.misaligned }) m))) ∧
    (a % 8 = 0 → windowAt a = none → readReg a m = none →
      Becomes (.regRead b) s (respondRead b 0 stBadCommand (onHealth (fun h => { h with readHole := satInc h.readHole }) m))) ∧
    (∀ v, ¬(0x100000 ≤ a ∧ a < 0x200000 ∧ a % 0x10000 = 0x8040) → a % 8 = 0 → windowAt a = none → readReg a m = some v →
      Becomes (.regRead b) s (respondRead b v stDone m)) ∧
    (∀ w mismatch o, a % 8 = 0 → windowAt a = some (w, mismatch, o) → (readCore w.first o m).isSome = true →
      let l := sampleOf w o m
      Becomes (.groupWindowRead b) s (respondRead b (if mismatch then mismatchWord l else orWord l) stDone
        (onHealth (fun h => { h with
          groupRead := groupReadWord h.groupRead b w mismatch o (mismatchWord l != 0) }) m)))) ∧
  (∀ b s, live s.sys = true →
    let m := consumed b s.sys
    (b.host = true → s.sys.fabric.rook = true → Becomes (.regReadResp b) s (toHost b m)) ∧
    (∀ e, e < 16 → b.host = false → b.tag = BitVec.ofNat 32 (0x20000 + e) →
      Becomes (.regReadResp b) s (settleReset e (onEp e (fun x => { x with awaited := x.awaited.filter (· != b.src) }) m))))

/-- Writes of control registers (R10, R25, R48, R197, R216, R307, R362, R454, R459). -/
def Obligations.ControlRegisterWrites : Prop :=
  ∀ s, live s.sys = true →
    (∀ v : Word, Becomes (.pwrCapWrite v) s
      (let cap : BitVec 7 := v.extractLsb' 0 7
       if 30 ≤ cap.toNat ∧ cap.toNat ≤ 95 then
         onPower (fun p => { p with cap, capErr := p.capErr && !(v.getLsbD 8 && !setInTurn capAddr 8 s.sys) }) s.sys
       else noteSet capAddr 8 (onPower (fun p => { p with capErr := true }) s.sys))) ∧
    (∀ mask : BitVec 8, Becomes (.portDisable mask) s
      (forEach (List.range 8) (fun p m =>
        if mask.getLsbD p = true ∧ (portOf m p).train ≠ .disabled then
          leaveRouting p (onPort p (fun x => { x with train := .disabled, lanes := 0, resend := [], stalled := 0 }) m)
        else if mask.getLsbD p = false ∧ (portOf m p).train = .disabled then fullTraining p m
        else m) (onFabric (fun x => { x with portDisable := mask }) s.sys))) ∧
    (∀ mask : BitVec 3, Becomes (.serviceDisable mask) s
      (forEach ((List.range 3).filter fun i => mask.getLsbD i && !s.sys.jobs.svcOff.getLsbD i) (fun i => disableOne (i + 1))
        (onJobs (fun x => { x with svcOff := mask }) s.sys))) ∧
    (s.sys.flash.mapState = 2 → Becomes .mapFlush s
      (if s.sys.flash.flushing = none ∧ flashHold s.sys = false then startFlush s.sys
       else onFlash (fun x => { x with flushAsked := true }) s.sys)) ∧
    Becomes .evtCheckpoint s (forEach ((List.range 6).map (checkpointPart (appendRecords s.sys))) appendPage (appendRecords s.sys)) ∧
    (∀ on, Becomes (.istPause on) s (onHealth (fun h => { h with pause := on }) s.sys)) ∧
    (∀ core : BitVec 12, Becomes (.retest core) s (onCore core.toNat (fun x => { x with retest := true }) s.sys)) ∧
    (s.sys.jobs.rollDue = true →
      let j := s.sys.jobs
      Becomes .rollCompute s (onJobs (fun x => { x with
        rollValid := true, rollDue := false,
        rollOut := roll j.rollSeed (j.rollKey.extractLsb' 32 32) (j.rollKey.extractLsb' 0 32) j.rollElem.toNat j.rollNode }) s.sys))

/-- The counter clears (R9, and the CTRL registers of each chapter). -/
def Obligations.CounterClears : Prop :=
  ∀ s, live s.sys = true →
    Becomes .fabCntClr s (onFabric (fun x => { x with
      ports := tmap (fun p => { p with retrains := 0, fecCorr := 0, fecRest := 0, fecFail := 0, replays := 0 }) x.ports,
      overrideLost := 0, recallLate := 0, broken := 0, bcrcErr := 0, badBlock := 0 }) s.sys) ∧
    (∀ core : BitVec 12, Becomes (.coreCntClr core) s
      (onCore core.toNat (fun c => { c with validPips := 0, dummyPips := 0, bubblePips := 0, capHeld := 0 }) s.sys)) ∧
    Becomes .migCntClr s (onRange (fun r => { r with
      seals := 0, units := 0, full := 0, demoted := 0, dropped := 0, prefetchLost := 0, stallTurns := 0 }) s.sys) ∧
    Becomes .numCntClr s (onJobs (fun j => { j with nonfinite := 0, saturated := 0, recompute := 0 }) s.sys) ∧
    Becomes .opCntClr s (onJobs (fun j => { j with nanScore := 0, filterTrunc := 0, indexRange := 0 }) s.sys) ∧
    Becomes .jobCntClr s (onJobs (fun j => { j with faultRetries := 0, budgetOver := 0, jobsEnded := 0 }) s.sys) ∧
    Becomes .srchCntClr s (onSearch (fun x => { x with searches := 0, shorts := 0, shardFail := 0, cmp := 0, rerank := 0 }) s.sys) ∧
    Becomes .mapCntClr s (onFlash (fun x => { x with
      flushes := 0, flushMax := 0, erases := 0, copied := 0, suspends := 0, waitMax := 0, longWaits := 0, refreshed := 0,
      chans := tmap (fun c => { c with reads := 0, retry := 0, soft := 0, uncorr := 0, progFail := 0, eraseFail := 0 }) x.chans }) s.sys) ∧
    Becomes .eccCntClr s (onCores (tmap fun c => { c with eccCorr := 0, eccUncorr := 0 }) (onIntegrity (fun x => { x with
      copyDrops := 0, notWritten := 0, mergeUncorr := 0, repairs := 0,
      stackTab := tmap (fun t => { t with corrected := 0, uncorr := 0 }) x.stackTab }) s.sys)) ∧
    Becomes .evtCntClr s (onHealth (fun h => { h with
      counts := [], multi := 0, maxIn := 0, sent := 0, lost := 0, halfFail := 0, vectorFail := 0, laneFail := 0, channelFail := 0 }) s.sys) ∧
    Becomes .regCntClr s (onHealth (fun h => { h with readHole := 0, writeHole := 0, misaligned := 0, bcastRead := 0 }) s.sys)

/-- The management pin-pair, mating and the input (R22 to R24, R31, R36). DEDUCED in the model: 0x5A at 0x41 starts nothing without VIN
or inside the precharge (log entry 35). -/
def Obligations.ManagementAndInputRows : Prop :=
  ∀ s, let m := s.sys
    let started := fun (cause : Nat) (m : Sys) =>
      restart cause false (onPower (fun p => { p with path := .closed, epoLatch := false, lowForSecond := false }) m)
    let disarmed := onPower (fun p => { p with epoArmed := false })
    let mayJoin := m.power.path = .opened ∨ m.power.path = .closed
    let mayRestart := mayJoin ∧ ((m.power.epoLatch = true ∧ m.power.run = .off) ∨ m.power.run = .offline)
    let idle := live m = false ∧ inHoldup m = false
    (∀ offset value, let aimed := onPower (fun p => { p with i2cOffset := offset }) m
      let fired := onPower (fun p => { p with epoArmed := false, epoLatch := true, path := .opened }) aimed
      let row := Instr.emergencyPowerOffArm offset value
      (offset = 0x40 ∧ value = 0xE5 → Becomes row s (onPower (fun p => { p with epoArmed := true }) aimed)) ∧
      (offset = 0x40 ∧ value = 0x5E ∧ m.power.epoArmed = true →
        (live m = true → Becomes row s (powerFail .emergencyOff fired)) ∧
        (live m = false ∧ inHoldup m = true → Becomes row s (takeEvent 0 fired)) ∧
        (idle → Becomes row s (cleared (onPower (fun p => { p with run := .off }) fired)))) ∧
      (offset = 0x41 ∧ value = 0x5A → (mayRestart → Becomes row s (started 2 (disarmed aimed))) ∧ (¬ mayRestart → Becomes row s (disarmed aimed))) ∧
      (¬ (offset = 0x40 ∧ value = 0xE5) → ¬ (offset = 0x40 ∧ value = 0x5E ∧ m.power.epoArmed = true) → ¬ (offset = 0x41 ∧ value = 0x5A) →
        Becomes row s (disarmed aimed))) ∧
    (let aimed := onPower (fun p => { p with i2cOffset := 0x40 }) m
      let fired := onPower (fun p => { p with epoArmed := false, epoLatch := true, path := .opened }) aimed
      (m.power.epoArmed = true ∧ live m = true → Becomes .emergencyPowerOff s (powerFail .emergencyOff fired)) ∧
      (m.power.epoArmed = true ∧ live m = false ∧ inHoldup m = true → Becomes .emergencyPowerOff s (takeEvent 0 fired)) ∧
      (m.power.epoArmed = true ∧ idle → Becomes .emergencyPowerOff s (cleared (onPower (fun p => { p with run := .off }) fired))) ∧
      (m.power.epoArmed = false → Becomes .emergencyPowerOff s (disarmed aimed))) ∧
    i2cRead m = (i2cByte m.power.i2cOffset.toNat m, onPower (fun p => { p with i2cOffset := p.i2cOffset + 1 }) m) ∧
    Becomes .epoArmTimeout s (disarmed m) ∧
    (mayRestart → Becomes .i2cRestart s (started 2 (disarmed m))) ∧
    (idle → Becomes .vinPreMate s (onPower (fun p => { p with path := .precharging, run := .off }) m) ∧
      Becomes .inputLow1s s (onPower (fun p => { p with epoLatch := false, lowForSecond := true }) m)) ∧
    (∀ vin, m.power.path = .precharging →
      Becomes (.prechargeEnd vin) s (onPower (fun p => { p with path := if vin then .closed else .unmated }) m)) ∧
    (∀ mv, 47000 ≤ mv → m.power.epoLatch = false → mayJoin →
      m.power.run = .off ∨ (m.power.run = .offline ∧ m.power.lowForSecond = true) → Becomes (.vinStart mv) s (started 0 m)) ∧
    (m.power.run = .waitInput → Becomes .holdupRestart s (started 1 m) ∧
      ∀ mv, 62000 < mv → Becomes (.inputInterruption mv) s (onPower (fun p => { p with path := .opened }) m))

/-- The power-fail event and the hold-up sequence (R23, R34, R40, R398, R440, R454). -/
def Obligations.HoldUpSequence : Prop :=
  ∀ s, let m := s.sys
    (∀ src mv, let trips := (src = .inputLow → mv < 45000) ∧ (src = .inputHigh → 62000 < mv)
      let on := live m = true ∨ inHoldup m = true
      let n := onPower (fun p => { p with
        path := if (src = .inputHigh ∧ (p.path = .opened ∨ p.path = .closed)) ∨ (src = .emergencyOff ∧ on) then .opened else p.path,
        epoLatch := p.epoLatch || (decide (src = .emergencyOff) && decide on) }) m
      (trips → live m = true → Becomes (.powerFail src mv) s (powerFail src n)) ∧
      (trips → live m = false → inHoldup m = true → Becomes (.powerFail src mv) s (takeEvent 0 n)) ∧
      (trips → live m = false → inHoldup m = false → Becomes (.powerFail src mv) s n) ∧
      (¬ trips → Becomes (.powerFail src mv) s m)) ∧
    (m.power.run = .holdPrograms → m.flash.programs = [] →
      let n := onPower (fun p => { p with run := .holdFlush }) m
      Becomes .holdupProgramsDone s (if m.flash.mapState = 2 then startFlush (finishFlush 0 n) else n)) ∧
    (m.power.run = .holdFlush → m.integrity.stackTab.all (·.2.state != 3) = true →
      let n := if m.flash.mapState = 2 then onFlash (fun x => { x with finalFlush := true }) (finishFlush 0 m) else m
      Becomes .finalJournalFlushDone s (onPower (fun p => { p with run := .holdLedger, pfFlushTurns := now n - p.pfTurn }) n)) ∧
    (m.power.run = .holdLedger →
      Becomes .holdupLedgerDone s (converters (writeEntry (onBoot (fun b => { b with op := none, opQueue := [] }) m)))) ∧
    (inHoldup m = true →
      let n := takeEvent 1 m
      Becomes .holdupExhaustion s (converters (onPower (fun p => { p with exhausted := true })
        (onBoot (fun b => { b with op := none, opQueue := [] }) (onFlash (fun x => { x with programs := [], flushing := none })
          (onHealth (fun h => { h with
            pages := h.pages.filter fun e => decide (e.1 ≤ programmedPage n), nextPage := programmedPage n + 1 }) n))))))

/-- The hold-up store, the cap period and the input refresh (R24, R26, R28, R35, R41, R375, R468). -/
def Obligations.StoreAndCapRows : Prop :=
  ∀ s, live s.sys = true →
    let m := s.sys
    let ev := takeEvent 10 m
    (m.power.charged = false → m.power.storeState ≠ 4 →
      Becomes .holdupCharged s (setStoreState 4 (onPower (fun p => { p with storeBefore := p.storeState })
        (onPower (fun p => { p with charged := true }) m)))) ∧
    (m.power.charged = true → m.power.storeState ≠ 4 →
      Becomes .holdupMeasurement s (setStoreState 4 (onPower (fun p => { p with storeBefore := p.storeState }) ev))) ∧
    (∀ e : BitVec 16, m.power.storeState = 4 →
      let st := if 1600 ≤ e.toNat then 1 else if 1400 ≤ e.toNat then 2 else 3
      let n := onPower (fun p => { p with energy := e, measured := true, storeUsable := decide (1400 ≤ e.toNat) }) m
      let n := setTotal 161 (if total 160 n = 0 then e.toNat else min (total 161 n) e.toNat) n
      let n := setStoreState st (setTotal 160 e.toNat n)
      Becomes (.holdupMeasurementDone e) s
        (if 1400 ≤ e.toNat then (if critAct 5 n then setCause 0 false n else setCause 1 false (setCause 0 false n))
         else sealsReadOnly (setCause 1 true n))) ∧
    (∀ input arith, Becomes (.capPeriod input arith) s (onPower (fun p => { p with aCap := capAllowance p.cap.toNat input arith }) ev)) ∧
    (∀ vin iin pin : BitVec 16, m.boot.stage ≠ 0 →
      let n := onPower (fun p => { p with vin, iin, pin, capUnmet := decide (capBound p.cap.toNat < pin.toNat) }) ev
      Becomes (.pwrInputRefresh vin iin pin) s
        (if capBound m.power.cap.toNat < pin.toNat ∧ m.power.capUnmet = false then notice 0x18 1 (leBytes 2 pin.toNat) n else n))

/-- Sensors and thermal limits (R38 to R41, R443). -/
def Obligations.ThermalRows : Prop :=
  ∀ s, live s.sys = true →
    let m := s.sys
    (∀ (cls : Fin 6) (idx : BitVec 8) (temp : Int), temp < tenths (thresholds cls.val).2.2 →
      Becomes (.sensorThreshold cls idx temp) s (resumeCores (halveFlash (takeReading cls.val idx.toNat temp m)))) ∧
    (∀ (cls : Fin 6) (idx : BitVec 8) (temp : Int), tenths (thresholds cls.val).2.2 ≤ temp →
      let d := thermalDetail cls.val idx.toNat temp
      Becomes (.thermalCritical cls idx temp) s
        (halveFlash (critical cls.val idx.toNat (eventRec 4 (256 * cls.val + idx.toNat) d (notice 0x07 3 d
          (onPower (fun p => { p with critLife := tupd 0 cls.val (· + 1) p.critLife })
            (takeReading cls.val idx.toNat temp (takeEvent 3 m)))))))) ∧
    (let n := takeEvent 10 m
     Becomes .thermalSecond s (forEach (List.range 6) classSecond (onPower (fun p => { p with
       thermAllow :=
         if classAt 0 100 n ∨ classAt 1 100 n ∨ classAt 2 90 n then max 8192 (p.thermAllow - 16384)
         else if (∀ t ∈ classTemps 0 n, t ≤ 970) ∧ (∀ t ∈ classTemps 1 n, t ≤ 970) ∧ (∀ t ∈ classTemps 2 n, t ≤ 870) then
           min 524288 (p.thermAllow + 8192)
         else p.thermAllow }) n))) ∧
    (∀ (cls : Fin 6) (idx : BitVec 8) t, sensorTemp cls.val idx.toNat m = some t → tenths (thresholds cls.val).2.2 ≤ t →
      Becomes (.thermalShutdown cls idx) s (takePowerFail .thermalShutdown (notice 0x08 3 (thermalDetail cls.val idx.toNat t) m))) ∧
    (∀ cls : Fin 6, critAct cls.val m = true → classAt cls.val (thresholds cls.val).2.1 m = false →
      let n := onPower (fun p => { p with
        critActs := setBit p.critActs cls.val false, flashHalved := p.flashHalved || cls.val == 3,
        flashCooling := p.flashCooling || cls.val == 3 }) m
      Becomes (.criticalActionEnd cls) s (if cls.val = 5 then beginMeasure n else if cls.val = 3 then resumeFlash (halveFlash n) else n)) ∧
    (∀ port : BitVec 3, let n := takeEvent 10 m
      n.power.opticsOff.getLsbD port.toNat = true → (∀ t, sensorTemp 4 port.toNat n = some t → t < 750) →
      let n' := onPower (fun x => { x with opticsOff := setBit x.opticsOff port.toNat false }) n
      Becomes (.opticsCooldown port) s (if (portOf n' port.toNat).train = .disabled then n' else fullTraining port.toNat n'))

/-- The power-state rows (R32, R119 to R121, R469). -/
def Obligations.PowerStateRows : Prop :=
  ∀ s, live s.sys = true →
    let m := s.sys
    (m.power.exiting = true → Becomes .p2Exit s
      (forEach m.power.waitExit (fun c => if c.opcode = 0x08 then endWith c stDone else runCommand c)
        (onPower (fun p => { p with exiting := false, inTransition := false, current := 1, target := 1, waitExit := [] }) m))) ∧
    (∀ e, m.power.entry = some e → e.step ≠ .complete →
      let n := endEntryWaits (takeEvent 10 m)
      let st : BitVec 2 := if n.jobs.job.isSome then 0 else 1
      Becomes .entryAbandon s (endWith e.cmd stBusy
        (onPower (fun p => { p with entry := none, inTransition := false, current := st, target := st }) n))) ∧
    (m.power.p3Pending = true →
      let n := onFlash (fun x => { x with finalFlush := x.journal.isEmpty && x.flushing.isNone && x.programs.isEmpty }) m
      Becomes .p3ConvertersOff s
        (onPower (fun p => { p with current := 3, target := 3 }) (cleared (onPower (fun p => { p with run := .offline }) n))))

/-- The stages of a start (R407 to R411, R419, R424, R434). -/
def Obligations.StartStages : Prop :=
  ∀ s, live s.sys = true →
    let m := s.sys
    (∀ vin iin pin, m.boot.stage = 0 → Becomes (.railsDone vin iin pin) s (refreshInput vin iin pin (onBoot (fun b => { b with stage := 1 }) m))) ∧
    (m.boot.stage = 1 →
      let n := bootRead m
      Becomes .bootRomDone s (if calGood = false then haltStart 1 n else if identityGood = false then haltStart 2 n
        else onBoot (fun b => { b with identityOk := true, stage := 2 }) n)) ∧
    (∀ failed found, m.boot.stage = 2 →
      let n := forEach (List.range 12) (fun i => onStack i fun x => { x with state := if failed.getLsbD i then 4 else 2 }) m
      Becomes (.dramStageDone failed found) s (if failed ≠ 0 then haltStart 3 n
        else onBoot (fun b => { b with stage := 3 }) (onRange (fun r => { r with t1Ready := true })
          (forEach found (fun e => takeRemap false e.1.val e.2) (loadRemaps n))))) ∧
    (m.boot.stage = 3 →
      let forced := decide (3 ≤ m.boot.noServing)
      let staged := m.boot.staging == 2 && (fwCheck 0 m (stagedImage m)).isNone
      let stored := (fwCheck 1 m (storedImage m)).isNone
      let n := if staged then m else emptyStaging m
      Becomes .imageStageDone s
        (if staged && !forced then enterFirmware (onBoot (fun b => { b with imageValid := stored }) (runImage (stagedImage n) false true n))
         else if stored && !forced then
           enterFirmware (onBoot (fun b => { b with imageValid := true }) (runImage (storedImage n) false false n))
         else if (fwCheck 1 n Config.loaderImage).isNone then runLoader n else haltStart 4 n)) ∧
    (m.boot.stage = 4 →
      (∀ (chanFailed : BitVec 64) (diesOut : List (Fin 1536)) (eraseFails : List (Fin 1536 × BitVec 14)), m.boot.flashDone = false →
        let first := anchorLost chanFailed diesOut 0
        let gone := fun d : Nat => chanFailed.getLsbD (d / 24) || diesOut.any fun e => e.val == d
        Becomes (.flashBranchDone chanFailed diesOut eraseFails) s
          (if (first = true ∧ anchorLost chanFailed diesOut 32 = true) ∨ m.flash.keyValid = false ∨
              m.flash.keyTable.any (fun e => (keyUnwrap kekOf e.2).isNone) = true then haltStart 7 m
           else if m.flash.anchor = false then haltStart 6 m
           else onBoot (fun b => { b with flashDone := true }) (channelsUp chanFailed diesOut
             (onFlash (fun x => { x with ready := true, mapState := 2 }) (countRetired (rebuild gone (eraseFails.map fun e => (e.1.val, e.2.toNat))
               (onFlash (fun x => { x with keyChan := first }) m))))))) ∧
      (∀ failed found, m.boot.computeDone = false → m.power.coresHeld = false →
        Becomes (.computeBranchDone failed found) s
          (let n := forEach m.health.permanent markPermanent m
           onBoot (fun b => { b with computeDone := true }) (onRange (fun r => { r with t0Ready := true })
             (forEach found (fun e => takeRemap true e.1.toNat e.2) (forEach failed failsTest
               (forEach (n.health.outNow.filter fun d => !failed.contains d) bringBack n)))))) ∧
      (m.boot.flashDone = true → m.boot.computeDone = true →
        let ms := startMsNow m
        let n := onPower (fun p => { p with current := 1, target := 1 }) (onHealth (fun h => { h with mode := 0 })
          (onBoot (fun b => { b with stage := stageServing, startMs := ms }) m))
        let b := n.boot
        let o := notice 0x1A 0 (leBytes 1 b.cause.toNat ++ leBytes 1 (flagAt b.source 0) ++ zeros 2 ++ leBytes 4 b.release.toNat)
          (reportAll (burnFuses (writeCheckpoint
            (writeRecord 0x02 false (leBytes 4 ms.toNat ++ leBytes 4 b.release.toNat ++ leBytes 1 (flagAt b.source 0)) n))))
        Becomes .serving s (if b.fromT1 then beginCommit none o else o)))

/-- Resets of the module and of its fabric (R91, R123, R406, R410, R423, R426). -/
def Obligations.ModuleAndFabricResets : Prop :=
  ∀ s, live s.sys = true →
    let m := s.sys
    let ev := takeEvent 10 m
    let parting := fun (cause : Nat) (n : Sys) => onFabric (fun x => { x with ports := partingFrames (flushRecords n) })
      (restart cause true (flushRecords n))
    (m.boot.stage ≠ stageHalted →
      let n := onBoot (fun b => { b with clockStarts := (0 :: b.clockStarts).take 3 })
        (onFabric (fun x => { x with ports := [] }) (restart 3 true (flushRecords m)))
      Becomes .clockLoss s (if clockTrouble n.boot then haltStart 5 (bootRead n) else n)) ∧
    (m.boot.stage = 4 → Becomes .startupWatchdog s (parting 7 ev)) ∧
    (m.boot.activating = true → ev.boot.stage ≠ stageHalted → Becomes .activationReset s (parting 6 ev)) ∧
    (m.boot.stage = stageLoader → m.boot.recoverPeer = true → m.boot.fetch = none → m.boot.staging = 0 →
      Becomes .loaderRetry s (nextPeer (onBoot (fun b => { b with peers := nearPeers ev }) ev))) ∧
    (let rook := m.fabric.rook
     let ended := endSilently (fun _ => true) (takeEvent 2 m)
     let cut := onTask (fun t => { t with resends := [], ended := [], eps := t.eps.map fun e =>
       (e.1, { (if rook then freeEndpoint e.2 else e.2) with valid := false, credit := 0, readsHeld := [] }) }) ended
     let freed := if rook then forEach ((List.range 16).filter fun e => (tfind e cut.task.eps).isNone)
         (fun e => onEp e fun x => { freeEndpoint x with credit := 0 }) cut
       else cut
     let bare := onHealth (fun h => { h with forward := [] }) (onFabric fabricAfterReset freed)
     let trained := forEach ((List.range 8).filter fun p => (portOf bare p).train != .disabled) (countTraining · true) bare
     Becomes .fabricReset s (eventRec 3 0 (leBytes 8 (now trained)) (notice 0x15 1 (leBytes 8 (now trained)) trained)))

/-- Port training (R48 to R50, R55, R63, R76). -/
def Obligations.PortTraining : Prop :=
  ∀ s (port : BitVec 3), live s.sys = true →
    let m := s.sys
    let p := port.toNat
    ((portOf m p).train = .down → Becomes (.signalDetect port) s (onPort p (fun x => { x with train := .signal }) m)) ∧
    ((portOf m p).train = .signal → Becomes (.laneLock port) s (onPort p (fun x => { x with lanes := 0xF, train := .equalize }) m)) ∧
    ((portOf m p).train = .retrain → Becomes (.laneLock port) s (onPort p (fun x => { x with lanes := 0xF }) m)) ∧
    ((portOf m p).train = .equalize → Becomes (.equaliserAgreed port) s
      (onPort p (fun x => { x with equalised := true, prbs := BitVec.allOnes 31, scram := [0, 0, 0, 0], train := .align }) m)) ∧
    ((portOf m p).train = .align → Becomes (.frameLock port) s (onPort p (fun x => { x with train := .hello }) m)) ∧
    (∀ h : Hello, h.retrain = false → (portOf m p).train = .hello ∨ (portOf m p).train = .retrain →
      let n := chooseHost (adoptGroup (onFabric (fun f => { f with firstUp := f.firstUp.orElse fun _ => some (now (if keptFrames h (portOf m p) = [] then m else addTotal 43 1 m)) })
        (onPort p (helloPort h)
        (if keptFrames h (portOf m p) = [] then m else addTotal 43 1 m))))
      Becomes (.hello port h) s (if (portOf m p).routed = true ∧ (portOf m p).peerId = h.identity then n else flood n)) ∧
    (∀ h : Hello, h.retrain = true → Becomes (.hello port h) s
      (if (portOf m p).train = .up ∨ (portOf m p).train = .hello ∨ (portOf m p).train = .retrain then
         countTraining p false (onPort p (fun x =>
           if x.train = .up then { x with train := .retrain, resend := [], stalled := 0 } else { x with train := .retrain }) m)
       else m)) ∧
    ((portOf m p).train = .up →
      let fast (n : Sys) := countTraining p false (onPort p (fun x => { x with train := .retrain, resend := [], stalled := 0 }) n)
      Becomes (.retrainTrigger port) s (fast m) ∧
      (∀ locked, Becomes (.lossOfLock port locked) s (enterRetrain p (onPort p (fun x => { x with lanes := locked }) m)))) ∧
    ((portOf m p).train = .retrain → Becomes (.fastRetrainTimeout port) s (fullTraining p m)) ∧
    ((portOf m p).train = .failed → Becomes (.failedRetry port) s (fullTraining p m)) ∧
    ((portOf m p).train = .hello →
      let fails := ((portOf m p).fails.filter fun t => decide (now m < t + secTurns)) ++ [now m]
      Becomes (.fullTrainingFailed port) s
        (if 3 ≤ fails.length then
           notice 0x0F 2 (leBytes 1 p) (leaveRouting p (onPort p (fun x => { x with train := .failed, lanes := 0, fails := [] }) m))
         else fullTraining p (onPort p (fun x => { x with fails }) m)))

/-- Frames and streams (R52, R54, R55, R61, R62, R66 to R69, R71). -/
def Obligations.FramesAndStreams : Prop :=
  ∀ s, live s.sys = true →
    let m := s.sys
    let ev := takeEvent 10 m
    (∀ (port : BitVec 3) (raw : List Byte), (portOf m port.toNat).train = .up →
      let p := port.toNat
      let r := match fecDecode (fitBytes 320 raw) with
        | none => frameBad p m
        | some (content, fixed) =>
          let h := readFrameHead content
          let payload := content.drop 16
          let n := headerIn p h (countCorrections p (h.type == 0) fixed m)
          if frameCrc h payload ≠ h.fcrc then frameBad p m else if h.type = 0x01 then dataIn p h payload n else n
      Becomes (.dataFrame port raw) s r ∧ Becomes (.idleFrame port raw) s r) ∧
    (∀ port : BitVec 3, (portOf m port.toNat).train = .up → (portOf m port.toNat).retry ≠ [] →
      Becomes (.replayTimeout port) s (replay port.toNat m)) ∧
    (∀ k : StreamKey,
      let n := if k.bcast = 0 then ev else releaseAcked k (ackedByAll ev k (txOf ev k).acks) (txOf ev k).acks ev
      let t := txOf n k
      Becomes (.streamResendTimeout k) s
        (if t.unacked = [] then n else if 8 ≤ t.resends then breakStream k n
         else resendStream k (setTx k { t with resends := t.resends + 1 } n))) ∧
    (∀ k : StreamKey, let idle := (txOf m k).unacked = [] ∧ ∀ b ∈ m.fabric.waiting, streamKey b ≠ k
      Becomes (.streamClose k) s (onFabric (fun x => { x with
        tx := if idle then x.tx.filter (fun e => e.1 != k) else x.tx, rx := x.rx.filter fun e => e.1 != k }) ev)) ∧
    Becomes .controlReissue s (forEach m.fabric.droppedCtl sendBlock (onFabric (fun x => { x with droppedCtl := [] }) ev)) ∧
    (∀ vc : BitVec 2, let r := sendWaiting m.fabric.waiting [] [] m
      Becomes (.replayShareRoom vc) s (onFabric (fun x => { x with waiting := r.1 }) r.2)) ∧
    (∀ b : Block, let n := consumed b m
      let flags := leAt b.body 0 1
      let o := if flags.testBit 1 then resendScale b.src (BitVec.ofNat 16 (leAt b.body 2 2)) n else n
      Becomes (.e2eAck b) s
        (if crcHolds b = false then bcrcError n
         else if b.ackValid then ackTaken (ackKey b) b.src b.ackSeq (flags.testBit 0) o else o))

/-- Arrivals of tensor blocks (R86, R103 to R105, R425). -/
def Obligations.TensorBlocksArrive : Prop :=
  ∀ b s, live s.sys = true →
    let m := consumed b s.sys
    let len := leAt b.body 0 4
    (b.host = true → m.fabric.rook = true → b.src ≠ ownAddr m → Becomes (.tensorRead b) s (toHost b m)) ∧
    (b.host = false → tnumOf b.target = imageTensor → len ≤ 4096 → offsetOf b.target + len ≤ 268435456 →
      Becomes (.tensorRead b) s (sendBlock { newBlock (ownAddr m) b.src kTensorReadResp with
        target := b.target, tag := b.tag, body := imageBytes (offsetOf b.target) len m } m)) ∧
    (∀ n off l, b.host = false → tnumOf b.target ≠ imageTensor → leaseRange m b.target len = some (n, off, l) → len ≤ 4096 →
      Becomes (.tensorRead b) s (sendBlock { newBlock (ownAddr m) b.src kTensorReadResp with
        target := b.target, tag := b.tag, body := (span off len).map (leaseByte l) } m)) ∧
    (∀ f n, b.host = true → fetchOf b m = some f → f.asked.find? (fun a => a.1 == (b.target - f.cmd.hostAddr).toNat) =
        some ((b.target - f.cmd.hostAddr).toNat, n) →
      Becomes (.tensorReadResp b) s (pieceIn f (b.target - f.cmd.hostAddr).toNat n (fitBytes n b.body) m)) ∧
    (b.host = true → fetchOf b m = none → m.fabric.rook = true → b.src ≠ ownAddr m → Becomes (.tensorReadResp b) s (toHost b m)) ∧
    (b.host = false → Becomes (.tensorReadResp b) s
      (if b.tag = imageTag ∧ tnumOf b.target = imageTensor then imagePiece b m else leaseData b m)) ∧
    (b.target = relayWindow → 160 ≤ b.body.length →
      let c := relayedCmd b.body
      (takesRelays m = true → isSubSearch m c = false →
        Becomes (.tensorWrite b) s (sendBlock { newBlock (ownAddr m) b.src kTensorWriteAck with tag := b.tag, body := [stDone, 0, 0, 0] }
          (onTask (fun t => { t with relayed := t.relayed ++ [c] }) m))) ∧
      (takesRelays m = true → isSubSearch m c = true → Becomes (.tensorWrite b) s (subBytes b b.body m)) ∧
      (takesRelays m = false →
        Becomes (.tensorWrite b) s (sendBlock { newBlock (ownAddr m) b.src kTensorWriteAck with tag := b.tag, body := [stBusy, 0, 0, 0] }
          (onEp c.ep.toNat (fun x => { x with relayBusy := satInc x.relayBusy }) m)))) ∧
    (∀ n off l, tnumOf b.target ≠ 0xFFFFFF → leaseRange m b.target b.body.length = some (n, off, l) →
      let bytes := (b.body.foldl (fun (acc : Nat × Tab Byte) v => (acc.1 + 1, tset acc.1 v acc.2)) (off, l.bytes)).2
      Becomes (.tensorWrite b) s (sendBlock { newBlock (ownAddr m) b.src kTensorWriteAck with tag := b.tag, body := [stDone, 0, 0, 0] }
        (onFabric (fun x => { x with lent := tset n { l with bytes } x.lent }) m)))

/-- Collective blocks and their time-outs (R71, R259, R262, R263, R339, R340). -/
def Obligations.CollectiveBlocksArrive : Prop :=
  ∀ s, live s.sys = true →
    let ev := takeEvent 10 s.sys
    (∀ b : Block, let m := consumed b s.sys
      let old := m.fabric.scales.filter fun x => leAt x.body 0 4 == leAt b.body 0 4
      let kept := m.fabric.scales.filter fun x => !(decide (4 ≤ old.length) && old.head? == some x)
      let n := onFabric (fun x => { x with scales := kept ++ [{ src := b.src, seq := b.seq, body := b.body }] }) m
      let ready := m.fabric.waitData.filter fun d => d.src == b.src && d.scaleRef == b.seq
      Becomes (.collScale b) s
        (forEach ready dataArrives (onFabric (fun x => { x with waitData := x.waitData.filter fun d => !ready.contains d }) n))) ∧
    (∀ b : Block, let m := consumed b s.sys
      Becomes (.collData b) s (match m.fabric.scales.find? fun x => x.src == b.src && x.seq == b.scaleRef with
        | some x => pairData x b m
        | none => onFabric (fun x => { x with waitData := x.waitData ++ [b] }) m)) ∧
    (∀ b : Block, let m := consumed b s.sys
      Becomes (.collRaw b) s (match shardAwaiting m (leAt b.body 0 4) b.src with
        | some x => shardList x b m
        | none => match collOf m (BitVec.ofNat 32 (leAt b.body 0 4)) with
          | some c => rawArrives c b m
          | none => onFabric (fun x => { x with early := x.early ++ [b] }) m)) ∧
    (∀ src ref, (ev.fabric.waitData.any fun d => d.src == src && d.scaleRef == ref) = true →
      Becomes (.collScaleTimeout src ref) s
        (launch (sealBlock { newBlock (ownAddr ev) src kE2eAck with ackVc := 2, body := leBytes 1 2 ++ zeros 1 ++ leBytes 2 ref.toNat })
          (onFabric (fun x => { x with
            waitData := x.waitData.filter fun d => !(d.src == src && d.scaleRef == ref),
            scales := x.scales.filter fun k => !(k.src == src && seqBefore k.seq ref) }) ev))) ∧
    (∀ id c, collOf ev id = some c → Becomes (.collectiveTimeout id) s (breakColl c ev)) ∧
    (∀ (id : BitVec 32) a x, shardAwaiting ev id.toNat a = some x → Becomes (.shardTimeout id a) s (shardFails x a stUncorrectable ev))

/-- Membership, roles and routes. -/
def Obligations.MembershipAndRouteRows : Prop :=
  (∀ s, live s.sys = true →
     let m := s.sys
     let ev := takeEvent 10 m
     (∀ (port : BitVec 3) (l : LinkInfo),
       let shows := fun b : Block => b.kind == kLinkState && leAt b.body 0 8 == l.identity.toNat
       let n := useTaken shows m
       let known := tfind l.identity.toNat m.fabric.links
       let kept := forwardLink ((m.fabric.taken.find? shows).getD (linkBlock (l.addr.getD 0) l)) (some port.toNat)
         (onFabric (fun x => { x with links := tset l.identity.toNat l x.links }) n)
       (l.identity = identity ∨ known = some l → Becomes (.linkState port l) s n) ∧
       (l.identity ≠ identity → known ≠ some l →
         Becomes (.linkState port l) s (countGroup (noteRook l
           (match known.bind fun o => if o.starts < l.starts then o.addr else none with
            | some a => moduleLost a kept
            | none => kept))))) ∧
     (∀ id (member : BitVec 6), let n := useTaken (fun b => b.kind == kAssign && leAt b.body 0 8 == id.toNat) m
       (id = identity → Becomes (.assign id member) s (countGroup (takeMember member.toNat n))) ∧
       (∀ l, id ≠ identity → tfind id.toNat n.fabric.links = some l →
         let l' : LinkInfo := { l with addr := some (l.group ++ member) }
         Becomes (.assign id member) s
           (countGroup (noteRook l' (onFabric (fun x => { x with links := tset id.toNat l' x.links }) n))))) ∧
     (let all := voters ev
      let mine := joined ev (all.map (·.1)) all.length [identity.toNat]
      let part := all.filter fun v => mine.contains v.1
      Becomes .election s (match assignerOf part with
        | none => ev
        | some a =>
          if (all.any fun v => !mine.contains v.1 && v.2.1 == some 0 && decide (v.1 < a)) = true then
            onFabric (fun x => { x with assigned := false, member := 0, rook := false, rookAddr := none, members := [], conflict := true }) ev
          else
            let n := onFabric (fun x => { x with conflict := false }) ev
            countGroup (if a = identity.toNat then assignAll part n else n))) ∧
     (activeHost ev ≠ (List.range 8).find? (fun p => hostCandidate (portOf ev p)) →
       Becomes .hostPortFailover s (flood (chooseHost ev))) ∧
     Becomes .rookHandover s (match nextRook ev with
       | none => ev
       | some a =>
         if ev.fabric.rook = true then (if activeHost ev = none then handOver (some a) ev else ev)
         else if a = ownAddr ev then
           becomeRook (onTask (fun t => { t with
             eps := tmap (fun x => { x with held := [], epoch := 0, resetBusy := false, awaited := [] }) t.eps }) ev)
         else onFabric (fun x => { x with rookAddr := some a }) ev) ∧
     (∀ a pf, ev.fabric.rook = true →
       Becomes (.memberUnreachable a pf) s (notice 0x13 2 (leBytes 2 a.toNat ++ leBytes 1 (flagAt pf 0)) ev))) ∧
  (∀ s, live s.sys = true →
     let m := s.sys
     let ev := takeEvent 10 m
     (m.fabric.routeAuto = true →
       let l := (paths m).filterMap fun e => (tfind e.1 m.fabric.links).map fun k => (k, e)
       let grp := (List.range 1024).map fun g =>
         (g, bestRoute ((l.filter fun e => e.1.group.toNat == g && e.1.group != m.fabric.group).map (·.2)))
       let mbr := (List.range 64).map fun k =>
         (k, if m.fabric.assigned && m.fabric.member.toNat == k then localRoute
           else bestRoute ((l.filter fun e => e.1.addr == some (m.fabric.group ++ BitVec.ofNat 6 k)).map (·.2)))
       Becomes .routeRecompute s (onFabric (fun x => { x with grp := setRoutes x.grp grp, mbr := setRoutes x.mbr mbr }) m)) ∧
     (∀ t, m.fabric.done = false → m.fabric.firstUp = some t →
       let n := onFabric (fun x => { x with done := true, discTime := satOf 32 ((now ev - t) * 16 / 1000) }) ev
       Becomes .discoveryDone s (seekImage n)) ∧
     (∀ b : Block, let n := consumed b m
       let epoch : Word := BitVec.ofNat 64 (leAt b.body 0 8)
       Becomes (.routeSet b) s (onFabric (fun x => { x with
           staged := x.staged ++ (((pieces 8 (b.body.drop 8)).filter fun e => leAt e 0 2 == (ownAddr n).toNat).map fun e =>
             (epoch, BitVec.ofNat 64 (leNat e))) }) n) ∧
       Becomes (.routeCommit b) s (forEach (m.fabric.staged.filter fun e => e.1 == epoch) (fun e => applyRoute e.2)
         (onFabric (fun x => { x with staged := x.staged.filter fun e => e.1 != epoch }) n))) ∧
     (∀ epoch, Becomes (.routeStageExpire epoch) s (onFabric (fun x => { x with staged := x.staged.filter fun e => e.1 != epoch }) ev)))

/-- Leases (R86 to R88, R161). DESIGN CHOICE of the model: which request a grant answers (`answeredAsk`, log entry 31). -/
def Obligations.LeaseRows : Prop :=
  ∀ s, live s.sys = true →
    let m := s.sys
    let ev := takeEvent 10 m
    (∀ (id : Word) addr (gib : BitVec 9),
      let n := useTaken (fun b => b.kind == kLeaseReq && leAt b.body 0 8 == id.toNat) m
      Becomes (.leaseReq id addr gib) s (match (if mayLend n id gib.toNat then freeLease n 65536 n.fabric.leaseNo else none) with
        | some k => sendLease kLeaseGrant addr k gib.toNat (onFabric (fun x => { x with
            leaseNo := (k + 1) % 65536,
            lent := tset k { number := k, peer := id, peerAddr := addr, gib := gib.toNat, recalled := false, writes := 0, bytes := [] } x.lent }) n)
        | none => sendLease kLeaseGrant addr 0 0 n)) ∧
    (∀ (id : Word) addr (lease : BitVec 16) (gib : BitVec 9),
      let n := useTaken (fun b => b.kind == kLeaseGrant && leAt b.body 0 8 == id.toNat) m
      let ask := answeredAsk id gib.toNat n
      let o := ask.elim n fun x => onFabric (fun f => { f with leaseAsks := f.leaseAsks.erase x }) n
      let row := Instr.leaseGrant id addr lease gib
      (gib = 0 → Becomes row s (ask.elim o fun x => leaseGoesOn x o)) ∧
      (gib ≠ 0 → min 256 o.fabric.borrowMax.toNat < borrowedGib o + gib.toNat →
        Becomes row s (sendLease kLeaseRelease addr lease.toNat gib.toNat o)) ∧
      (gib ≠ 0 → borrowedGib o + gib.toNat ≤ min 256 o.fabric.borrowMax.toNat →
        let held := ((borrowedAs o lease.toNat).find? fun e => e.2.peer == id).map (·.1)
        Becomes row s (retryWaits (onFabric (fun x => { x with
          borrowed := tset (held.getD (freeHandle o))
            { number := lease.toNat, peer := id, peerAddr := addr, gib := gib.toNat, recalled := false, writes := 0, bytes := [] } x.borrowed }) o)))) ∧
    (∀ x rest, ev.fabric.leaseAsks = x :: rest → Becomes .leaseGrantTimeout s
      (retryWaits (skipTensor x.tensor (onFabric (fun f => { f with leaseAsks := rest }) ev)))) ∧
    (∀ lease : BitVec 16,
      let k := lease.toNat
      let names := fun b : Block => b.kind == kLeaseRecall && (leAt b.body 0 4 == k || leAt b.body 8 4 == k)
      let lender := (m.fabric.taken.find? names).map (·.src)
      let n := useTaken names m
      Becomes (.leaseRecall lease) s
        (forEach ((borrowedAs n k).filter fun e => lender.isNone || lender == some (leaseAddr n e.2)) (fun e o =>
          let q := cancelInto e.1 (onFabric (fun x => { x with borrowed := tset e.1 { e.2 with recalled := true } x.borrowed }) o)
          releaseLease e.1 (forEach (q.range.tensors.map (·.1)) leaveIf (retryWaits q))) n)) ∧
    (∀ lease : BitVec 16, Becomes (.leaseRelease lease) s (retryWaits (onFabric (fun x => { x with lent := tdel lease.toNat x.lent })
      (useTaken (fun b => b.kind == kLeaseRelease && leAt b.body 8 4 == lease.toNat) m)))) ∧
    (∀ (lease : BitVec 16), Becomes (.leaseIdleRelease lease) s (forEach ((borrowedAs ev lease.toNat).map (·.1)) releaseLease ev)) ∧
    (∀ (lease : BitVec 16) l,
      ((tfind lease.toNat ev.fabric.lent).filter (·.recalled) = some l ∨
        ((tfind lease.toNat ev.fabric.lent).filter (·.recalled) = none ∧ ((borrowedAs ev lease.toNat).map (·.2)).find? (·.recalled) = some l)) →
      let d := leaseDetail l lease.toNat
      Becomes (.recallLate lease) s (ledgerRec 0x12 false d (notice 0x12 1 d (addTotal 50 1
        (onFabric (fun x => { x with recallLate := satInc x.recallLate }) ev))))) ∧
    (∀ id, Becomes (.lenderUnreachable id) s (forEach (ev.fabric.borrowed.filter fun e => e.2.peer == id) (fun e n =>
      loseInLease e.1 (leaseLost e.2 (onFabric (fun x => { x with borrowed := tdel e.1 x.borrowed }) n))) ev)) ∧
    (∀ id, (ev.fabric.lent.any fun e => e.2.peer == id) = true →
      Becomes (.borrowerUnreachable id) s (retryWaits (forEach (ev.fabric.lent.filter fun e => e.2.peer == id) (fun e => leaseLost e.2)
        (onFabric (fun x => { x with lent := x.lent.filter fun e => e.2.peer != id }) ev))))

/-- Notices at their source and at the rook (R88, R89, R443, R445, R446, R448, R450). -/
def Obligations.NoticesAtTheRook : Prop :=
  ∀ s, live s.sys = true →
    let m := s.sys
    let ev := takeEvent 10 m
    (∀ b : Block, m.fabric.rook = true → let n := consumed b m
      (activeHost m ≠ none → Becomes (.event b) s (toHost b n)) ∧
      (activeHost m = none → let l := n.health.forward ++ [b]
        Becomes (.event b) s (onHealth (fun h => { h with forward := l.drop (l.length - 1024), lost := satAdd h.lost (l.length - 1024) }) n))) ∧
    (∀ port : BitVec 3,
      let p := port.toNat
      let id := (portOf m p).peerId
      let n := noteSet (portStatusAddr p) 9 (onPort p (fun x => { x with pfNotice := true })
        (useTaken (fun b => b.kind == kPowerFail && b.src == (portOf m p).peerAddr) m))
      Becomes (.powerFailNotice port) s (borrowerLost id (lenderLost id
        (forEach ((List.range 8).filter fun q => (portOf n q).routed && (portOf n q).peerId == id) leaveRouting n)))) ∧
    (∀ first rest rook, m.health.notices = first :: rest → m.fabric.rookAddr = some rook → m.fabric.assigned = true →
      let h := m.health
      let b := { newBlock (ownAddr m) rook kEvent with
        host := true, ep := h.ep, body := noticeBytes (ownAddr m) (h.noticeSeq + 1) h.lostBefore first }
      let n := onHealth (fun h => { h with
        notices := rest, noticeSeq := h.noticeSeq + 1, sent := satInc h.sent, lostBefore := false,
        lastSent := tset first.code.toNat (now m) h.lastSent }) m
      Becomes .noticeSend s (if rook = ownAddr m then eventIn b n else sendBlock b n)) ∧
    (m.health.mode = 0 →
      let l := lifeLeft ev
      let n := onHealth (fun h => { h with lifeLeft := BitVec.ofNat 8 l }) ev
      Becomes .lifeLeftUpdate s
        (if total 163 n < 10 - l / 10 then notice 0x19 1 (leBytes 1 l) (setTotal 163 (10 - l / 10) n) else n))

/-- The rows of the job engine (R173, R189, R278, R287 to R290, R301, R302). -/
def Obligations.JobEngineRows : Prop :=
  ∀ s, live s.sys = true →
    let m := s.sys
    (m.jobs.job = none → Becomes .jobAdmission s (admitNext m)) ∧
    (∀ j, m.jobs.job = some j → j.admitting = true → Becomes .jobAdmission s (reserveScratch m)) ∧
    (∀ j, activeJob m = some j →
      (coresPowered m = true → j.stopping = none ∨ j.stopping = some .budget →
        Becomes .taskPlacement s (placeUpTo placeWalker (walkersDue j)
          (placeUpTo placeTask ((j.tasks.filter fun e => e.2.phase == .ready).map (·.1)) (16, m))).2) ∧
      (∀ t i : BitVec 16, mayIssue m j t.toNat i.toNat = true → ∀ d, taskDesc j t.toNat i.toNat = some d →
        let core := coreOfTask (taskAt j t.toNat)
        Becomes (.descriptorIssue t i) s (fillQueue core (onCore core (fun c => { c with queue := c.queue.filter (· != (t.toNat, i.toNat)) })
          (onTaskRun t.toNat (fun x => { x with issued := x.issued ++ [i.toNat] })
            (if onEngine d then takeEngine core t.toNat i.toNat d m else m))))) ∧
      (∀ (t i : BitVec 16) d, taskDesc j t.toNat i.toNat = some d → (taskAt j t.toNat).ran.contains i.toNat = true →
        (taskAt j t.toNat).done.contains i.toNat = false → mayRun j d = true →
        let core := coreOfTask (taskAt j t.toNat)
        let bad := if onEngine d then badHalves (coreOf m core) t.toNat else []
        let n := if onEngine d then onCore core (fun c => (halvesOf c t.toNat).foldl drainHalf c) m else m
        Becomes (.descriptorComplete t i) s
          (if bad = [] then onTaskRun t.toNat (fun x => { x with done := x.done ++ [i.toNat] }) (chargeDesc j t.toNat i.toNat d (takeEvent 8 n))
           else forEach bad (fun h => coreFault (.half (BitVec.ofNat 12 core) (BitVec.ofNat 4 h)) 1) (takeEvent 5 m))) ∧
      (∀ (t : BitVec 16) c, (taskAt j t.toNat).phase = .placed c → (taskAt j t.toNat).failed = false →
        (List.range (entryOf j t.toNat).descCount).all (taskAt j t.toNat).done.contains = true →
        Becomes (.taskComplete t) s (wakeTasks (retryWaits (lowerTaskPins (flatPos j t.toNat)
          (onTaskRun t.toNat (fun x => { x with phase := .done, scratch := freshStore false }) m))))) ∧
      (stepDone j = true → j.expiry = none →
        let h := writeHistory m
        let halted := (h.jobs.job.map (·.stopping.isSome)).getD false
        let n := endStepCtxs false (onJob endAtMaxPos (onJob (fun j => { j with
          step := j.step + 1, stepsDone := j.stepsDone + 1, inStep := false,
          tasks := (j.tasks.map fun e => (e.1, { taskFresh with replaced := e.2.replaced })).filter fun e => e.2.replaced != 0 }) h))
        Becomes .stepEnd s
          (if halted = true then onJob (fun j => { j with inStep := false }) h
           else if j.enders ≠ [] ∨ (j.plan.serving = false ∧ j.startStep + j.steps ≤ j.step + 1) ∨ drained n = true then endClean n
           else if j.plan.serving then n else beginStep n)) ∧
      (j.plan.serving = true → j.inStep = false → j.stopping = none →
        (j.enders ≠ [] ∨ drained m = true → Becomes .servingStepStart s (endClean m)) ∧
        (j.enders = [] → drained m = false →
          let r := joinOf m j (fun x => !x.search)
          let rows := formRows j.plan (rowOrder { j with ctxs := r.2 }) []
          let n := onJob (fun j => { j with
            waiting := r.1, rows, lastRow := (rows.getLast?.map (·.ctx)).getD j.lastRow,
            ctxs := r.2.map fun e => (e.1, { e.2 with pos := e.2.pos + (rows.filter fun x => x.ctx == e.1).length }) }) m
          let o := writeRowMap n
          Becomes .servingStepStart s
            (if rows = [] then n else if ((o.jobs.job.map (·.stopping.isSome)).getD false) = true then o else beginStep o))))

/-- Core faults, budget expiry, the stop of a job and idle gating (R184, R194 to R197, R293, R294). -/
def Obligations.FaultAndStopRows : Prop :=
  ∀ s, live s.sys = true →
    let m := s.sys
    (∀ det core half, let d := domainOf det core half
      let n := takeEvent 5 m
      domainIsOut n d = false →
      let hit := forEach (domainCores d) (fun k n => noteSet (coreFaultAddr k) (detectorBit det)
        (onCore k (fun x => { x with fault := setBit x.fault (detectorBit det) true }) n)) n
      let held := match hit.jobs.job with
        | some j => if j.admitting then ([], []) else (holders j d hit, heldWalkers j d)
        | none => ([], [])
      let out := takeOut d (if endedNow hit d then markJob (condition stFaultContained) hit else hit)
      Becomes (.jobFault det core half) s
        (forEach held.2 faultWalker (forEach held.1 faultTask (eventRec 6 (domainKey d) (domainDetail out d) out)))) ∧
    (∀ j t i, activeJob m = some j → j.expiry = some (t, i) → (taskAt j t).done.contains i = true →
      j.conds &&& condition stBudgetOver = 0 →
      Becomes .budgetExpiry s (ledgerRec 0x09 false (leBytes 4 j.no.toNat ++ zeros 4 ++ leBytes 8 (expirySum j - j.budget))
        (stopJob .budget (markJob (condition stBudgetOver) (takeEvent 6 m))))) ∧
    (∀ j cause, activeJob m = some j → j.stopping = some cause → stillRuns j = false →
      let n := stopWalks (reported (jobStatuses j)) j (if cause = .budget then m else stopSeals m)
      Becomes .jobStopComplete s (if walkersRun n j = true then n
        else endStopped (abandonAsks (if cause = .fabricReset then n else abandonColls j n)))) ∧
    (∀ (core : BitVec 12) (half : BitVec 4), let c := coreOf m core.toNat
      corePowered m core.toNat = true → halfServes c half.toNat = true → c.clockOff.getLsbD half.toNat = false →
      presents m core.toNat half.toNat ≠ .valid →
      Becomes (.engineIdleGate core half) s (onCore core.toNat (fun c => { c with clockOff := setBit c.clockOff half.toNat true })
        (dummyCycles core.toNat half.toNat (2000 - (halfOf c half.toNat).idle) (presents m core.toNat half.toNat == .bubble) m)))

/-- Engine and move descriptors, each on ready operands (R189). -/
def Obligations.EngineAndMoveDescriptors : Prop :=
  ∀ s task d i sh, readyDesc s.sys task d = some (i, sh) →
    let r := runOf task.toNat (useVector task.toNat d s.sys)
    (d.op = 0x01 → (matmulOp d r).failed = false → Becomes (.matmul task d) s (markRan task.toNat i (matmulOp d r).sys)) ∧
    (d.op = 0x02 → (hammingOp d r).failed = false → Becomes (.hamming task d) s (markRan task.toNat i (hammingOp d r).sys)) ∧
    (d.op = 0x03 → (ewArrayOp d r).failed = false → Becomes (.ewArray task d) s (markRan task.toNat i (ewArrayOp d r).sys)) ∧
    (d.op = 0x04 → (sketchOp d r).failed = false → Becomes (.sketch task d) s (markRan task.toNat i (sketchOp d r).sys)) ∧
    (d.op = 0x20 → (moveDescOp d r).failed = false → Becomes (.move task d) s (markRan task.toNat i (moveDescOp d r).sys)) ∧
    (d.op = 0x21 → (gatherOp d r).failed = false → Becomes (.gather task d) s (markRan task.toNat i (gatherOp d r).sys)) ∧
    (d.op = 0x22 → (scatterOp d r).failed = false → Becomes (.scatter task d) s (markRan task.toNat i (scatterOp d r).sys)) ∧
    (d.op = 0x23 → (scatterAddOp d r).failed = false → Becomes (.scatterAdd task d) s (markRan task.toNat i (scatterAddOp d r).sys)) ∧
    (d.op = 0x24 → (relayoutOp d r).failed = false → Becomes (.relayout task d) s (markRan task.toNat i (relayoutOp d r).sys)) ∧
    (d.op = 0x25 → (transposeOp d r).failed = false → Becomes (.transpose task d) s (markRan task.toNat i (transposeOp d r).sys))

/-- Vector descriptors (R189, R240 to R246). -/
def Obligations.VectorDescriptors : Prop :=
  ∀ s task d i sh, readyDesc s.sys task d = some (i, sh) →
    let r := runOf task.toNat (useVector task.toNat d s.sys)
    (d.op = 0x10 → (ewOp d r).failed = false → Becomes (.ew task d) s (markRan task.toNat i (ewOp d r).sys)) ∧
    (d.op = 0x11 → (normOp d r).failed = false → Becomes (.norm task d) s (markRan task.toNat i (normOp d r).sys)) ∧
    (d.op = 0x12 → (softmaxOp d r).failed = false → Becomes (.softmax task d) s (markRan task.toNat i (softmaxOp d r).sys)) ∧
    (d.op = 0x13 → (reduceOp d r).failed = false → Becomes (.reduce task d) s (markRan task.toNat i (reduceOp d r).sys)) ∧
    (d.op = 0x14 → (convertOp d r).failed = false → Becomes (.convert task d) s (markRan task.toNat i (convertOp d r).sys))

/-- Selection, filter and control descriptors (R189, R253, R268, R269, R281, R303). -/
def Obligations.SelectionAndFilterDescriptors : Prop :=
  ∀ s task d i sh, readyDesc s.sys task d = some (i, sh) →
    let r := runOf task.toNat (useVector task.toNat d s.sys)
    (d.op = 0x30 → (topkOp d r).failed = false → Becomes (.topk task d) s (markRan task.toNat i (topkOp d r).sys)) ∧
    (d.op = 0x40 → (filterOp d r).failed = false → Becomes (.filter task d) s (markRan task.toNat i (filterOp d r).sys)) ∧
    (d.op = 0x41 → (scanOp d r).failed = false → Becomes (.scan task d) s (markRan task.toNat i (scanOp d r).sys)) ∧
    (d.op = 0x50 → (descNopOp d r).failed = false → Becomes (.descNop task d) s (markRan task.toNat i (descNopOp d r).sys)) ∧
    (d.op = 0x58 → (emitOp d r).failed = false → Becomes (.emit task d) s (markRan task.toNat i (emitOp d r).sys))

/-- Collective descriptors (R189, R256, R260 to R262). -/
def Obligations.CollectiveDescriptors : Prop :=
  ∀ s task d i sh, readyDesc s.sys task d = some (i, sh) →
    let t := task.toNat
    let m := useVector t d s.sys
    let e := collEntry m d
    let k := readRanks e (runOf t m)
    let me := rankOf k.1 (ownAddr m)
    (d.op = 0x38 ∨ d.op = 0x39 →
      let gather := d.op == 0x39
      let n := if gather then runDim (runOf t m) d.dim0 else runDim (runOf t m) d.dim0 * runDim (runOf t m) d.dim1
      let x := opF32 d 0 n k.2
      let rows := if gather then e.ranks else runDim x.2 d.dim0
      let len := if gather then n else runDim x.2 d.dim1
      let c : Coll :=
        { id := e.id, task := t, index := i, desc := d, ranks := e.ranks, me, rankAddrs := k.1, rows, rowLen := len, parts := [],
          result := [], lists := [], own := [], satBlocks := [], satur := false, sent := [] }
      let r := if n = 0 then markRan t i m
        else contribute c e.histBase.toNat
          (if gather then [(me, x.1)] else (List.range rows).map fun r => (r, (x.1.drop (r * len)).take len)) x.2
      (n ≠ 0 → k.2.failed = false ∧ x.2.failed = false) →
      (d.op = 0x38 → Becomes (.allreduce task d) s r) ∧ (d.op = 0x39 → Becomes (.allgather task d) s r)) ∧
    (d.op = 0x31 → dpar d 104 4 = 0xFFFFFFFF → (selectOp d (runOf t m)).failed = false →
      Becomes (.select task d) s (markRan t i (selectOp d (runOf t m)).sys)) ∧
    (d.op = 0x31 → dpar d 104 4 ≠ 0xFFFFFFFF → k.2.failed = false →
      let kk := runDim k.2 d.dim1
      let rowlen := runDim k.2 d.dim2
      let kind := d.kind.toNat
      let v := readInputs (selectRefs k.2 d (runDim k.2 d.dim0)) kk rowlen k.2
      v.2.failed = false →
      let r := v.2.on (countNan kind (v.1.flatMap fun x => x.entries.map (·.1)))
      let p := joinLists kind kk v.1
      let a := count32 p.valid r
      let b := count32 p.tied a.2
      let image := listImage (listHeader p.entries.length a.1 b.1 kk rowlen kind) kk rowlen p.entries
      let c : Coll :=
        { id := e.id, task := t, index := i, desc := d, ranks := e.ranks, me, rankAddrs := k.1, rows := kk, rowLen := rowlen,
          parts := [], result := [], lists := [(0, image)], own := [], satBlocks := [], satur := false, sent := [] }
      Becomes (.select task d) s
        (if me ≠ 0 then markRan t i (sendList (k.1.getD 0 0) e.id image b.2.sys)
         else settleSelect e.id (replayEarly e.id (beginColl c b.2.sys))))

/-- Tensor descriptors (R281): each begins the operation of its command, asked for by the descriptor. -/
def Obligations.TensorDescriptors : Prop :=
  ∀ s task d i sh n, readyDesc s.sys task d = some (i, sh) → descWaits s.sys d [d.o0, d.o1] = false → descTensor s.sys d.o0 = some n →
    let a : Asker := .desc (BitVec.ofNat 16 task.toNat) i
    let p := descBlock s.sys d
    let m := onTaskRun task.toNat (fun x => { x with waits := x.waits ++ [i] }) s.sys
    (d.op = 0x60 → Becomes (.tCreate task d) s (createOp a n p m)) ∧
    (d.op = 0x61 → Becomes (.tDelete task d) s (deleteOp a n true m)) ∧
    (d.op = 0x62 → Becomes (.tMove task d) s (moveAsk a n p m)) ∧
    (d.op = 0x63 → Becomes (.tDrop task d) s (dropOp a n p m)) ∧
    (d.op = 0x64 → Becomes (.tPin task d) s (pinOp a n m)) ∧
    (d.op = 0x65 → Becomes (.tUnpin task d) s (unpinOp a n m)) ∧
    (d.op = 0x66 → Becomes (.tSeal task d) s (sealNow a n (nsOf p) m)) ∧
    (∀ x, d.op = 0x67 → descTensor s.sys d.o1 = some x → Becomes (.tAppend task d) s (appendNow a n x m)) ∧
    (d.op = 0x68 → Becomes (.tClose task d) s (closeOp a n m))

/-- The rows of the migration engine (R150, R152, R156, R157, R162). -/
def Obligations.MotionRows : Prop :=
  ∀ s, live s.sys = true →
    let m := s.sys
    (∀ n t mo, thermalHold m = false → activeMotions m < 32 → nextMotion m = some (n, t, mo) →
      let held := { t with motion := some { mo with holds := true, started := true, store := freshStore (t.isSealed || t.store.zeroed) } }
      (mo.pin = true → t.pins ≠ 0xFFFF ∧ t1Pinned m + (if isPinned t then 0 else t1Held held) + 8 * 2 ^ 30 ≤ t1Capacity) →
      Becomes .motionStart s (fillWindow n (onlyIf mo.pin (raisePin n) (setTensor n held m)))) ∧
    (∀ (tensor : TNum) t mo u rest,
      tensorOf m tensor.toNat = some t → t.motion = some mo → mo.window = u :: rest →
      let n := tensor.toNat
      let c := updTensor n (fun t => { t with motion := t.motion.map fun mo => { mo with window := rest } }) (copyUnit n u m)
      let r := releaseBlocked n (fillWindow n (onRange (fun r => { r with units := satInc r.units }) c))
      unitRetrains m n u mo = false →
        Becomes (.unitTransferDone tensor) s (match (tensorOf r n).bind fun t' => t'.motion.map fun mo' => (t', mo') with
          | some (t', mo') => if mo'.window = [] ∧ unitCount t'.size ≤ mo'.next then endMotion n t' mo' r else r
          | none => r))

/-- Seal steps, programs and erases (R352, R358, R363, R368, R373). -/
def Obligations.ProgramAndEraseRows : Prop :=
  (∀ s, live s.sys = true →
    let m := s.sys
    (∀ (tensor : TNum) x, sealOf m tensor.toNat = some x → sealPrograms m x = [] → sealTurn m x = true →
      (x.started = true → x.done ≠ x.total) →
      (x.stop ≠ none → Becomes (.sealStep tensor) s (sealBoundary x m)) ∧
      (x.stop = none → readOnly m = true → Becomes (.sealStep tensor) s (sealsReadOnly m)) ∧
      (∀ t key, x.stop = none → readOnly m = false → flashHold m = false → sourceRetrains x m = false →
        tensorOf m tensor.toNat = some t → tfind x.ns.toNat m.flash.spaces = some key → Becomes (.sealStep tensor) s (startStep x t key m))) ∧
    (∀ (die : Fin 1536) (block : BitVec 14), eraseMay m die.val block.toNat = true →
      ((dieAt m die.val).queued = 0 → Becomes (.blockErase die block) s (beginErase die.val block.toNat m)) ∧
      (0 < (dieAt m die.val).queued →
        Becomes (.blockErase die block) s (onDie die.val (fun x => { x with eraseWaits := some block.toNat }) m))) ∧
    (∀ (die : Fin 1536) b, (dieAt (takeEvent 10 m) die.val).eraseWaits = some b → eraseMay (takeEvent 10 m) die.val b = true →
      Becomes (.eraseForcedStart die) s (beginErase die.val b (takeEvent 10 m))) ∧
    (∀ (die : Fin 1536) (block : BitVec 14), (blockOf m die.val block.toNat).state = .erasing →
      let d := die.val
      let b := block.toNat
      let x := blockOf m d b
      let n := eraseTags d b (onDie d (fun x => { x with busy := false, suspended := false, window := false, served := 0 }) m)
      let wear := x.wear + (if x.slc then 1 else 20)
      let e := onBlock d b (fun x => { x with
        state := .free, slc := false, wptr := 0, wear, reads := 0, refresh := false, retireDue := decide (30000 ≤ wear) })
        (addTotal 11 1 (onFlash (fun x => { x with erases := satInc x.erases }) n))
      Becomes (.flashEraseDone die block true) s
        (startRetries (if x.retireDue then sealsReadOnly (retireBlock d b e) else journal (.block d b .free wear) e)) ∧
      Becomes (.flashEraseDone die block false) s (startRetries (sealsReadOnly (dieFails d (retireBlock d b
        (onChan (d / 24) (fun c => { c with eraseFail := satInc c.eraseFail }) n))))))) ∧
  (∀ s (die : Fin 1536) (block : BitVec 14) (page : BitVec 11) ok p, live s.sys = true ∨ inHoldup s.sys = true →
    let hit (q : Program) : Bool := q.die == die.val && q.block == block.toNat && q.page == page.toNat
    s.sys.flash.programs.find? hit = some p →
    let m := onFlash (fun x => { x with programs := x.programs.filter fun q => !hit q }) s.sys
    let n := settleDie die.val (if ok then programGood p m else programBad p m)
    Becomes (.flashProgramDone die block page ok) s (if live n = true then startRetries n else n))

/-- The rows of dies and reads (R347, R367, R368, R370, R371, R379). -/
def Obligations.DieRows : Prop :=
  ∀ s (die : Fin 1536), live s.sys = true →
    let m := s.sys
    let d := die.val
    let x := dieAt m d
    (x.busy = true → x.out = false →
      let n := onDie d (fun x => { x with queued := x.queued + 1 }) m
      (x.window = true ∨ x.suspended = true → Becomes (.dieSuspend die) s n) ∧
      (x.window = false → x.suspended = false → Becomes (.dieSuspend die) s
        (onFlash (fun x => { x with suspends := satInc x.suspends }) (onDie d (fun x => { x with suspended := true, served := 0 }) n)))) ∧
    (x.suspended = true → flashHold m = false →
      Becomes (.dieResume die) s (onDie d (fun x => { x with suspended := false, window := true, served := 0 }) m)) ∧
    (let e := takeEvent 10 m
     let shut := onDie d (fun x => { x with window := false }) e
     (dieAt e d).window = true →
       Becomes (.suspendWindowEnd die) s (if 0 < (dieAt shut d).queued then suspendDie d shut else shut)) ∧
    (∀ unit (depth : Fin 10), (tfind unit m.flash.map).isSome = true →
      (∀ waitUs : BitVec 16,
        let k := dieOf unit
        let r := unitRead unit depth.val (onFlash (fun x => { x with
          waitMax := satMax x.waitMax waitUs.toNat,
          longWaits := if 200 < waitUs.toNat then satInc x.longWaits else x.longWaits }) m)
        let n := onDie k (fun x => { x with queued := x.queued - 1, served := if x.suspended then x.served + 1 else 0 }) r
        let y := dieAt n k
        Becomes (.flashReadDone unit depth waitUs) s
          (if y.suspended = true ∧ (y.queued = 0 ∨ 8 ≤ y.served) then dieResume k n else n)) ∧
      (mapRuns m = true → m.power.current ≠ 2 →
        let r := unitRead unit depth.val m
        Becomes (.patrol unit depth) s
          (if r.flash.map.any (fun e => decide (unit < e.1)) then onFlash (fun x => { x with patrolAt := unit }) r
           else onFlash (fun x => { x with
             patrolAt := 0, lapTime := satOf 32 ((now r - x.lapStart) / (3600 * secTurns)), lapStart := now r }) r))) ∧
    Becomes (.dieOut die) s (dieLeaves d m) ∧
    (∀ chan : BitVec 6, Becomes (.channelClockLoss chan) s
      (forEach (span (24 * chan.toNat) 24) dieLeaves (onChan chan.toNat (fun x => { x with state := 3 }) m)))

/-- Journal flushes, background copies and lockstep (R351, R354, R356, R361, R362, R370). -/
def Obligations.JournalAndCopyRows : Prop :=
  ∀ s, live s.sys = true →
    let m := s.sys
    (mapRuns m = true → m.flash.flushing = none → flashHold m = false → Becomes .journalFlush s (startFlush (takeEvent 9 m))) ∧
    (mapRuns m = true → m.flash.flushing ≠ none ∨ flashHold m = true →
      Becomes .journalFlush s (onFlash (fun x => { x with flushAsked := true }) (takeEvent 9 m))) ∧
    (∀ tens : BitVec 16, Becomes (.journalFlushDone tens) s (finishFlush tens.toNat m)) ∧
    (∀ page, flashHold m = false → (tfind page m.flash.dirty).isSome = true →
      Becomes (.mapPageWriteback page) s (onFlash (fun x => { x with
        pageSeq := tset page x.journalSeq.toNat x.pageSeq,
        dirty := x.dirty.filter fun e => !(e.1 == page && decide (e.2 ≤ x.journalSeq.toNat)) }) (takeEvent 10 m))) ∧
    (∀ die : Fin 1536, copiesMay m die.val = true →
      let d := die.val
      Becomes (.folding die) s (copyUnits 2 (fun _ => false)
        ((sortBy (fun (a b : Nat × MapEntry) => decide (a.2.seq < b.2.seq)) ((stillUnits m d).filter fun e => e.2.slc)).take 16) m) ∧
      Becomes (.garbageCollection die) s
        (if leftUnits m d ≠ [] then copyUnits 1 (fun _ => false) (leftUnits m d) m
         else if 8 < freeBlocks m d then m
         else match gcVictim m d with
          | some b => copyUnits 1 (fun _ => false) ((stillUnits m d).filter fun e => unitIn e d b) (makeSource d b m)
          | none => m) ∧
      (∀ block : BitVec 14, (blockOf m d block.toNat).refresh = true → (blockOf m d block.toNat).state ≠ .opened →
        let n := onBlock d block.toNat (fun x => { x with refresh := false })
          (onFlash (fun x => { x with refreshed := satInc x.refreshed }) m)
        Becomes (.refresh die block) s (copyUnits 3 (·.slc) ((stillUnits n d).filter fun e => unitIn e d block.toNat)
          (makeSource d block.toNat (wearSign 2 n))))) ∧
    (∀ op : MapOp,
      let turns := (m.flash.lockTurns.filter fun t => decide (now m < t + secTurns)) ++ [now m]
      let n := notice 0x14 2 (leBytes 1 turns.length) (ledgerRec 0x10 false (leBytes 8 op.count) (addTotal 51 1
        (noteSet mapStatusAddr 16 (onFlash (fun x => { x with lockErr := true, lockTurns := turns, lockOp := some op.count }) m))))
      let o := if n.flash.roCause.getLsbD 3 then onFlash (fun x => { x with badLookup := some op.unit }) n else n
      Becomes (.lockstepMismatch op) s (if m.flash.lockOp = some op.count ∨ 3 ≤ turns.length then sealsReadOnly (setCause 3 true o) else o))

/-- The rows of the scrubber, merge buffers, stacks and data errors (R167, R390, R394 to R398). -/
def Obligations.IntegrityRows : Prop :=
  (∀ s (stack : Fin 12), live s.sys = true ∨ inHoldup s.sys = true →
    let m := s.sys
    ((stackOf m stack.val).state = 2 → Becomes (.stackPhyLoss stack) s
      (onStack stack.val (fun x => { x with state := 3, retrains := satInc x.retrains }) m)) ∧
    ((stackOf m stack.val).state = 3 →
      (let n := onStack stack.val (fun x => { x with state := 2 }) m
       Becomes (.stackRetrainDone stack) s (if live n then
         forEach ((n.task.fetches.filter fun f => f.blocked ≠ []).map fun f => tnumOf f.cmd.tensor) releaseBlocked n else n)) ∧
      Becomes (.stackRetrainTimeout stack) s (if live m then stackOut stack.val 0 m
        else takeEvent 4 (onStack stack.val (fun x => { x with state := 4 }) m)))) ∧
  (∀ s, live s.sys = true →
    let m := s.sys
    (m.power.current ≠ 2 ∨ m.power.exiting = true →
      (∀ n w,
        Becomes (.scrub (.home n w)) s (scrubTensor n.toNat w .home m) ∧
        Becomes (.scrub (.copy1 n w)) s (scrubTensor n.toNat w .copy1 m) ∧
        Becomes (.scrub (.copy0 n w)) s (scrubTensor n.toNat w .copy0 m) ∧
        Becomes (.scrub (.dest n w)) s (if arrived m n.toNat w then scrubTensor n.toNat w .dest m else m)) ∧
      (∀ (stack : Fin 12) d c, let h := WordHome.stack stack.val
        Becomes (.scrub (.free stack d c)) s (scrubWord h d c id m) ∧
        Becomes (.scrub (.mapReserve stack d c)) s (scrubWord h d c countRepair m) ∧
        Becomes (.scrub (.staging stack d c)) s (scrubWord h d c countRepair m) ∧
        (∀ vc, Becomes (.scrub (.replayStore stack vc d c)) s (scrubWord h d c (fun m => countRepair (replayFails vc m)) m)) ∧
        (∀ reload, Becomes (.scrub (.firmware stack reload d c)) s (scrubWord h d c (firmwareFails reload) m)) ∧
        (∀ n, let v := draw m
          Becomes (.scrub (.tableEntry n d c)) s (scrubWord (.stack (v.1.toNat % 12)) d c (entryFails n.toNat) v.2)) ∧
        (∀ core, Becomes (.scrub (.sequencer core d c)) s (scrubWord (.core core.toNat) d c (sequencerFails core) m) ∧
          Becomes (.scrub (.freeCore core d c)) s (scrubWord (.core core.toNat) d c id m)))) ∧
    (m.integrity.scrubSlow = false → let e := takeEvent 9 m
      Becomes .scrubSlow s (notice 0x0D 1 (leBytes 4 ((now e - e.integrity.t1Start) / (3600 * secTurns)))
        (onIntegrity (fun x => { x with scrubSlow := true }) e))) ∧
    (∀ (n : TNum) (off : BitVec 40) data t, tensorOf m n.toNat = some t →
      let o := off.toNat
      let w := o / 8
      1 ≤ data.length → data.length < 8 → w = (o + data.length - 1) / 8 → o + data.length ≤ t.size → t.isSealed = false →
      t.state ≠ .lost → inWindow t o data.length = false → stackWaits m t o data.length = false →
      mergeRoom m n w (wordHome (placeAt t ((sourcesOf t (o / unitSize)).headD .home)) w) = true →
      let e : MergeEntry := { tensor := n, word := w }
      Becomes (.narrowWriteMerge n off data) s (writePiece n.toNat o data
        (onIntegrity (fun x => { x with merge := if x.merge.contains e then x.merge else x.merge ++ [e] }) m)).2) ∧
    (∀ (n : TNum) unit,
      Becomes (.uncorrectableDataError n unit) s (damage n.toNat unit (tensorAddr n.toNat (unit * unitSize)) m)))

/-- The rows of the boot store and of the ledger (R401 to R405, R452 to R454). -/
def Obligations.BootStoreRows : Prop :=
  (∀ s, live s.sys = true →
    let m := s.sys
    let b := m.boot
    (∀ waitUs : BitVec 16, b.op ≠ none → b.suspended = false →
      let w := satMax b.waitMax waitUs.toNat
      Becomes (.bootSuspend waitUs) s (onBoot (fun b =>
        if b.window then { b with waitMax := w, readWaits := true }
        else { b with waitMax := w, suspended := true, suspends := satInc b.suspends }) m)) ∧
    (b.suspended = true → Becomes .bootResume s (onBoot (fun b => { b with suspended := false, window := true }) m)) ∧
    (b.window = true → Becomes .bootSuspendWindowEnd s (onBoot (fun b =>
      if b.readWaits then { b with window := false, readWaits := false, suspended := true, suspends := satInc b.suspends }
      else { b with window := false }) (takeEvent 10 m))) ∧
    (∀ n l, (sectorsBehind m).drop ((bootOps m).filter fun o => o == .ledgerErase).length = n :: l →
      let again := (keptRecords m n).map fun r => ({ type := BitVec.ofNat 8 (recType r), keep := true, body := r.drop 4 } : LRec)
      Becomes .ledgerSectorErase s
        (queueBootOp .ledgerErase (appendRecords (onHealth (fun h => { h with pendingRecs := h.pendingRecs ++ again }) m)))) ∧
    Becomes .ledgerAppend s
      (forEach (packRecords m.health.pendingRecs) appendPage (onHealth (fun h => { h with pendingRecs := [] }) m)) ∧
    (let a := appendRecords (takeEvent 10 m)
     Becomes .hourlyCheckpoint s (forEach ((List.range 6).map (checkpointPart a)) appendPage a))) ∧
  (∀ s o, live s.sys = true ∨ inHoldup s.sys = true → s.sys.boot.op = some o → s.sys.boot.suspended = false →
    let m := s.sys
    let ends (n : Sys) := nextBootOp (bootOpEffect o (onBoot (fun b => { b with op := none, window := false, readWaits := false }) n))
    let r := retireSector (opSector m o) m
    Becomes (.bootOpDone true) s (ends (if erases o then countErase (opSector m o) m else m)) ∧
    Becomes (.bootOpDone false) s
      (if spareSectors ≤ m.boot.sectorsRetired then noSpare o m
       else if o = .ledgerErase then ends r
       else onBoot (fun b => { b with window := false, readWaits := false }) r))

/-- The rows of the tests (R345, R347, R456, R458, R461). -/
def Obligations.SelfTestRows : Prop :=
  ∀ s, live s.sys = true →
    let m := s.sys
    (m.boot.stage = stageServing → m.power.current.toNat < 2 →
      Becomes .istTick s (forEach (List.range 64) tickChannel (forEach (List.range 8) tickPort
        (forEach (List.range 256) tickSquare (takeRetests (takeEvent 9 m)))))) ∧
    (∀ u, m.health.tests.contains u = true ∨ m.health.selftest ≠ none →
      let n := testDummies u (onHealth (fun h => { h with tests := h.tests.filter (· != u) }) m)
      Becomes (.istTestDone u none) s (testPasses u n) ∧
      (∀ code, Becomes (.istTestDone u (some code)) s (testFails u code n))) ∧
    (∀ chan : BitVec 6, let n := beginRetrain chan.toNat m
      (chanOf n chan.toNat).state = 1 → (chanOf n chan.toNat).retrain = true →
      let r := onChan chan.toNat (fun x => { x with retrain := false, state := 2 }) n
      Becomes (.channelRetrainDone chan true) s r ∧ Becomes (.channelRetrainDone chan false) s (channelLeaves chan.toNat r)) ∧
    (∀ c (domains : BitVec 32) (lanes channels : BitVec 16), m.health.selftest = some c →
      Becomes (.selftestDone domains lanes channels) s
        (complete c (doneWith (resultOf [(40, leBytes 4 domains.toNat ++ leBytes 2 lanes.toNat ++ leBytes 2 channels.toNat)]))
          (onHealth (fun h => { h with selftest := none, mode := if m.boot.stage = stageServing then 0 else 1 }) m)))

/-- The Hsiao (72,64) code corrects every single-bit error and reports every double-bit error, for every data word (R380, R382,
R384). Stored bit `k` is data bit `k` below 64 and check bit `k - 64` above. -/
def Obligations.EveryWordIsProtected : Prop :=
  ∀ data : Word,
    let flip (w : MemWord) (k : Nat) : MemWord :=
      if k < 64 then { w with data := w.data ^^^ (1#64 <<< k) } else { w with check := w.check ^^^ (1#8 <<< (k - 64)) }
    classify (goodWord data) = .clean ∧ readClass (goodWord data) = .data data ∧
    (∀ k, k < 72 →
      let w := flip (goodWord data) k
      classify w = .correctable data ∧ readClass w = .data data ∧ treated w = goodWord data) ∧
    (∀ j k, j < 72 → k < 72 → j ≠ k → ∀ d, readClass (flip (flip (goodWord data) j) k) ≠ .data d)

/-- The code and its markers (R380, R381). -/
def Obligations.ColumnsOfTheCode : Prop :=
  let bytes := (List.range 256).map (BitVec.ofNat 8)
  dataColumns = (bytes.filter fun b => popcount b == 3).take 56 ++ (bytes.filter fun b => popcount b == 5).take 8 ∧
    dataColumn 56 = 0x1F ∧ dataColumn 63 = 0x57 ∧
    (∀ d, checkBits d = (((List.range 64).filter fun i => d.getLsbD i).map dataColumn).foldl (· ^^^ ·) 0) ∧
    (∀ w, syndrome w = w.check ^^^ checkBits w.data) ∧
    (∀ w j, j < 8 → syndrome { w with check := w.check ^^^ (1#8 <<< j) } = syndrome w ^^^ (1#8 <<< j)) ∧
    unwrittenWord = { data := 0x4E574E574E574E57, check := checkBits 0x4E574E574E574E57 ^^^ 0xFF } ∧
    poisonedWord = { data := 0x5545554555455545, check := checkBits 0x5545554555455545 ^^^ 0xFF } ∧
    classify unwrittenWord = .unwritten ∧ classify poisonedWord = .poisoned

/-- Encode and decode agree on blocks (R64), command blocks (R97) and frame headers (R54). -/
def Obligations.BlocksAndCommandsReadBack : Prop :=
  (∀ b : Block, b.body.length ≤ 4096 →
    (blockBytes b).length = 32 + b.body.length ∧ readBlock (blockBytes b) = some b ∧ crcHolds (sealBlock b) = true) ∧
  (∀ c : Cmd, c.param.length = 92 →
    (commandBytes c).length = 128 ∧ commandCrcHolds (commandBytes c) = true ∧
      readCommand c.rook c.ep c.reg c.epoch (commandBytes c) = c) ∧
  (∀ (h : FrameHead) (payload : List Byte), h.credits.length = 4 → h.credits.all (· < 256) = true →
    (frameHeadBytes h h.fcrc.toNat).length = 16 ∧ readFrameHead (frameHeadBytes h h.fcrc.toNat ++ payload) = h)

/-- Every command has one completion record (R94, R106, R107, R109, R113, R123, R125). -/
def Obligations.OneCompletionRecord : Prop :=
  ∀ (c : Cmd) (e f : Ending) (m : Sys),
    let r := complete c e m
    let b := completionBlock m c (recordBytes (ownAddr m) c e)
    sameContents m r ∧ (r.task.running.any (sameCmd c)) = false ∧
    (live m = false ∨ hasRecord m c = false → r = dropCmd c m) ∧
    (live m = true → hasRecord m c = true →
      r.health = (takeEvent 8 m).health ∧
      r = (if c.rook = ownAddr m then toHost b (setPhase c.ep.toNat c.reg.toNat .recordSent (takeEvent 8 (dropCmd c m)))
        else sendBlock b (onTask (fun t => { t with ended := t.ended ++ [c] }) (takeEvent 8 (dropCmd c m))))) ∧
    (live m = true → hasRecord r c = false) ∧ (complete c f r).fabric = r.fabric ∧ (complete c f r).health = r.health

/-- The frame of the commands that only ask (R100, R286, R378, R414, R415, R460). -/
def Obligations.QueriesChangeNoContents : Prop :=
  ∀ (s : State) (c : Cmd) (i : Instr),
    i = .nop c ∨ i = .jobQuery c ∨ i = .nsQuery c ∨ i = .mediaQuery c ∨ i = .fwQuery c ∨ i = .certRead c ∨ i = .calRead c ∨
      i = .cfgRead c ∨ i = .healthQuery c ∨ i = .ledgerRead c →
    Answers i s (sameContents s.sys)

/-- Reads and writes of a store (R384, R385, R389, R390): the frame of every access to T0, T1 and TN. -/
def Obligations.StoresKeepWhatIsWritten : Prop :=
  ∀ (s : Store) (off len : Nat) (data : List Byte), s.wf = true →
    let w := (writeStore s off data).store
    let r := (readStore s off len).store
    w.wf = true ∧ r.wf = true ∧
    (∀ n, 8 * n + 8 ≤ off ∨ off + data.length ≤ 8 * n → w.word n = s.word n) ∧
    (∀ n, off ≤ 8 * n → 8 * n + 8 ≤ off + data.length → w.word n = goodWord (BitVec.ofNat 64 (leNat (bytesAt data (8 * n - off) 8)))) ∧
    (∀ n, off < 8 * n + 8 → 8 * n < off + data.length → data ≠ [] → ¬(off ≤ 8 * n ∧ 8 * n + 8 ≤ off + data.length) →
      w.word n = (mergeWord (s.word n) fun i =>
        if off ≤ 8 * n + i ∧ 8 * n + i < off + data.length then data[8 * n + i - off]? else none).1) ∧
    (∀ n, 8 * n + 8 ≤ off ∨ off + len ≤ 8 * n → r.word n = s.word n) ∧
    (∀ n, off < 8 * n + 8 → 8 * n < off + len → 1 ≤ len → r.word n = treated (s.word n)) ∧
    (off % 8 = 0 → data.length % 8 = 0 →
      let b := readStore w off data.length
      b.bytes = data ∧ b.uncorr = none ∧ b.unwritten = none ∧ b.corrected = [] ∧ b.poisoned = [])

/-- A module that is off does nothing on its own (R22, R30, R34, R36, R40). -/
def Obligations.OffModuleIsStill : Prop :=
  ∀ (i : Instr) (s : State), live s.sys = false → inHoldup s.sys = false → actsWhenOff i = false →
    Answers i s (fun m => ∃ t, m = onFabric (fun x => { x with taken := t }) s.sys)

/-- When a command is not carried out (R32, R121, R125, R409, R427). -/
def Obligations.NoCommandBeforeServing : Prop :=
  ∀ (i : Instr) (c : Cmd) (s : State), commandOf i = some c →
    let m := s.sys
    (live m = false ∨ (m.boot.stage ≠ stageServing ∧ m.boot.stage ≠ stageLoader) → Becomes i s m) ∧
    (live m = true → m.boot.stage = stageLoader → loaderOpcodes.contains c.opcode = false → Becomes i s (endWith c stBadCommand m)) ∧
    (live m = true → m.boot.stage = stageServing → m.power.current = 2 → m.power.entry = none → c.opcode ≠ 0x08 →
      Becomes i s (onPower (fun p => { p with waitExit := p.waitExit ++ [c], exiting := true, inTransition := true, target := 1 }) (startCmd c m)))

/-- GLB.PWR_CAP (R25); a bit that was set in the turn of a write that clears it stays set (R10). -/
def Obligations.PowerCapRegister : Prop :=
  readReg 0x1000 Sys.reset = some 0x5F ∧
  (∀ m, ∃ v, readReg 0x1000 m = some v ∧ v.extractLsb' 0 7 = m.power.cap ∧ v.getLsbD 8 = m.power.capErr ∧
    v.getLsbD 7 = false ∧ v.extractLsb' 9 55 = 0) ∧
  (∀ (s : State) (v : Word), live s.sys = true →
    let cap : BitVec 7 := v.extractLsb' 0 7
    (30 ≤ cap.toNat → cap.toNat ≤ 95 → Becomes (.pwrCapWrite v) s
      { s.sys with power := { s.sys.power with cap, capErr := s.sys.power.capErr && !(v.getLsbD 8 && !setInTurn 0x1000 8 s.sys) } }) ∧
    (cap.toNat < 30 ∨ 95 < cap.toNat → Becomes (.pwrCapWrite v) s
      (noteSet 0x1000 8 { s.sys with power := { s.sys.power with capErr := true } })) ∧
    Becomes (.pwrCapWrite v) s (writeReg 0x1000 v s.sys)) ∧
  (∀ m, (loadSettings m).power.cap = BitVec.ofNat 7 (leAt (chosenSettings m.boot) 2 1) ∧ capSound (loadSettings m)) ∧ capSound Sys.reset

/-- Registers after module reset: the Reset columns of the register tables. -/
def Obligations.RegistersAtReset : Prop :=
  ([(0x1000, 0x5F), (0x1008, 524288 * 2 ^ 32), (0x1010, 0), (0x1018, 0x11), (0x1020, 0), (0x1800, 1), (0x100000 + 0x8010, 0),
    (0x1000010, 0x100), (0x1000018, 0), (0x10000000, 0x8000), (0x10000000 + 0x10000 * 1234, 0x8000 + 1234), (0x10000008, 0),
    (0x4000018, 0), (0x5000000, 0), (0x5000200, 0xFFFFBFFE00100000)].all fun e => readReg e.1 Sys.reset == some (BitVec.ofNat 64 e.2)) = true ∧
  State.reset.pending = [] ∧ Sys.reset.range.tensors = [] ∧ Sys.reset.jobs.job = none ∧ Sys.reset.jobs.queue = [] ∧
  Sys.reset.task.eps = [] ∧ Sys.reset.fabric.tx = [] ∧ Sys.reset.boot.stage = 0 ∧ Sys.reset.power.epoLatch = false

/-- The queue of inputs (the model's own: log entry 1), first in, first out. -/
def Obligations.QueueIsServedInOrder : Prop :=
  (∀ (l rest : List Instr) (m : Sys),
    steps l.length { pending := l ++ rest, sys := m } = .next { pending := rest, sys := l.foldl (fun m i => effect i m) m }) ∧
  (∀ m, step { pending := [], sys := m } = .next { pending := [], sys := turnPasses m })

/-- Descriptors whose operation fails (R232, R291). The bytes of their output areas are open (log entry 18). -/
def Obligations.DescriptorsThatFail : Prop :=
  (∀ s task d i sh, readyDesc s.sys task d = some (i, sh) →
    ∀ e ∈ ([(0x01, .matmul task d, matmulOp), (0x02, .hamming task d, hammingOp), (0x03, .ewArray task d, ewArrayOp),
        (0x04, .sketch task d, sketchOp), (0x10, .ew task d, ewOp), (0x11, .norm task d, normOp), (0x12, .softmax task d, softmaxOp),
        (0x13, .reduce task d, reduceOp), (0x14, .convert task d, convertOp), (0x20, .move task d, moveDescOp),
        (0x21, .gather task d, gatherOp), (0x22, .scatter task d, scatterOp), (0x23, .scatterAdd task d, scatterAddOp),
        (0x24, .relayout task d, relayoutOp), (0x25, .transpose task d, transposeOp), (0x30, .topk task d, topkOp),
        (0x40, .filter task d, filterOp), (0x41, .scan task d, scanOp), (0x58, .emit task d, emitOp)] :
        List (Byte × Instr × (Desc → Run → Run))),
      let r := e.2.2 d (runOf task.toNat (useVector task.toNat d s.sys))
      d.op = e.1 → r.failed = true → Becomes e.2.1 s (failRun (spoil d sh.uses r))) ∧
  (∀ (d : Desc) (uses : List Use) (r : Run), r.failed = true → (spoil d uses r).failed = true ∧ (spoil d uses r).task = r.task ∧
    r.conds &&& (spoil d uses r).conds = r.conds) ∧
  (∀ (r : Run) j, r.sys.jobs.job = some j → ∃ k, failRun r = onJobs (fun x => { x with job := some k }) (releaseTask r.task r.sys) ∧
    k.conds = j.conds ||| r.conds ∧ (taskAt k r.task).failed = true ∧ k.stopping.isSome = true ∧ k.stopping ≠ some .budget ∧
    (taskAt k r.task).done = (taskAt j r.task).done ∧ (∀ t, t ≠ r.task → taskAt k t = taskAt j t) ∧
    k.malformed = (j.malformed || r.bad) ∧ k.busyRead = (j.busyRead || r.busy) ∧ k.errAddr = mergeErr j.conds r.conds j.errAddr r.err ∧
    k.faultTask = (if j.stopping = none ∨ j.stopping = some .budget then BitVec.ofNat 32 r.task else j.faultTask))

/-- One status of several, and the conditions that stay visible (R14, R11, R107, R108). -/
def Obligations.OneStatusIsReported : Prop :=
  let order : List Byte := [0x40, 0x08, 0x12, 0x10, 0x32, 0x33, 0x21, 0x30, 0x31, 0x20, 0x22, 0x01, 0x00]
  (∀ l : List Byte, l ≠ [] → (∀ x ∈ l, x ∈ order) → reported l ∈ l ∧ ∀ x ∈ l, order.idxOf (reported l) ≤ order.idxOf x) ∧
  (∀ (c : BitVec 16), ∀ e ∈ ([(0x01, 0), (0x22, 1), (0x20, 2), (0x31, 3), (0x30, 4), (0x21, 5), (0x33, 6), (0x32, 7)] : List (Byte × Nat)),
    e.1 ∈ statusesOf c ↔ c.getLsbD e.2 = true) ∧
  (∀ j : Job, (jobEnding j).conds = (if (jobEnding j).status = 0x08 then 0 else j.conds) ∧ (jobEnding j).status = reported (jobStatuses j) ∧
    ∀ x, x ∈ jobStatuses j ↔
      x ∈ statusesOf j.conds ∨ (x = 0x40 ∧ (j.malformed = true ∨ j.conds.getLsbD 8 = true)) ∨ (x = 0x08 ∧ j.busyRead = true) ∨ (x = 0x12 ∧ j.stopping = some .flushed)) ∧
  (∀ exec c e, (recordBytes exec c e).getD 2 0 = e.status ∧ leAt (recordBytes exec c e) 8 2 = e.conds.toNat) ∧
  reported (statusesOf 0x0006) = 0x20 ∧ reported (statusesOf 0x0002) = 0x22

/-- The cell's slots and runs (R170 to R172). -/
def Obligations.CellsMultiplyExactly : Prop :=
  (∀ (a acc : Int) (b : Nat) (p : Bool), weightSlot 1 a acc 0 p = acc + (if p then a else -a) ∧
    ∀ w, 2 ≤ w → w ≤ 8 → (b + 1 < w → weightSlot w a acc b p = acc + (if p then a * 2 ^ b else 0)) ∧
      (b + 1 = w → weightSlot w a acc b p = acc + (if p then -(a * 2 ^ b) else 0))) ∧
  (∀ (a acc : Int) (code : Nat), code < 2 → cellWeight 1 a acc code = acc + a * (if code = 1 then 1 else -1)) ∧
  (∀ (w : Nat) (a acc : Int) (code : Nat), 2 ≤ w → w ≤ 8 → code < 2 ^ w →
    cellWeight w a acc code = acc + a * (BitVec.ofNat w code).toInt) ∧
  (∀ (acc : Nat) (q s : BitVec 16),
    sketchSlot acc q s = acc + ((List.range 16).filter fun i => q.getLsbD i != s.getLsbD i).length) ∧
  (∀ (w : Nat) (l : List (Int × Nat)), 1 ≤ w → w ≤ 8 → l.length ≤ 65536 →
    (∀ e ∈ l, -2 ^ 15 ≤ e.1 ∧ e.1 < 2 ^ 15 ∧ e.2 < 2 ^ w) → -2 ^ 38 ≤ weightRun w l ∧ weightRun w l ≤ 2 ^ 38)

/-- The checks on an arriving TASK_WRITE (R95; R73, R93, R94). -/
def Obligations.TaskWriteAcceptance : Prop :=
  (∀ (ep : BitVec 4) (a : Word) i, taskRegister ep a = some i ↔ i < 256 ∧ a.toNat = 0x100000 + 0x10000 * ep.toNat + 0x80 * i) ∧
  ∀ (port : BitVec 3) (b : Block) (s : State), live s.sys = true →
    let m := takeEvent 7 (consumed b s.sys)
    let x := epOf m b.ep.toNat
    let met (i : Nat) : Prop := m.fabric.rook = true ∧ activeHost m = some port.toNat ∧ b.host = true ∧
      b.ep.toNat < (portOf m port.toNat).endpoints.toNat ∧ taskRegister b.ep b.target = some i ∧ b.body.length = 128 ∧
      tfind i x.held = none ∧ x.credit ≠ 0 ∧ x.resetBusy = false
    (b.dst ≠ ownAddr s.sys ∨ b.bcast ≠ 0 → Becomes (.taskWrite port b) s (badBlock m)) ∧
    (b.dst = ownAddr s.sys → b.bcast = 0 → (¬ ∃ i, met i) → Answers (.taskWrite port b) s fun n => n.cores = m.cores ∧ n.jobs = m.jobs ∧ n.range = m.range ∧
      (∀ e, (epOf n e).held = (epOf m e).held) ∧ (epOf n b.ep.toNat).refused = satInc x.refused ∧
      n = toHost { newBlock (ownAddr m) (ownAddr m) kTaskRefused with host := true, ep := b.ep, target := b.target, tag := b.tag }
        (onEp b.ep.toNat (fun x => { x with refused := satInc x.refused }) m)) ∧
    (∀ i, b.dst = ownAddr s.sys → b.bcast = 0 → met i → rookServes m = true → ∃ n,
      let c := readCommand (ownAddr m) b.ep (BitVec.ofNat 8 i) x.epoch b.body
      ((tfind i (epOf n b.ep.toNat).held).map (·.block)) = some b.body ∧ (epOf n b.ep.toNat).refused = x.refused ∧
      (∀ e j, e ≠ b.ep.toNat ∨ j ≠ i → tfind j (epOf n e).held = tfind j (epOf m e).held) ∧
      Becomes (.taskWrite port b) s (if acceptChecks c b.body m then n else endWith c 0x40 n))

/-- An invariant that every step keeps (R22): the latch of emergency power-off. -/
def Obligations.LatchHoldsTheModuleOff : Prop :=
  ∀ s t : State, latched s.sys → step s = .next t →
    s.pending.head? ≠ some .i2cRestart → s.pending.head? ≠ some (.emergencyPowerOffArm 0x41 0x5A) → s.pending.head? ≠ some .inputLow1s →
    latched t.sys

/-- Group reads (R466; the flag's place in GLB.GROUP_READ is R467's). -/
def Obligations.GroupViews : Prop :=
  (∀ (w : Window) o m v, v ∈ sampleOf w o m ↔ ∃ n, w.first ≤ n ∧ n < w.first + w.cores ∧ readCore n o m = some v) ∧
  (∀ o m n k, (readCore n o m).isSome = (readCore k o m).isSome) ∧
  (∀ (l : List Word) i, (orWord l).getLsbD i = true ↔ ∃ v ∈ l, v.getLsbD i = true) ∧
  (∀ (l : List Word) i, (mismatchWord l).getLsbD i = true ↔ ∃ u ∈ l, ∃ v ∈ l, u.getLsbD i ≠ v.getLsbD i) ∧
  (∀ b s w mismatch o, regsOpen s.sys = true → b.bcast = 0 → b.target.toNat % 8 = 0 → windowAt b.target.toNat = some (w, mismatch, o) →
    let m := consumed b s.sys
    let l := sampleOf w o m
    (readCore w.first o m).isSome = true → ∃ r : Word, r.getLsbD 40 = (mismatchWord l != 0) ∧
      Becomes (.groupWindowRead b) s (respondRead b (if mismatch then mismatchWord l else orWord l) stDone
        (onHealth (fun h => { h with groupRead := r }) m)))
end

