-- ==== Sys2Proof/Laws/Bytes.lean ====
section
/-!
SUPPORT. Little-endian fields and byte lists: lengths, and reading back what was laid out (R8).
-/
namespace Sys2Proof.Machine

@[simp] theorem leBytes_length (n x : Nat) : (leBytes n x).length = n := by
  induction n generalizing x with
  | zero => rfl
  | succ n ih => simp [leBytes, ih]

@[simp] theorem fitBytes_length (n : Nat) (l : List Byte) : (fitBytes n l).length = n := by
  simp only [fitBytes, List.length_append, List.length_take, List.length_replicate]
  omega

@[simp] theorem zeros_length (n : Nat) : (zeros n).length = n := List.length_replicate ..

@[simp] theorem bytesAt_length (l : List Byte) (o n : Nat) : (bytesAt l o n).length = n := fitBytes_length _ _

/-- Bytes that are already as long as asked stay as they are. -/
theorem fitBytes_self (n : Nat) (l : List Byte) (h : l.length = n) : fitBytes n l = l := by
  subst h
  simp [fitBytes]

/-- A number that fits reads back from its bytes. -/
theorem leNat_leBytes (n x : Nat) : leNat (leBytes n x) = x % 256 ^ n := by
  induction n generalizing x with
  | zero => simp [leBytes, leNat, Nat.mod_one]
  | succ n ih =>
    have h : leNat (leBytes (n + 1) x) = x % 256 + 256 * leNat (leBytes n (x / 256)) := rfl
    rw [h, ih, Nat.pow_succ, Nat.mul_comm (256 ^ n) 256, Nat.mod_mul]

/-- The first field of a list is the one it begins with. -/
theorem bytesAt_here (n : Nat) (l r : List Byte) (h : l.length = n) : bytesAt (l ++ r) 0 n = l := by
  subst h
  simp [bytesAt, fitBytes]

/-- A later field lies in the rest. -/
theorem bytesAt_skip (o n : Nat) (l r : List Byte) (h : l.length ≤ o) : bytesAt (l ++ r) o n = bytesAt r (o - l.length) n := by
  unfold bytesAt
  rw [List.drop_append, List.drop_eq_nil_of_le h, List.nil_append]

/-- The first field, laid out as a number. -/
theorem leAt_here (n x : Nat) (r : List Byte) : leAt (leBytes n x ++ r) 0 n = x % 256 ^ n := by
  rw [leAt, bytesAt_here _ _ _ (leBytes_length n x), leNat_leBytes]

/-- A later field, as a number. -/
theorem leAt_skip (o n : Nat) (l r : List Byte) (h : l.length ≤ o) : leAt (l ++ r) o n = leAt r (o - l.length) n := by
  rw [leAt, bytesAt_skip _ _ _ _ h, leAt]

/-- One byte as a list is its own little-endian field. -/
theorem byte_eq_leBytes (b : Byte) : [b] = leBytes 1 b.toNat := by
  simp [leBytes]

end Sys2Proof.Machine
end

