-- ==== Sys2Proof/Laws/State.lean ====
section
/-!
SUPPORT. What the update of one chapter's state does to every chapter: one lemma for each pair, so that no later proof unfolds a record
update.
-/
namespace Sys2Proof.Machine

@[simp] theorem onPower_power (f : Power → Power) (m : Sys) : (onPower f m).power = f m.power := rfl
@[simp] theorem onPower_fabric (f : Power → Power) (m : Sys) : (onPower f m).fabric = m.fabric := rfl
@[simp] theorem onPower_task (f : Power → Power) (m : Sys) : (onPower f m).task = m.task := rfl
@[simp] theorem onPower_range (f : Power → Power) (m : Sys) : (onPower f m).range = m.range := rfl
@[simp] theorem onPower_cores (f : Power → Power) (m : Sys) : (onPower f m).cores = m.cores := rfl
@[simp] theorem onPower_jobs (f : Power → Power) (m : Sys) : (onPower f m).jobs = m.jobs := rfl
@[simp] theorem onPower_search (f : Power → Power) (m : Sys) : (onPower f m).search = m.search := rfl
@[simp] theorem onPower_flash (f : Power → Power) (m : Sys) : (onPower f m).flash = m.flash := rfl
@[simp] theorem onPower_integrity (f : Power → Power) (m : Sys) : (onPower f m).integrity = m.integrity := rfl
@[simp] theorem onPower_boot (f : Power → Power) (m : Sys) : (onPower f m).boot = m.boot := rfl
@[simp] theorem onPower_health (f : Power → Power) (m : Sys) : (onPower f m).health = m.health := rfl

@[simp] theorem onFabric_power (f : Fabric → Fabric) (m : Sys) : (onFabric f m).power = m.power := rfl
@[simp] theorem onFabric_fabric (f : Fabric → Fabric) (m : Sys) : (onFabric f m).fabric = f m.fabric := rfl
@[simp] theorem onFabric_task (f : Fabric → Fabric) (m : Sys) : (onFabric f m).task = m.task := rfl
@[simp] theorem onFabric_range (f : Fabric → Fabric) (m : Sys) : (onFabric f m).range = m.range := rfl
@[simp] theorem onFabric_cores (f : Fabric → Fabric) (m : Sys) : (onFabric f m).cores = m.cores := rfl
@[simp] theorem onFabric_jobs (f : Fabric → Fabric) (m : Sys) : (onFabric f m).jobs = m.jobs := rfl
@[simp] theorem onFabric_search (f : Fabric → Fabric) (m : Sys) : (onFabric f m).search = m.search := rfl
@[simp] theorem onFabric_flash (f : Fabric → Fabric) (m : Sys) : (onFabric f m).flash = m.flash := rfl
@[simp] theorem onFabric_integrity (f : Fabric → Fabric) (m : Sys) : (onFabric f m).integrity = m.integrity := rfl
@[simp] theorem onFabric_boot (f : Fabric → Fabric) (m : Sys) : (onFabric f m).boot = m.boot := rfl
@[simp] theorem onFabric_health (f : Fabric → Fabric) (m : Sys) : (onFabric f m).health = m.health := rfl

@[simp] theorem onTask_power (f : Task → Task) (m : Sys) : (onTask f m).power = m.power := rfl
@[simp] theorem onTask_fabric (f : Task → Task) (m : Sys) : (onTask f m).fabric = m.fabric := rfl
@[simp] theorem onTask_task (f : Task → Task) (m : Sys) : (onTask f m).task = f m.task := rfl
@[simp] theorem onTask_range (f : Task → Task) (m : Sys) : (onTask f m).range = m.range := rfl
@[simp] theorem onTask_cores (f : Task → Task) (m : Sys) : (onTask f m).cores = m.cores := rfl
@[simp] theorem onTask_jobs (f : Task → Task) (m : Sys) : (onTask f m).jobs = m.jobs := rfl
@[simp] theorem onTask_search (f : Task → Task) (m : Sys) : (onTask f m).search = m.search := rfl
@[simp] theorem onTask_flash (f : Task → Task) (m : Sys) : (onTask f m).flash = m.flash := rfl
@[simp] theorem onTask_integrity (f : Task → Task) (m : Sys) : (onTask f m).integrity = m.integrity := rfl
@[simp] theorem onTask_boot (f : Task → Task) (m : Sys) : (onTask f m).boot = m.boot := rfl
@[simp] theorem onTask_health (f : Task → Task) (m : Sys) : (onTask f m).health = m.health := rfl

@[simp] theorem onRange_power (f : Range → Range) (m : Sys) : (onRange f m).power = m.power := rfl
@[simp] theorem onRange_fabric (f : Range → Range) (m : Sys) : (onRange f m).fabric = m.fabric := rfl
@[simp] theorem onRange_task (f : Range → Range) (m : Sys) : (onRange f m).task = m.task := rfl
@[simp] theorem onRange_range (f : Range → Range) (m : Sys) : (onRange f m).range = f m.range := rfl
@[simp] theorem onRange_cores (f : Range → Range) (m : Sys) : (onRange f m).cores = m.cores := rfl
@[simp] theorem onRange_jobs (f : Range → Range) (m : Sys) : (onRange f m).jobs = m.jobs := rfl
@[simp] theorem onRange_search (f : Range → Range) (m : Sys) : (onRange f m).search = m.search := rfl
@[simp] theorem onRange_flash (f : Range → Range) (m : Sys) : (onRange f m).flash = m.flash := rfl
@[simp] theorem onRange_integrity (f : Range → Range) (m : Sys) : (onRange f m).integrity = m.integrity := rfl
@[simp] theorem onRange_boot (f : Range → Range) (m : Sys) : (onRange f m).boot = m.boot := rfl
@[simp] theorem onRange_health (f : Range → Range) (m : Sys) : (onRange f m).health = m.health := rfl

@[simp] theorem onCores_power (f : (Tab Core) → (Tab Core)) (m : Sys) : (onCores f m).power = m.power := rfl
@[simp] theorem onCores_fabric (f : (Tab Core) → (Tab Core)) (m : Sys) : (onCores f m).fabric = m.fabric := rfl
@[simp] theorem onCores_task (f : (Tab Core) → (Tab Core)) (m : Sys) : (onCores f m).task = m.task := rfl
@[simp] theorem onCores_range (f : (Tab Core) → (Tab Core)) (m : Sys) : (onCores f m).range = m.range := rfl
@[simp] theorem onCores_cores (f : (Tab Core) → (Tab Core)) (m : Sys) : (onCores f m).cores = f m.cores := rfl
@[simp] theorem onCores_jobs (f : (Tab Core) → (Tab Core)) (m : Sys) : (onCores f m).jobs = m.jobs := rfl
@[simp] theorem onCores_search (f : (Tab Core) → (Tab Core)) (m : Sys) : (onCores f m).search = m.search := rfl
@[simp] theorem onCores_flash (f : (Tab Core) → (Tab Core)) (m : Sys) : (onCores f m).flash = m.flash := rfl
@[simp] theorem onCores_integrity (f : (Tab Core) → (Tab Core)) (m : Sys) : (onCores f m).integrity = m.integrity := rfl
@[simp] theorem onCores_boot (f : (Tab Core) → (Tab Core)) (m : Sys) : (onCores f m).boot = m.boot := rfl
@[simp] theorem onCores_health (f : (Tab Core) → (Tab Core)) (m : Sys) : (onCores f m).health = m.health := rfl

@[simp] theorem onJobs_power (f : Jobs → Jobs) (m : Sys) : (onJobs f m).power = m.power := rfl
@[simp] theorem onJobs_fabric (f : Jobs → Jobs) (m : Sys) : (onJobs f m).fabric = m.fabric := rfl
@[simp] theorem onJobs_task (f : Jobs → Jobs) (m : Sys) : (onJobs f m).task = m.task := rfl
@[simp] theorem onJobs_range (f : Jobs → Jobs) (m : Sys) : (onJobs f m).range = m.range := rfl
@[simp] theorem onJobs_cores (f : Jobs → Jobs) (m : Sys) : (onJobs f m).cores = m.cores := rfl
@[simp] theorem onJobs_jobs (f : Jobs → Jobs) (m : Sys) : (onJobs f m).jobs = f m.jobs := rfl
@[simp] theorem onJobs_search (f : Jobs → Jobs) (m : Sys) : (onJobs f m).search = m.search := rfl
@[simp] theorem onJobs_flash (f : Jobs → Jobs) (m : Sys) : (onJobs f m).flash = m.flash := rfl
@[simp] theorem onJobs_integrity (f : Jobs → Jobs) (m : Sys) : (onJobs f m).integrity = m.integrity := rfl
@[simp] theorem onJobs_boot (f : Jobs → Jobs) (m : Sys) : (onJobs f m).boot = m.boot := rfl
@[simp] theorem onJobs_health (f : Jobs → Jobs) (m : Sys) : (onJobs f m).health = m.health := rfl

@[simp] theorem onSearch_power (f : Search → Search) (m : Sys) : (onSearch f m).power = m.power := rfl
@[simp] theorem onSearch_fabric (f : Search → Search) (m : Sys) : (onSearch f m).fabric = m.fabric := rfl
@[simp] theorem onSearch_task (f : Search → Search) (m : Sys) : (onSearch f m).task = m.task := rfl
@[simp] theorem onSearch_range (f : Search → Search) (m : Sys) : (onSearch f m).range = m.range := rfl
@[simp] theorem onSearch_cores (f : Search → Search) (m : Sys) : (onSearch f m).cores = m.cores := rfl
@[simp] theorem onSearch_jobs (f : Search → Search) (m : Sys) : (onSearch f m).jobs = m.jobs := rfl
@[simp] theorem onSearch_search (f : Search → Search) (m : Sys) : (onSearch f m).search = f m.search := rfl
@[simp] theorem onSearch_flash (f : Search → Search) (m : Sys) : (onSearch f m).flash = m.flash := rfl
@[simp] theorem onSearch_integrity (f : Search → Search) (m : Sys) : (onSearch f m).integrity = m.integrity := rfl
@[simp] theorem onSearch_boot (f : Search → Search) (m : Sys) : (onSearch f m).boot = m.boot := rfl
@[simp] theorem onSearch_health (f : Search → Search) (m : Sys) : (onSearch f m).health = m.health := rfl

@[simp] theorem onFlash_power (f : Flash → Flash) (m : Sys) : (onFlash f m).power = m.power := rfl
@[simp] theorem onFlash_fabric (f : Flash → Flash) (m : Sys) : (onFlash f m).fabric = m.fabric := rfl
@[simp] theorem onFlash_task (f : Flash → Flash) (m : Sys) : (onFlash f m).task = m.task := rfl
@[simp] theorem onFlash_range (f : Flash → Flash) (m : Sys) : (onFlash f m).range = m.range := rfl
@[simp] theorem onFlash_cores (f : Flash → Flash) (m : Sys) : (onFlash f m).cores = m.cores := rfl
@[simp] theorem onFlash_jobs (f : Flash → Flash) (m : Sys) : (onFlash f m).jobs = m.jobs := rfl
@[simp] theorem onFlash_search (f : Flash → Flash) (m : Sys) : (onFlash f m).search = m.search := rfl
@[simp] theorem onFlash_flash (f : Flash → Flash) (m : Sys) : (onFlash f m).flash = f m.flash := rfl
@[simp] theorem onFlash_integrity (f : Flash → Flash) (m : Sys) : (onFlash f m).integrity = m.integrity := rfl
@[simp] theorem onFlash_boot (f : Flash → Flash) (m : Sys) : (onFlash f m).boot = m.boot := rfl
@[simp] theorem onFlash_health (f : Flash → Flash) (m : Sys) : (onFlash f m).health = m.health := rfl

@[simp] theorem onIntegrity_power (f : Integrity → Integrity) (m : Sys) : (onIntegrity f m).power = m.power := rfl
@[simp] theorem onIntegrity_fabric (f : Integrity → Integrity) (m : Sys) : (onIntegrity f m).fabric = m.fabric := rfl
@[simp] theorem onIntegrity_task (f : Integrity → Integrity) (m : Sys) : (onIntegrity f m).task = m.task := rfl
@[simp] theorem onIntegrity_range (f : Integrity → Integrity) (m : Sys) : (onIntegrity f m).range = m.range := rfl
@[simp] theorem onIntegrity_cores (f : Integrity → Integrity) (m : Sys) : (onIntegrity f m).cores = m.cores := rfl
@[simp] theorem onIntegrity_jobs (f : Integrity → Integrity) (m : Sys) : (onIntegrity f m).jobs = m.jobs := rfl
@[simp] theorem onIntegrity_search (f : Integrity → Integrity) (m : Sys) : (onIntegrity f m).search = m.search := rfl
@[simp] theorem onIntegrity_flash (f : Integrity → Integrity) (m : Sys) : (onIntegrity f m).flash = m.flash := rfl
@[simp] theorem onIntegrity_integrity (f : Integrity → Integrity) (m : Sys) : (onIntegrity f m).integrity = f m.integrity := rfl
@[simp] theorem onIntegrity_boot (f : Integrity → Integrity) (m : Sys) : (onIntegrity f m).boot = m.boot := rfl
@[simp] theorem onIntegrity_health (f : Integrity → Integrity) (m : Sys) : (onIntegrity f m).health = m.health := rfl

@[simp] theorem onBoot_power (f : Boot → Boot) (m : Sys) : (onBoot f m).power = m.power := rfl
@[simp] theorem onBoot_fabric (f : Boot → Boot) (m : Sys) : (onBoot f m).fabric = m.fabric := rfl
@[simp] theorem onBoot_task (f : Boot → Boot) (m : Sys) : (onBoot f m).task = m.task := rfl
@[simp] theorem onBoot_range (f : Boot → Boot) (m : Sys) : (onBoot f m).range = m.range := rfl
@[simp] theorem onBoot_cores (f : Boot → Boot) (m : Sys) : (onBoot f m).cores = m.cores := rfl
@[simp] theorem onBoot_jobs (f : Boot → Boot) (m : Sys) : (onBoot f m).jobs = m.jobs := rfl
@[simp] theorem onBoot_search (f : Boot → Boot) (m : Sys) : (onBoot f m).search = m.search := rfl
@[simp] theorem onBoot_flash (f : Boot → Boot) (m : Sys) : (onBoot f m).flash = m.flash := rfl
@[simp] theorem onBoot_integrity (f : Boot → Boot) (m : Sys) : (onBoot f m).integrity = m.integrity := rfl
@[simp] theorem onBoot_boot (f : Boot → Boot) (m : Sys) : (onBoot f m).boot = f m.boot := rfl
@[simp] theorem onBoot_health (f : Boot → Boot) (m : Sys) : (onBoot f m).health = m.health := rfl

@[simp] theorem onHealth_power (f : Health → Health) (m : Sys) : (onHealth f m).power = m.power := rfl
@[simp] theorem onHealth_fabric (f : Health → Health) (m : Sys) : (onHealth f m).fabric = m.fabric := rfl
@[simp] theorem onHealth_task (f : Health → Health) (m : Sys) : (onHealth f m).task = m.task := rfl
@[simp] theorem onHealth_range (f : Health → Health) (m : Sys) : (onHealth f m).range = m.range := rfl
@[simp] theorem onHealth_cores (f : Health → Health) (m : Sys) : (onHealth f m).cores = m.cores := rfl
@[simp] theorem onHealth_jobs (f : Health → Health) (m : Sys) : (onHealth f m).jobs = m.jobs := rfl
@[simp] theorem onHealth_search (f : Health → Health) (m : Sys) : (onHealth f m).search = m.search := rfl
@[simp] theorem onHealth_flash (f : Health → Health) (m : Sys) : (onHealth f m).flash = m.flash := rfl
@[simp] theorem onHealth_integrity (f : Health → Health) (m : Sys) : (onHealth f m).integrity = m.integrity := rfl
@[simp] theorem onHealth_boot (f : Health → Health) (m : Sys) : (onHealth f m).boot = m.boot := rfl
@[simp] theorem onHealth_health (f : Health → Health) (m : Sys) : (onHealth f m).health = f m.health := rfl

/-! ### Control of a meaning -/

@[simp] theorem forEach_nil {α : Type} (f : α → Sys → Sys) (m : Sys) : forEach [] f m = m := rfl
@[simp] theorem forEach_cons {α : Type} (a : α) (l : List α) (f : α → Sys → Sys) (m : Sys) :
    forEach (a :: l) f m = forEach l f (f a m) := rfl
@[simp] theorem onlyIf_true (f : Sys → Sys) (m : Sys) : onlyIf true f m = f m := rfl
@[simp] theorem onlyIf_false (f : Sys → Sys) (m : Sys) : onlyIf false f m = m := rfl
@[simp] theorem whileLive_live (f : Sys → Sys) (m : Sys) (h : live m = true) : whileLive f m = f m := by simp [whileLive, h]
@[simp] theorem whileLive_not_live (f : Sys → Sys) (m : Sys) (h : live m = false) : whileLive f m = m := by simp [whileLive, h]
@[simp] theorem asEvent_live (pos : Nat) (f : Sys → Sys) (m : Sys) (h : live m = true) : asEvent pos f m = f (takeEvent pos m) := by
  simp [asEvent, h]
@[simp] theorem done_next (s : State) (f : Sys → Sys) : done s f = .next { s with sys := f s.sys } := rfl

/-- A loop keeps what each of its rounds keeps. -/
theorem forEach_keeps {α β : Type} (g : Sys → β) (l : List α) (f : α → Sys → Sys) (h : ∀ a m, g (f a m) = g m) (m : Sys) :
    g (forEach l f m) = g m := by
  induction l generalizing m with
  | nil => rfl
  | cons a t ih => rw [forEach_cons, ih, h]

/-- A guarded change keeps what the change keeps. -/
theorem onlyIf_keeps {β : Type} (g : Sys → β) (c : Bool) (f : Sys → Sys) (h : ∀ m, g (f m) = g m) (m : Sys) : g (onlyIf c f m) = g m := by
  cases c
  · rfl
  · exact h m

/-- An event keeps what its counting and its effect keep. -/
theorem asEvent_keeps {β : Type} (g : Sys → β) (pos : Nat) (f : Sys → Sys) (ht : ∀ m, g (takeEvent pos m) = g m) (h : ∀ m, g (f m) = g m)
    (m : Sys) : g (asEvent pos f m) = g m := by
  unfold asEvent
  split
  · rw [h, ht]
  · split
    · rw [ht]
    · rfl

end Sys2Proof.Machine
end

