-- ==== Sys2Proof/Laws/Commands.lean ====
section
/-!
SUPPORT. What starting a command, running it and ending it do (R103, R106, R109): the lemmas that later proofs cite instead of unfolding
these operations.
-/
namespace Sys2Proof.Machine

/-! ### Starting a command -/

@[simp] theorem startCmd_power (c : Cmd) (m : Sys) : (startCmd c m).power = m.power := rfl
@[simp] theorem startCmd_fabric (c : Cmd) (m : Sys) : (startCmd c m).fabric = m.fabric := rfl
@[simp] theorem startCmd_range (c : Cmd) (m : Sys) : (startCmd c m).range = m.range := rfl
@[simp] theorem startCmd_cores (c : Cmd) (m : Sys) : (startCmd c m).cores = m.cores := rfl
@[simp] theorem startCmd_jobs (c : Cmd) (m : Sys) : (startCmd c m).jobs = m.jobs := rfl
@[simp] theorem startCmd_indexes (c : Cmd) (m : Sys) : indexes (startCmd c m) = indexes m := rfl
@[simp] theorem startCmd_flash (c : Cmd) (m : Sys) : (startCmd c m).flash = m.flash := rfl
@[simp] theorem startCmd_integrity (c : Cmd) (m : Sys) : (startCmd c m).integrity = m.integrity := rfl
@[simp] theorem startCmd_boot (c : Cmd) (m : Sys) : (startCmd c m).boot = m.boot := rfl
@[simp] theorem startCmd_health (c : Cmd) (m : Sys) : (startCmd c m).health = m.health := rfl
@[simp] theorem startCmd_eps (c : Cmd) (m : Sys) : (startCmd c m).task.eps = m.task.eps := rfl
@[simp] theorem startCmd_fetches (c : Cmd) (m : Sys) : (startCmd c m).task.fetches = m.task.fetches := rfl
@[simp] theorem startCmd_relayed (c : Cmd) (m : Sys) : (startCmd c m).task.relayed = m.task.relayed := rfl
@[simp] theorem startCmd_order (c : Cmd) (m : Sys) : (startCmd c m).task.order = m.task.order := rfl
@[simp] theorem tensorOf_startCmd (c : Cmd) (m : Sys) (n : Nat) : tensorOf (startCmd c m) n = tensorOf m n := rfl
@[simp] theorem live_startCmd (c : Cmd) (m : Sys) : live (startCmd c m) = live m := rfl
@[simp] theorem hasRecord_startCmd (c d : Cmd) (m : Sys) : hasRecord (startCmd c m) d = hasRecord m d := rfl
@[simp] theorem ownAddr_startCmd (c : Cmd) (m : Sys) : ownAddr (startCmd c m) = ownAddr m := rfl

/-! ### Running a command -/

/-- A module that serves commands has none of the reasons to hold one back. -/
theorem serves_iff (m : Sys) : serves m = true ↔
    live m = true ∧ m.boot.stage = stageServing ∧ ¬(m.power.current = 2 ∧ m.power.entry.isNone = true) := by
  unfold serves
  by_cases h1 : m.power.current = 2 <;> cases h2 : m.power.entry <;> simp [h1, and_assoc]

/-- A module that serves commands runs this one: it starts, and its own effect happens (R32, R121, R409, R427). -/
theorem asCommand_serves (c : Cmd) (f : Sys → Sys) (m : Sys) (h : serves m = true) : asCommand c f m = f (startCmd c m) := by
  rw [serves_iff] at h
  obtain ⟨hl, hs, hp⟩ := h
  unfold asCommand
  rw [hl, hs]
  simp only [Bool.not_true, Bool.false_eq_true, if_false]
  rw [if_neg (by decide), if_neg (by decide), if_neg (fun h => hp ⟨h.1, h.2.1⟩)]

/-! ### What leaves tensors, jobs and the rest unchanged -/

theorem sameContents_refl (m : Sys) : sameContents m m := ⟨rfl, rfl, rfl, rfl, rfl, rfl, rfl⟩

theorem sameContents_trans {a b c : Sys} (h : sameContents a b) (k : sameContents b c) : sameContents a c := by
  obtain ⟨h1, h2, h3, h4, h5, h6, h7⟩ := h
  obtain ⟨k1, k2, k3, k4, k5, k6, k7⟩ := k
  exact ⟨k1.trans h1, k2.trans h2, k3.trans h3, k4.trans h4, k5.trans h5, k6.trans h6, k7.trans h7⟩

theorem sameContents_onFabric (f : Fabric → Fabric) (m : Sys) : sameContents m (onFabric f m) := ⟨rfl, rfl, rfl, rfl, rfl, rfl, rfl⟩
theorem sameContents_onTask (f : Task → Task) (m : Sys) : sameContents m (onTask f m) := ⟨rfl, rfl, rfl, rfl, rfl, rfl, rfl⟩
theorem sameContents_onPower (f : Power → Power) (m : Sys) : sameContents m (onPower f m) := ⟨rfl, rfl, rfl, rfl, rfl, rfl, rfl⟩
theorem sameContents_onHealth (f : Health → Health) (m : Sys) : sameContents m (onHealth f m) := ⟨rfl, rfl, rfl, rfl, rfl, rfl, rfl⟩

/-- A repeated operation changes no contents when its parts do not. -/
theorem sameContents_forEach {α : Type} (f : α → Sys → Sys) (h : ∀ a m, sameContents m (f a m)) (l : List α) (m : Sys) :
    sameContents m (forEach l f m) := by
  unfold forEach
  induction l generalizing m with
  | nil => exact sameContents_refl m
  | cons a l ih => exact sameContents_trans (h a m) (ih (f a m))

theorem sameContents_onSeen (f : Search → Search) (m : Sys) (h : { f m.search with seen := [] } = indexes m) :
    sameContents m (onSearch f m) := ⟨rfl, rfl, rfl, h, rfl, rfl, rfl⟩

theorem sameContents_startCmd (c : Cmd) (m : Sys) : sameContents m (startCmd c m) := ⟨rfl, rfl, rfl, rfl, rfl, rfl, rfl⟩
theorem sameContents_dropCmd (c : Cmd) (m : Sys) : sameContents m (dropCmd c m) := ⟨rfl, rfl, rfl, rfl, rfl, rfl, rfl⟩

/-! ### Sending blocks -/

/-- From `m` to `n` only the links have changed, and not the module's own address: all that sending a block can do. -/
def sends (m n : Sys) : Prop := n = { m with fabric := n.fabric } ∧ ownAddr n = ownAddr m

theorem sends_refl (m : Sys) : sends m m := ⟨rfl, rfl⟩

theorem sends_trans {a b c : Sys} (h : sends a b) (k : sends b c) : sends a c := by
  refine ⟨?_, k.2.trans h.2⟩
  rw [k.1, h.1]

/-- What sending leaves unchanged. -/
theorem sends_frame {m n : Sys} (h : sends m n) : sameContents m n ∧ n.task = m.task ∧ n.power = m.power ∧ n.health = m.health := by
  rw [h.1]
  exact ⟨⟨rfl, rfl, rfl, rfl, rfl, rfl, rfl⟩, rfl, rfl, rfl⟩

theorem sends_forEach {α : Type} (f : α → Sys → Sys) (h : ∀ a m, sends m (f a m)) (l : List α) (m : Sys) : sends m (forEach l f m) := by
  unfold forEach
  induction l generalizing m with
  | nil => exact sends_refl m
  | cons a l ih => exact sends_trans (h a m) (ih (f a m))

theorem sends_toPort (p : Nat) (b : Block) (m : Sys) : sends m (toPort p b m) := ⟨rfl, rfl⟩

theorem sends_launch (b : Block) (m : Sys) : sends m (launch b m) := by
  unfold launch
  split
  · dsimp only
    split <;> exact ⟨rfl, rfl⟩
  · exact sends_forEach _ (fun p n => sends_toPort p b n) _ m

theorem sends_makePlace (k : StreamKey) (m : Sys) : sends m (makePlace k m) := by
  unfold makePlace
  split
  · exact sends_refl m
  · split <;> exact ⟨rfl, rfl⟩

theorem sends_setTx (k : StreamKey) (t : TxStream) (m : Sys) : sends m (setTx k t m) := ⟨rfl, rfl⟩

theorem sends_setWaiting (f : List Block → List Block) (m : Sys) : sends m (onFabric (fun x => { x with waiting := f x.waiting }) m) := ⟨rfl, rfl⟩

theorem sends_sendNow (b : Block) (m : Sys) : sends m (sendNow b m) := by
  unfold sendNow
  exact sends_trans (sends_makePlace _ m) (sends_trans (sends_setTx _ _ _) (sends_launch _ _))

theorem sends_sendWaiting (l : List Block) (vcs : List (BitVec 2)) (keys : List StreamKey) (m : Sys) :
    sends m (sendWaiting l vcs keys m).2 := by
  induction l generalizing vcs keys m with
  | nil => exact sends_refl m
  | cons b l ih =>
    simp only [sendWaiting]
    split
    · exact ih _ _ m
    · split
      · exact ih _ _ m
      · split
        · exact ih _ _ m
        · exact sends_trans (sends_sendNow b m) (ih _ _ _)

/-- Sending a block changes links only. -/
theorem sends_sendBlock (b : Block) (m : Sys) : sends m (sendBlock b m) := by
  unfold sendBlock drainBlocks
  exact sends_trans (sends_setWaiting (· ++ [b]) m) (sends_trans (sends_sendWaiting _ _ _ _) (sends_setWaiting (fun _ => _) _))

theorem sends_toHost (b : Block) (m : Sys) : sends m (toHost b m) := by
  unfold toHost
  split <;> exact ⟨rfl, rfl⟩

theorem sends_toRook (rook : Addr) (b : Block) (m : Sys) : sends m (toRook rook b m) := by
  unfold toRook
  split
  · exact sends_toHost b m
  · exact sends_sendBlock b m

/-! ### Ending a command (R106, R109) -/

theorem sameContents_completionEvent (m : Sys) : sameContents m (takeEvent 8 m) := sameContents_onHealth _ m

/-- Ending a command changes no contents. -/
theorem sameContents_complete (c : Cmd) (e : Ending) (m : Sys) : sameContents m (complete c e m) := by
  have h : sameContents m (takeEvent 8 (dropCmd c m)) := sameContents_trans (sameContents_dropCmd c m) (sameContents_completionEvent _)
  unfold complete
  dsimp only
  split
  · exact sameContents_dropCmd c m
  · split
    · exact sameContents_trans h (sameContents_trans (sameContents_onTask _ _) (sends_frame (sends_toHost _ _)).1)
    · exact sameContents_trans h (sameContents_trans (sameContents_onTask _ _) (sends_frame (sends_sendBlock _ _)).1)

theorem sameContents_endWith (c : Cmd) (st : Byte) (m : Sys) : sameContents m (endWith c st m) := sameContents_complete c _ m

/-- Sending data to the host buffer changes no contents. -/
theorem sameContents_sendData (c : Cmd) (bytes : List Byte) (m : Sys) : sameContents m (sendData c bytes m) := by
  unfold sendData
  exact sameContents_forEach _ (fun _ _ => (sends_frame (sends_toRook _ _ _)).1) _ m

theorem sameContents_deliver (c : Cmd) (bytes result : List Byte) (m : Sys) : sameContents m (deliver c bytes result m) :=
  sameContents_trans (sameContents_sendData c bytes m) (sameContents_complete c _ _)

/-- Running a command changes no contents when its own effect does not. -/
theorem sameContents_asCommand (c : Cmd) (f : Sys → Sys) (h : ∀ m, sameContents m (f m)) (m : Sys) : sameContents m (asCommand c f m) := by
  have hs : sameContents m (startCmd c m) := sameContents_startCmd c m
  unfold asCommand
  split
  · exact sameContents_refl m
  · split
    · split
      · exact sameContents_trans hs (h _)
      · exact sameContents_endWith c _ m
    · split
      · exact sameContents_refl m
      · split
        · exact sameContents_trans hs (sameContents_onPower _ _)
        · exact sameContents_trans hs (h _)

end Sys2Proof.Machine
end

