-- ==== Sys2Proof/Laws/Descriptors.lean ====
section
/-!
SUPPORT. What a descriptor row does when its descriptor is ready: the one lemma that later proofs cite instead of unfolding the frame
of R189.
-/
namespace Sys2Proof.Machine

/-- A ready descriptor of the row's operation is carried out. -/
theorem descRowWith_ready (op : Byte) (task : BitVec 16) (d : Desc) (g : Nat → Nat → Desc → Shape → Sys → Sys) (m : Sys) (i : Nat)
    (sh : Shape) (h : readyDesc m task d = some (i, sh)) (ho : d.op = op) : descRowWith op task d g m = g task.toNat i d sh m := by
  unfold readyDesc at h
  unfold descRowWith
  cases hl : live m with
  | false => rw [hl] at h; exact absurd h (by simp)
  | true =>
  rw [hl] at h
  simp only [Bool.not_true, Bool.false_eq_true, if_false] at h ⊢
  cases hj : m.jobs.job with
  | none => rw [hj] at h; exact absurd h (by simp)
  | some j =>
    rw [hj] at h
    simp only [Option.bind_some] at h
    cases h1 : issuedAs j task.toNat d with
    | none => rw [h1] at h; exact absurd h (by simp)
    | some k =>
      cases h2 : shapeNow j d with
      | none => rw [h1, h2] at h; exact absurd h (by simp)
      | some x =>
        rw [h1, h2] at h
        simp only at h
        cases h3 : mayRun j d <;> cases h4 : operandWaits m j d x <;> simp [h3, h4] at h
        obtain ⟨rfl, rfl⟩ := h
        simp [h1, h2, h3, h4, ho]

/-- A ready descriptor whose operation meets no failing word and no bad number has run. -/
theorem descRow_ready (op : Byte) (task : BitVec 16) (d : Desc) (f : Desc → Run → Run) (m : Sys) (i : Nat) (sh : Shape)
    (h : readyDesc m task d = some (i, sh)) (ho : d.op = op) (hf : (f d (runOf task.toNat (useVector task.toNat d m))).failed = false) :
    descRow op task d f m = markRan task.toNat i (f d (runOf task.toNat (useVector task.toNat d m))).sys := by
  unfold descRow
  rw [descRowWith_ready op task d _ m i sh h ho]
  unfold runDesc
  simp [hf, endRun]

end Sys2Proof.Machine
end

