-- ==== Sys2Proof/Laws/Tables.lean ====
section
/-!
SUPPORT. Sparse tables: what a table holds after a change of one key, and that the canonical form (keys strictly rising) is kept.
-/
namespace Sys2Proof.Machine

variable {α : Type}

/-! ### Reading after a change -/

@[simp] theorem tfind_tset_same (k : Nat) (v : α) (t : Tab α) : tfind k (tset k v t) = some v := by
  induction t with
  | nil => simp [tset, tfind]
  | cons e t ih =>
    obtain ⟨j, w⟩ := e
    simp only [tset]
    split
    · simp [tfind]
    · split
      · simp [tfind]
      · simp [tfind, *]

theorem tfind_tset_other (k j : Nat) (v : α) (t : Tab α) (h : j ≠ k) : tfind j (tset k v t) = tfind j t := by
  induction t with
  | nil => simp [tset, tfind, Ne.symm h]
  | cons e t ih =>
    obtain ⟨i, w⟩ := e
    simp only [tset]
    split
    · simp [tfind, Ne.symm h]
    · split
      · rename_i hk
        subst hk
        simp [tfind, Ne.symm h]
      · simp [tfind, ih]

@[simp] theorem tget_tset_same (d : α) (k : Nat) (v : α) (t : Tab α) : tget d k (tset k v t) = v := by simp [tget]

theorem tget_tset_other (d : α) (k j : Nat) (v : α) (t : Tab α) (h : j ≠ k) : tget d j (tset k v t) = tget d j t := by
  simp [tget, tfind_tset_other k j v t h]

@[simp] theorem tget_tupd_same (d : α) (k : Nat) (f : α → α) (t : Tab α) : tget d k (tupd d k f t) = f (tget d k t) := by simp [tupd]

theorem tget_tupd_other (d : α) (k j : Nat) (f : α → α) (t : Tab α) (h : j ≠ k) : tget d j (tupd d k f t) = tget d j t :=
  tget_tset_other d k j _ t h

/-- Every key of a table lies above `k`. -/
def keysAbove (k : Nat) (t : Tab α) : Prop := ∀ e ∈ t, k < e.1

theorem keysRise_cons (k : Nat) (v : α) (t : Tab α) : keysRise ((k, v) :: t) = true ↔ keysAbove k t ∧ keysRise t = true := by
  induction t generalizing k v with
  | nil => simp [keysRise, keysAbove]
  | cons e t ih =>
    obtain ⟨j, w⟩ := e
    simp only [keysRise, Bool.and_eq_true, decide_eq_true_eq]
    constructor
    · rintro ⟨h, hr⟩
      refine ⟨?_, hr⟩
      intro e he
      rcases List.mem_cons.mp he with rfl | he
      · exact h
      · exact Nat.lt_trans h (((ih j w).mp hr).1 e he)
    · rintro ⟨h, hr⟩
      exact ⟨h (j, w) (List.mem_cons_self ..), hr⟩

theorem tfind_above (k : Nat) (t : Tab α) (h : keysAbove k t) : tfind k t = none := by
  induction t with
  | nil => rfl
  | cons e t ih =>
    obtain ⟨j, w⟩ := e
    have hj : k < j := h (j, w) (List.mem_cons_self ..)
    rw [tfind, if_neg (by omega)]
    exact ih fun e he => h e (List.mem_cons_of_mem _ he)

theorem mem_tset (k : Nat) (v : α) (t : Tab α) (e : Nat × α) (h : e ∈ tset k v t) : e = (k, v) ∨ e ∈ t := by
  induction t with
  | nil => simpa [tset] using h
  | cons x t ih =>
    obtain ⟨j, w⟩ := x
    simp only [tset] at h
    split at h
    · simpa using h
    · split at h
      · simp only [List.mem_cons] at h ⊢
        rcases h with h | h
        · exact .inl h
        · exact .inr (.inr h)
      · simp only [List.mem_cons] at h ⊢
        rcases h with h | h
        · exact .inr (.inl h)
        · rcases ih h with h | h
          · exact .inl h
          · exact .inr (.inr h)

theorem mem_tdel (k : Nat) (t : Tab α) (e : Nat × α) (h : e ∈ tdel k t) : e ∈ t := by
  induction t with
  | nil => simp [tdel] at h
  | cons x t ih =>
    obtain ⟨j, w⟩ := x
    simp only [tdel] at h
    split at h
    · exact List.mem_cons_of_mem _ h
    · simp only [List.mem_cons] at h ⊢
      exact h.imp id ih

/-! ### The canonical form -/

theorem keysRise_tset (k : Nat) (v : α) (t : Tab α) (h : keysRise t = true) : keysRise (tset k v t) = true := by
  induction t with
  | nil => rfl
  | cons e t ih =>
    obtain ⟨j, w⟩ := e
    have hc := (keysRise_cons j w t).mp h
    simp only [tset]
    split
    · rename_i hk
      rw [keysRise_cons]
      refine ⟨?_, h⟩
      intro e he
      rcases List.mem_cons.mp he with rfl | he
      · exact hk
      · exact Nat.lt_trans hk (hc.1 e he)
    · split
      · rename_i hj
        subst hj
        rw [keysRise_cons]
        exact hc
      · rename_i hk hj
        rw [keysRise_cons]
        refine ⟨?_, ih hc.2⟩
        intro e he
        rcases mem_tset k v t e he with rfl | he
        · show j < k
          omega
        · exact hc.1 e he

theorem keysRise_tdel (k : Nat) (t : Tab α) (h : keysRise t = true) : keysRise (tdel k t) = true := by
  induction t with
  | nil => rfl
  | cons e t ih =>
    obtain ⟨j, w⟩ := e
    have hc := (keysRise_cons j w t).mp h
    simp only [tdel]
    split
    · exact hc.2
    · rw [keysRise_cons]
      exact ⟨fun e he => hc.1 e (mem_tdel k t e he), ih hc.2⟩

theorem keysRise_tupd (d : α) (k : Nat) (f : α → α) (t : Tab α) (h : keysRise t = true) : keysRise (tupd d k f t) = true :=
  keysRise_tset k _ t h

theorem tfind_tdel_same (k : Nat) (t : Tab α) (h : keysRise t = true) : tfind k (tdel k t) = none := by
  induction t with
  | nil => rfl
  | cons e t ih =>
    obtain ⟨j, w⟩ := e
    have hc := (keysRise_cons j w t).mp h
    simp only [tdel]
    split
    · rename_i hj
      subst hj
      exact tfind_above j t hc.1
    · rename_i hj
      rw [tfind, if_neg hj]
      exact ih hc.2

theorem tfind_tdel_other (k j : Nat) (t : Tab α) (h : j ≠ k) : tfind j (tdel k t) = tfind j t := by
  induction t with
  | nil => rfl
  | cons e t ih =>
    obtain ⟨i, w⟩ := e
    simp only [tdel]
    split
    · rename_i hi
      subst hi
      rw [tfind, if_neg (Ne.symm h)]
    · simp only [tfind, ih]

end Sys2Proof.Machine
end

