-- ==== Sys2Proof/Laws/Stores.lean ====
section
/-!
SUPPORT. Stores of tensor words: a read after a write, and that every operation keeps the canonical form (word numbers rise, no listed
word equals the fill).
-/
namespace Sys2Proof.Machine

@[simp] theorem Store.put_zeroed (s : Store) (n : Nat) (w : MemWord) : (s.put n w).zeroed = s.zeroed := rfl
@[simp] theorem fillWord_put (s : Store) (n : Nat) (w : MemWord) : fillWord (s.put n w) = fillWord s := rfl

/-- A store is in canonical form. -/
theorem Store.wf_iff (s : Store) : s.wf = true ↔ keysRise s.words = true ∧ ∀ e ∈ s.words, e.2 ≠ fillWord s := by
  simp [Store.wf]

/-- A word that has been written reads back (R380). -/
theorem Store.word_put_same (s : Store) (n : Nat) (w : MemWord) (h : s.wf = true) : (s.put n w).word n = w := by
  rw [Store.wf_iff] at h
  unfold Store.word
  rw [fillWord_put]
  unfold Store.put
  dsimp only
  split
  · rename_i hw
    simp [tget, tfind_tdel_same n s.words h.1, hw]
  · simp

/-- A write leaves every other word alone. -/
theorem Store.word_put_other (s : Store) (n k : Nat) (w : MemWord) (h : k ≠ n) : (s.put n w).word k = s.word k := by
  unfold Store.word
  rw [fillWord_put]
  unfold Store.put
  dsimp only
  split
  · simp [tget, tfind_tdel_other n k s.words h]
  · exact tget_tset_other _ n k _ _ h

/-- A write keeps the canonical form. -/
theorem Store.put_wf (s : Store) (n : Nat) (w : MemWord) (h : s.wf = true) : (s.put n w).wf = true := by
  rw [Store.wf_iff] at h ⊢
  rw [fillWord_put]
  unfold Store.put
  dsimp only
  split
  · exact ⟨keysRise_tdel n s.words h.1, fun e he => h.2 e (mem_tdel n s.words e he)⟩
  · rename_i hw
    refine ⟨keysRise_tset n w s.words h.1, fun e he => ?_⟩
    rcases mem_tset n w s.words e he with rfl | he
    · exact hw
    · exact h.2 e he

theorem freshStore_wf (zeroed : Bool) : (freshStore zeroed).wf = true := rfl

/-- A choice between two stores in canonical form. -/
theorem Store.wf_ite (c : Prop) [Decidable c] (s r : Store) (hs : s.wf = true) (hr : r.wf = true) : (if c then s else r).wf = true := by
  by_cases h : c
  · rw [if_pos h]; exact hs
  · rw [if_neg h]; exact hr

theorem readWord_wf (off len n : Nat) (a : Access1) (h : a.store.wf = true) : (readWord off len n a).store.wf = true := by
  unfold readWord
  have hs : (if treated (a.store.word n) = a.store.word n then a.store else a.store.put n (treated (a.store.word n))).wf = true :=
    Store.wf_ite _ _ _ h (Store.put_wf _ _ _ h)
  dsimp only
  generalize readClass (a.store.word n) = r
  generalize classify (a.store.word n) = c
  cases r <;> cases c <;> exact hs

theorem readWords_wf (off len n k : Nat) (a : Access1) (h : a.store.wf = true) : (readWords off len n k a).store.wf = true := by
  induction k generalizing n a with
  | zero => exact h
  | succ k ih => exact ih _ _ (readWord_wf _ _ _ _ h)

/-- A read keeps the canonical form. -/
theorem readStore_wf (s : Store) (off len : Nat) (h : s.wf = true) : (readStore s off len).store.wf = true :=
  readWords_wf _ _ _ _ _ h

theorem writeWord_wf (off : Nat) (data : List Byte) (n : Nat) (a : Access1) (h : a.store.wf = true) :
    (writeWord off data n a).store.wf = true := by
  unfold writeWord
  have hp : ∀ w, (a.store.put n w).wf = true := fun w => Store.put_wf _ _ _ h
  dsimp only
  by_cases hw : max off (8 * n) = 8 * n ∧ min (off + data.length) (8 * n + 8) = 8 * n + 8
  · rw [if_pos hw]
    exact hp _
  · rw [if_neg hw]
    generalize mergeWord (a.store.word n) _ = r
    generalize classify (a.store.word n) = c
    obtain ⟨w, u⟩ := r
    cases c <;> cases u <;> exact hp _

theorem writeWords_wf (off : Nat) (data : List Byte) (n k : Nat) (a : Access1) (h : a.store.wf = true) :
    (writeWords off data n k a).store.wf = true := by
  induction k generalizing n a with
  | zero => exact h
  | succ k ih => exact ih _ _ (writeWord_wf _ _ _ _ h)

/-- A write of bytes keeps the canonical form. -/
theorem writeStore_wf (s : Store) (off : Nat) (data : List Byte) (h : s.wf = true) : (writeStore s off data).store.wf = true :=
  writeWords_wf _ _ _ _ _ h

/-- The treatment of a line's other words keeps the canonical form. -/
theorem treatLines_wf (line off len : Nat) (a : Access1) (h : a.store.wf = true) : (treatLines line off len a).store.wf = true := by
  unfold treatLines
  split
  · exact h
  · dsimp only
    generalize (a.store.words.filter _) = l
    induction l generalizing a with
    | nil => exact h
    | cons e l ih =>
      rw [List.foldl_cons]
      apply ih
      have hp : ∀ w, (a.store.put e.1 w).wf = true := fun w => Store.put_wf _ _ _ h
      generalize classify e.2 = c
      cases c <;> first | exact hp _ | exact h

theorem storeOf_wf (bytes : List Byte) : (storeOf bytes).wf = true := writeStore_wf _ _ _ (freshStore_wf false)

theorem poisonWords_wf (n k : Nat) (s : Store) (h : s.wf = true) : (poisonWords n k s).wf = true := by
  induction k generalizing n s with
  | zero => exact h
  | succ k ih => exact ih _ _ (Store.put_wf _ _ _ h)

/-- The words that a motion copies keep the destination's canonical form. -/
theorem copyWords_wf (src : Store) (n k : Nat) (s : Store) (h : s.wf = true) : (copyWords src n k s).wf = true := by
  induction k generalizing n s with
  | zero => exact h
  | succ k ih => exact ih _ _ (Store.put_wf _ _ _ h)

end Sys2Proof.Machine
end

