-- ==== Sys2Proof/Tests/Slice0.lean ====
section
/-!
SUPPORT. Small tests: ill-formed inputs that WellFormed refuses, values taken from the manual, and for each statement with hypotheses
a state and operands that meet them together.
-/
namespace Sys2Proof.Tests
open Sys2Proof.Machine
set_option Elab.async false

/-! ### States and operands to test on -/

/-- A module that serves commands, as the rook at fabric address 0. -/
def serving : Sys := onBoot (fun b => { b with stage := stageServing }) Sys.reset

/-- The module with the queue empty. -/
def at_ (m : Sys) : State := { pending := [], sys := m }

/-- A command of endpoint 0, register 0, for the module at address 0. -/
def cmd (op : Byte) (tensor : Word) (length : BitVec 32) (param : List Byte) : Cmd :=
  { rook := 0, ep := 0, reg := 0, epoch := 0, opcode := op, fence := false, tag := 7, exec := 0, tensor, hostAddr := 0x1000, length,
    param := fitBytes 92 param }

/-- The serving module with a command held in endpoint 0, register 0. -/
def holding (c : Cmd) (m : Sys) : Sys :=
  onEp 0 (fun e => { e with held := [(0, { block := [], cmd := c, order := 0, turn := 0, phase := .running })] }) m

/-- A movable tensor of `size` bytes with its home in T1, all its bytes zero. -/
def movable (size : Nat) : Tensor :=
  { isSealed := false, state := .live, size, appended := 0, place := .t1 0, store := freshStore true, copy1 := none, copy0 := none,
    pins := 0, ns := 0, touched := 0, damaged := [], motion := none, chunks := [], created := 0, lostCores := [] }

/-- The module with tensor `n` in use. -/
def having (n : Nat) (t : Tensor) (m : Sys) : Sys := setTensor n t m

/-- A plan with nothing in it; `serving` says of which kind. -/
def plan0 (serves : Bool) : Plan :=
  { numRev := 1, service := 1, serving := serves, rowIndep := false, tasksPerCore := 1, scratch := 4096, stepTasks := 1, histRows := 0,
    maxCtx := 4, prefillRows := 4, maxPos := 64, maxRows := 4, slots := [], tasks := [⟨0, 1, 0, 0⟩], access := [], descs := [],
    prefetch := [], colls := [], params := [] }

/-- A running job number 3 of a plan. -/
def job0 (p : Plan) : Job :=
  { no := 3, cmd := cmd 0x10 0 0 [], plan := p, binds := [], seed := 0, startStep := 0, steps := 1, budget := 0, pfDist := 0, step := 0,
    stepsDone := 0, pips := 40, stall := 0, retries := 0, conds := 0, errAddr := 0, malformed := false, busyRead := false, faultTask := 0xFFFFFFFF, tasks := [],
    expiry := none, stopping := none, enders := [], hist := [], pins := [], pfPins := [], waiting := [], ctxs := [], lastRow := 0, rows := [],
    inStep := true, colls := [], paused := false, admitting := false, service := 1 }

/-- The module with a job that holds the complex. -/
def running (j : Job) (m : Sys) : Sys := onJobs (fun x => { x with job := some j }) m

/-- A context of a serving job. -/
def ctx0 (c : Cmd) : Ctx :=
  { cmd := c, prompt := [1], maxNew := 4, stop := 0, emitted := [], pos := 0, ending := none, search := false, turn := 0, conds := 0,
    closers := [], core := none, replaced := 0 }

/-- An index with nothing in it but a root. -/
def index0 : Index :=
  { root := 10, parts := [], version := 0, segments := [], nextOrd := 1, merge := none, objects := [], old := [] }

/-- A module with index 2 and a search serving job, its flash writable. -/
def indexed : Sys :=
  onSearch (fun x => { x with registry := [(2, index0)], prior := [(2, index0)] })
    (onFlash (fun x => { x with roCause := 0 }) (running (job0 (plan0 true)) serving))

/-- The serving rook of address 0 with an active host on port 0, and credit for endpoint 0. -/
def rook0 : Sys :=
  onEp 0 (fun e => { e with credit := 256 })
    (onPort 0 (fun x => { x with host := true, hostActive := true, endpoints := 1 }) (onFabric (fun x => { x with rook := true }) serving))

/-- The bytes of a NOP command block for endpoint 0, with its CCRC. -/
def nopBlock : List Byte := withCrc (zeros 124)

/-- A block between modules of the group. -/
def blk (kind : Byte) (body : List Byte) : Block := { newBlock 1 0 kind with body }

theorem witness_TaskFlowCommandsTakeEffect :
    let c := cmd 0x01 (tensorAddr 5 8) 16 []
    let s := at_ (having 5 (movable 64) (holding c serving))
    let w (a : Nat) := cmd 0x08 0 0 (leBytes 4 a)
    let a := cmd 0x0A 0 0 (leBytes 4 9)
    let h : Held := { block := [], cmd := a, order := 3, turn := 0, phase := .running }
    let x : Held := { block := [], cmd := { c with reg := 1, tag := 9 }, order := 1, turn := 0, phase := .waiting }
    let s2 := at_ (onEp 0 (fun e => { e with held := [(0, h)] }) serving)
    let s3 := at_ (onEp 0 (fun e => { e with held := [(0, h), (1, x)] }) serving)
    serves s.sys = true ∧ userNumber (tnumOf c.tensor) = true ∧ tensorOf s.sys (tnumOf c.tensor) = some (movable 64) ∧
      offsetOf c.tensor + c.length.toNat ≤ 64 ∧ (movable 64).state = .live ∧ c.length ≠ 0 ∧ (movable 64).isSealed = false ∧
      unitsBusy c (tnumOf c.tensor) (offsetOf c.tensor) c.length.toNat (startCmd c s.sys) = false ∧
      stackWaits s.sys (movable 64) (offsetOf c.tensor) c.length.toNat = false ∧ readRaces s.sys (tnumOf c.tensor) = false ∧
      (s.sys.task.fetches.all fun f => !sameCmd f.cmd c) = true ∧
      s.sys.power.inTransition = false ∧ s.sys.power.current = 1 ∧ s.sys.fabric.rook = false ∧ s.sys.fabric.lent = [] ∧
      BitVec.ofNat 2 (par (w 1) 32 1) = 1 ∧ BitVec.ofNat 2 (par (w 2) 32 1) = 2 ∧ BitVec.ofNat 2 (par (w 3) 32 1) = 3 ∧
      t0Leaves (startCmd (w 2) s.sys) = true ∧
      a.rook = ownAddr s3.sys ∧ tfind a.reg.toNat (epOf s3.sys a.ep.toNat).held = some h ∧ serves s3.sys = true ∧ serves s2.sys = true ∧
      abortTarget (epOf s3.sys a.ep.toNat) (BitVec.ofNat 16 (par a 32 2)) h.order = some x ∧ x.phase = .waiting ∧ x.cmd.opcode ≠ 0x0A ∧
      tfind a.reg.toNat (epOf s2.sys a.ep.toNat).held = some h ∧
      abortTarget (epOf s2.sys a.ep.toNat) (BitVec.ofNat 16 (par a 32 2)) h.order = none := by decide

theorem witness_TaskFlowCommandsTakeEffect_relayed :
    let d := { cmd 0x01 (tensorAddr 5 8) 16 [] with rook := 1, tag := 9 }
    let a := { cmd 0x0A 0 0 (leBytes 4 9) with rook := 1, reg := 1 }
    let s := at_ (onTask (fun t => { t with relayed := [d, a] }) serving)
    serves s.sys = true ∧ a.rook ≠ ownAddr s.sys ∧
      ((s.sys.task.relayed.takeWhile fun d => !sameCmd d a).find? fun d => d.rook == a.rook && d.ep == a.ep &&
        d.tag == BitVec.ofNat 16 (par a 32 2)) = some d ∧ d.opcode ≠ 0x0A ∧
      (startCmd a s.sys).task.running.any (sameCmd d) = false := by decide

theorem witness_JobCommandsTakeEffect :
    let sub := cmd 0x10 0 0 (leBytes 8 (5 * 2 ^ 40) ++ leBytes 8 (6 * 2 ^ 40) ++ leBytes 8 1 ++ leBytes 4 0 ++ leBytes 4 1)
    let m := startCmd sub (having 6 (movable 64) (having 5 (movable 64) serving))
    let j := { job0 (plan0 true) with ctxs := [(2, ctx0 (cmd 0x18 0 0 []))] }
    let s := having 5 (movable 64) (running j serving)
    let q := cmd 0x12 0 0 (leBytes 4 3)
    let o := { cmd 0x18 (tensorAddr 5 0) 16 ([1, 0, 0, 0] ++ leBytes 4 2 ++ leBytes 4 4) with reg := 4 }
    let cl := { cmd 0x19 0 0 (leBytes 2 2) with reg := 9 }
    let len := par o 36 4
    let new := par o 40 4
    (m.jobs.queue.all (fun w => !sameCmd w.cmd sub) = true ∧ m.jobs.job = none ∧ serves m = true ∧
      wholeTensor m (par sub 32 8) = true ∧ wholeTensor m (par sub 40 8) = true ∧ subStart sub + subSteps sub ≤ 2 ^ 32 ∧
      serviceOff m (peekService (subPlan sub) m).toNat = false ∧ m.jobs.queue.length < 64 ∧ m.power.entry = none ∧
      m.health.selftest = none) ∧
    (serves s = true ∧ s.jobs.job = some j ∧ BitVec.ofNat 32 (par q 32 4) = j.no ∧ j.admitting = false ∧ j.enders.any (sameCmd q) = false ∧
      j.stopping.isSome = false) ∧
    (j.plan.serving = true ∧ j.stopping = none ∧ j.service.toNat = par o 32 1 ∧ serviceOff s (par o 32 1) = false ∧
      (j.waiting.any fun x => sameCmd x.cmd o) = false ∧ (j.ctxs.any fun e => sameCmd e.2.cmd o) = false ∧
      1 ≤ len ∧ 1 ≤ new ∧ len + new ≤ j.plan.maxPos ∧ 4 * new ≤ o.length.toNat ∧
      userNumber (tnumOf o.tensor) = true ∧ tensorOf (startCmd o s) (tnumOf o.tensor) = some (movable 64) ∧ offsetOf o.tensor + 4 * len ≤ 64 ∧
      unitsBusy o (tnumOf o.tensor) (offsetOf o.tensor) (4 * len) (startCmd o s) = false ∧
      stackWaits (startCmd o s) (movable 64) (offsetOf o.tensor) (4 * len) = false) ∧
    ((j.ctxs.any fun e => e.2.closers.any (sameCmd cl)) = false ∧ tfind (par cl 32 2) j.ctxs = some (ctx0 (cmd 0x18 0 0 [])) ∧
      (ctx0 (cmd 0x18 0 0 [])).search = false) := by decide

theorem witness_JobCommandsTakeEffect_ended :
    let c := cmd 0x11 0 0 (leBytes 4 2)
    let s := onJobs (fun x => { x with nextNo := 5 }) (running (job0 (plan0 true)) serving)
    serves s = true ∧ (s.jobs.job.all fun j => BitVec.ofNat 32 (par c 32 4) != 0 && j.no != BitVec.ofNat 32 (par c 32 4)) = true ∧
      (s.jobs.queue.any fun w => w.no == BitVec.ofNat 32 (par c 32 4)) = false ∧ wasGiven s (BitVec.ofNat 32 (par c 32 4)) = true := by decide

theorem witness_JobCommandsTakeEffect_prompt :
    (readEnding 5 (readTensor 5 0 8 (having 5 (movable 64) serving)).1).status = stDone := by decide

theorem witness_IndexCommandsTakeEffect :
    let root : Tensor := { movable 4096 with isSealed := true, place := .flash }
    let p (r n : Nat) := leBytes 2 2 ++ leBytes 2 0 ++ leBytes 4 n ++ leBytes 4 r
    let cr := cmd 0x20 (tensorAddr 10 0) 0 (leBytes 2 3)
    let m0 := having 20 (movable 16) (having 10 root indexed)
    let m := startCmd cr m0
    let dr := cmd 0x21 0 0 (leBytes 2 2)
    let md := startCmd dr m0
    let se := { cmd 0x24 0 0 (leBytes 2 2) with reg := 8 }
    let walking := onSearch (fun x => { x with snaps := [(se, index0, [])] })
      (onJob (fun j => { j with ctxs := [(0, { ctx0 se with search := true, core := some 3 })] }) indexed)
    let de := cmd 0x26 (tensorAddr 20 0) 0 (p 2 30)
    let mi := startCmd de m0
    (serves m0 = true ∧ askUnderWay (.cmd cr) m = false ∧ serviceOff m 1 = false ∧ 1 ≤ par cr 32 2 ∧ par cr 32 2 ≤ 1023 ∧
      indexOf m cr = none ∧ tfind (par cr 32 2) m.search.registry = none ∧ namedTensor cr.tensor = some 10 ∧ tensorOf m 10 = some root) ∧
    (askUnderWay (.cmd dr) md = false ∧ serviceOff md 1 = false ∧ indexOf md dr = some index0 ∧ indexActive md dr = false) ∧
    (serves walking = true ∧ (walking.search.shards.any fun x => sameCmd x.cmd se && x.walked) = false ∧
      snapOf walking se = some (index0, []) ∧ walks walking se = true ∧
      indexWriteUnderWay se (startCmd se walking) = false ∧ snapOf (startCmd se walking) se = some (index0, []) ∧
      walks (startCmd se walking) se = true) ∧
    (indexWriteUnderWay de mi = false ∧ indexOf mi de = some index0 ∧ snapOf mi de = none ∧ serviceOff mi 1 = false ∧
      readOnly mi = false ∧ searchJob mi ≠ none ∧ freeNumberGood mi (par de 36 4) = true ∧
      1 ≤ par de 40 4 ∧ par de 40 4 ≤ 16777216 ∧ heldBack (.cmd de) (par de 36 4) mi = false ∧ tensorBusy de (tnumOf de.tensor) mi = false) ∧
    (namedBatch mi de (8 * par de 40 4) = some 20 ∧ tensorBusy de 20 mi = false ∧
      (addrRead (20 * 2 ^ 40) (8 * par de 40 4) (runOf 0 mi)).2.failed = false) := by decide +kernel

theorem witness_IndexCommandsTakeEffect_dispatch :
    let p := leBytes 2 2 ++ leBytes 2 64 ++ leBytes 4 31 ++ leBytes 4 1
    let q := cmd 0x24 (tensorAddr 20 0) 48 p
    let c := cmd 0x25 (tensorAddr 20 0) 0 p
    let g := cmd 0x27 0 0 p
    let m0 := having 20 (movable 40) indexed
    let m := startCmd c m0
    let n := startCmd g m0
    let o := startCmd q m0
    serves m0 = true ∧ snapOf o q = none ∧ indexOf o q = some index0 ∧ serviceOff o 1 = false ∧ leaderOf o q = none ∧ searchJob o ≠ none ∧
      indexWriteUnderWay c m = false ∧ snapOf m c = none ∧ indexOf m c = some index0 ∧ serviceOff m 1 = false ∧
      freeNumberGood m (par c 36 4) = true ∧ searchJob m ≠ none ∧ 1 ≤ par c 40 4 ∧ par c 40 4 ≤ 16777216 ∧
      namedTensor c.tensor = some 20 ∧ tensorBusy c (tnumOf c.tensor) m = false ∧ heldBack (.cmd c) (par c 36 4) m = false ∧
      indexWriteUnderWay g n = false ∧ snapOf n g = none ∧ indexOf n g = some index0 ∧ serviceOff n 1 = false ∧
      freeNumberGood n (par g 36 4) = true ∧ searchJob n ≠ none ∧ mergeRuns n g = false := by decide +kernel

theorem witness_TensorCommandsTakeEffect :
    let p (size cls tier flags : Nat) := leBytes 8 size ++ [BitVec.ofNat 8 cls, BitVec.ofNat 8 tier, BitVec.ofNat 8 flags, 0]
    let cr := cmd 0x30 (tensorAddr 7 0) 0 (p 4096 0 1 2)
    let ready := onRange (fun r => { r with t1Ready := true }) (onFlash (fun x => { x with roCause := 0, spaces := [(0, [])] }) serving)
    let m := startCmd cr ready
    let cs := cmd 0x30 (tensorAddr 7 0) 0 (p 4096 1 0xF 0)
    let w := newWait (.cmd cr) 7 (.create 4096 1 false true noCores) m
    let f := findPlace w.1.need 1 noCores 4096 w.2
    (serves m = true ∧ namedTensor cr.tensor = some 7 ∧ askUnderWay (.cmd cr) m = false ∧ isFree m 7 = true ∧ prm cr.param 32 8 = 4096 ∧
      prm cr.param 40 1 = 0 ∧ heldBack (.cmd cr) 7 m = false ∧ tierOf cr.param = 1 ∧ flagOf cr.param 0 = false ∧ flagOf cr.param 1 = true ∧
      f.1 ≠ .wait ∧ f.1 ≠ .full ∧ pinAllowed f.2 4096 = true) ∧
    (prm cs.param 40 1 = 1 ∧ tierOf cs.param = 0xF ∧ flagOf cs.param 0 = false ∧ flagOf cs.param 1 = false ∧
      nsExists m (nsOf cs.param) = true ∧ readOnly m = false) := by decide

theorem witness_TensorCommandsTakeEffect_present :
    let p (size cls tier flags : Nat) := leBytes 8 size ++ [BitVec.ofNat 8 cls, BitVec.ofNat 8 tier, BitVec.ofNat 8 flags, 0]
    let ready := onRange (fun r => { r with t1Ready := true }) (onFlash (fun x => { x with roCause := 0, spaces := [(0, [])] }) serving)
    let moved := { movable 64 with place := .tn 1 0 }
    let sealed := { movable 64 with isSealed := true, place := .flash, copy1 := some (0, freshStore true) }
    let pinned := { movable 64 with pins := 1 }
    let mv := cmd 0x32 (tensorAddr 7 0) 0 (p 0 0 1 0)
    let has (t : Tensor) := startCmd mv (having 7 t ready)
    let w (t : Tensor) := newWait (.cmd mv) 7 (.move 1 false noCores) (has t)
    let f := findPlace (w moved).1.need 1 noCores 64 (w moved).2
    (serves (has (movable 64)) = true ∧ askUnderWay (.cmd mv) (has (movable 64)) = false ∧ tensorOf (has (movable 64)) 7 = some (movable 64) ∧
      (movable 64).pins = 0 ∧ namedByJob (has (movable 64)) 7 = false ∧ inIndex (has (movable 64)) 7 = false ∧
      heldForMerge (has (movable 64)) 7 = false ∧ tensorBusy mv 7 (has (movable 64)) = false ∧ startupOrHoldup (has sealed) = false ∧
      tierOf mv.param = 1 ∧ (movable 64).motion = none ∧ (movable 64).state = .live ∧ underSeal (has (movable 64)) 7 = false ∧
      inPlace (movable 64) 1 noCores = true ∧ flagOf mv.param 0 = false ∧ inPlace moved 1 noCores = false ∧
      tensorOf (has moved) 7 = some moved ∧ underSeal (has moved) 7 = false ∧ f.1 ≠ .wait ∧ f.1 ≠ .full) ∧
    (tensorOf (has sealed) 7 = some sealed ∧ sealed.isSealed = true ∧ sealed.motion = none ∧
      pinAllowed (has sealed) (pinExtra sealed) = true ∧ pinned.pins ≠ 0 ∧ tensorOf (has pinned) 7 = some pinned) := by decide

theorem witness_SealAndNamespaceCommandsTakeEffect :
    let c := cmd 0x37 (tensorAddr 7 0) 0 (leBytes 8 (8 * 2 ^ 40) ++ zeros 4 ++ leBytes 2 1)
    let q := cmd 0x51 0 0 (leBytes 2 1)
    let n := cmd 0x50 0 0 (leBytes 2 2)
    let target := { movable 64 with isSealed := true, state := .building, place := .none, appended := 16 }
    let ready := onFlash (fun x => { x with roCause := 0, spaces := [(1, [])] }) serving
    let m := startCmd c (having 8 (movable 32) (having 7 target ready))
    let z := cmd 0x36 (tensorAddr 8 0) 0 (zeros 12 ++ leBytes 2 1)
    let mz := startCmd z (having 8 (movable 32) ready)
    serves mz = true ∧ askUnderWay (.cmd z) mz = false ∧ namedTensor z.tensor = some 8 ∧ tensorOf mz 8 = some (movable 32) ∧
      tensorBusy z 8 mz = false ∧ nsExists mz (nsOf z.param) = true ∧ readOnly mz = false ∧ (movable 32).motion = none ∧
    serves m = true ∧ askUnderWay (.cmd c) m = false ∧ namedTensor c.tensor = some 7 ∧ tensorOf m 7 = some target ∧ tensorBusy c 7 m = false ∧
      namedTensor (BitVec.ofNat 64 (prm c.param 32 8)) = some 8 ∧ tensorOf m 8 = some (movable 32) ∧ tensorBusy c 8 m = false ∧
      target.state = .building ∧ (movable 32).isSealed = false ∧ (movable 32).state = .live ∧ target.appended + (movable 32).size ≤ target.size ∧
      target.appended ≠ 0 ∧ readOnly m = false ∧ nsExists m (nsOf c.param) = true ∧
      par n 32 2 = 2 ∧ tfind (par n 32 2) m.flash.spaces = none ∧ par q 32 2 = 1 ∧ nsExists m (par q 32 2) = true ∧ startupOrHoldup m = false ∧
      (m.flash.keyDrops.any fun e => sameCmd e.2.2 q) = false ∧ (m.flash.seals.any fun x => x.ns.toNat == 1) = false ∧ nsTensors m 1 = [] := by
  decide

theorem witness_FirmwareCommandsTakeEffect :
    let c := cmd 0x61 0 4096 (leBytes 4 8192)
    let m := startCmd c serving
    let v := startCmd c (onBoot (fun b => { b with staging := 2 }) serving)
    serves serving = true ∧ par c 32 4 % 4096 = 0 ∧ c.length.toNat % 4096 = 0 ∧ c.length.toNat ≤ 16777216 ∧
      par c 32 4 + c.length.toNat ≤ 268435456 ∧ m.boot.staging = 0 ∧ (m.task.fetches.any fun f => sameCmd f.cmd c) = false ∧ c.length ≠ 0 ∧
      stagingFills m = false ∧ m.boot.fetch = none ∧ serves v = true ∧ v.boot.commit = none ∧ v.boot.staging = 2 ∧ v.jobs.job = none ∧
      v.jobs.queue = [] ∧ othersHeld c v = false ∧ v.fabric.lent = [] := by decide

theorem witness_IdentityAndSettingsCommands :
    let c := cmd 0x6C 0 512 [1]
    let w := cmd 0x6D 0 0 [0, 0, 95, 0, 0, 3]
    serves serving = true ∧ 512 ≤ c.length.toNat ∧ par c 32 4 + c.length.toNat ≤ 131072 ∧ par w 32 1 = 0 ∧ par c 32 1 = 1 ∧
      settingsGood (parBytes w 32 16) = true ∧ (startCmd w serving).boot.cfgWrites = [] := by decide

theorem witness_HealthCommands :
    let c := cmd 0x70 0 512 []
    let m := startCmd c (onFlash (fun x => { x with roCause := 0 }) serving)
    serves m = true ∧ 512 ≤ c.length.toNat ∧ c.length.toNat % 256 = 0 ∧ c.length.toNat ≤ 16777216 ∧ m.health.pageWaits = [] ∧
      startupOrHoldup m = false ∧ m.health.selftest = none ∧ m.jobs.job = none ∧ m.jobs.queue = [] ∧ m.power.current = 1 := by decide

set_option maxRecDepth 20000 in
theorem witness_CommandsArriveAndAreDispatched :
    let b := { newBlock 0 0 kTaskWrite with host := true, target := 0x100080, body := zeros 128 }
    let m := takeEvent 7 (consumed b rook0)
    live rook0 = true ∧ activeHost m = some 0 ∧ rookServes m = true ∧ b.host = true ∧ b.dst = ownAddr m ∧ b.bcast = 0 ∧
      0 < (portOf m 0).endpoints.toNat ∧ b.body.length = 128 ∧ (epOf m 0).credit ≠ 0 ∧ (epOf m 0).resetBusy = false ∧
      taskRegister b.ep b.target = some 1 ∧ tfind 1 (epOf m 0).held = none := by decide

/-- A HELD NOP in endpoint 0, register 0. -/
def heldNop (p : Phase) : Held := { block := nopBlock, cmd := readCommand 0 0 0 0 nopBlock, order := 0, turn := 0, phase := p }

set_option maxRecDepth 20000 in
theorem witness_CommandsArriveAndAreDispatched_dispatch :
    let m := onEp 0 (fun e => { e with held := [(0, heldNop .waiting)] }) rook0
    let n := onEp 0 (fun e => { e with held := [(0, heldNop .recordSent)] }) rook0
    rookServes m = true ∧ (nextCommand m).map (·.1) = some 0 ∧ (nextCommand m).map (·.2.order) = some 0 ∧
      (heldNop .waiting).cmd.opcode ≠ 0x0A ∧ routeGood (heldNop .waiting).cmd (onTask (fun t => { t with lastEp := 0 }) m) = true ∧
      (let a : Held := { heldNop .waiting with cmd := { (heldNop .waiting).cmd with opcode := 0x0A } }
       let k := onEp 0 (fun e => { e with held := [(0, a)] }) rook0
       (nextCommand k).map (·.2.cmd.opcode) = some 0x0A ∧ routeGood a.cmd k = true ∧ routeGood { a.cmd with exec := 9 } k = false) ∧
      (heldOf n 0 0).map (·.phase) = some .recordSent ∧ recordWaits 0 0 n = false := by decide +kernel

/-- A completion record of endpoint 0, register 0, epoch 0. -/
def record0 : List Byte := zeros 64

theorem witness_RecordsAndRelayAnswers :
    let m := onTask (fun t => { t with resends := [⟨1, 0, 0, record0⟩] })
      (onEp 0 (fun e => { e with held := [(0, heldNop .running), (1, heldNop (.relayed 1))] }) rook0)
    let b := blk kCompletion record0
    let a := { blk kTensorWriteAck [0, 0, 0, 0] with src := 1, tag := 0x10001 }
    live m = true ∧ (heldOf (takeEvent 8 (consumed b m)) (recordEp b.body).toNat (recordReg b.body).toNat).map (·.phase) = some .running ∧
      (heldNop .running).cmd.epoch = recordEpoch b.body ∧ (epOf m 0).epoch = recordEpoch b.body ∧
      (m.task.resends.find? fun x => x.rook == 1 && x.ep == 0 && x.reg == 0).isSome = true ∧
      (shardAwaiting m 0 b.src).isNone = true ∧ (shardAwaiting m (a.tag.toNat - 0x10000) a.src).isNone = true ∧ a.tag.toNat = 0x10000 + 256 * 0 + 1 ∧
      (heldOf m 0 1).map (·.phase) = some (.relayed a.src) := by decide +kernel

theorem witness_ResetsOfCommandQueues :
    live rook0 = true ∧ rook0.fabric.rook = true ∧ (epOf rook0 0).resetBusy = false := by decide

theorem witness_RegisterAccesses :
    let b := { blk kRegWrite (leBytes 8 40) with target := 0x1000 }
    let w := { b with target := 0x30000030 }
    let h := { b with target := 0xFF8 }
    let mis := { b with target := 0x1004 }
    let r := { b with tag := 0x20000 }
    regsOpen rook0 = true ∧ live rook0 = true ∧ rook0.fabric.rook = true ∧ b.bcast = 0 ∧ b.target.toNat % 8 = 0 ∧
      windowAt b.target.toNat = none ∧ (readReg b.target.toNat (consumed b rook0)).isSome = true ∧
      ¬(0x100000 ≤ b.target.toNat ∧ b.target.toNat < 0x200000 ∧ b.target.toNat % 0x10000 = 0x8040) ∧ mis.target.toNat % 8 ≠ 0 ∧
      h.target.toNat % 8 = 0 ∧ windowAt h.target.toNat = none ∧ readReg h.target.toNat (consumed h rook0) = none ∧
      w.target.toNat % 8 = 0 ∧ windowAt w.target.toNat = some ({ number := 0, first := 0, cores := 16 }, false, 0x30) ∧
      (readCore 0 0x30 (consumed w rook0)).isSome = true ∧ r.host = false ∧ r.tag = BitVec.ofNat 32 (0x20000 + 0) ∧
      { r with host := true }.host = true := by decide +kernel

theorem witness_ControlRegisterWrites :
    let m := onJobs (fun x => { x with rollDue := true }) (onFlash (fun x => { x with mapState := 2 }) serving)
    live m = true ∧ m.flash.mapState = 2 ∧ m.jobs.rollDue = true := by decide

theorem witness_CounterClears : live serving = true := by decide

/-- The module with its power state changed. -/
def powered (f : Power → Power) : Sys := onPower f serving

theorem witness_ManagementAndInputRows :
    (powered fun p => { p with epoArmed := true }).power.epoArmed = true ∧ live (powered fun p => { p with epoArmed := true }) = true ∧
      (powered fun p => { p with epoArmed := true, run := .holdFlush }).power.epoArmed = true ∧
      live (powered fun p => { p with epoArmed := true, run := .holdFlush }) = false ∧
      inHoldup (powered fun p => { p with epoArmed := true, run := .holdFlush }) = true ∧
      (powered fun p => { p with epoArmed := true, run := .off }).power.epoArmed = true ∧
      live (powered fun p => { p with epoArmed := true, run := .off }) = false ∧
      inHoldup (powered fun p => { p with epoArmed := true, run := .off }) = false ∧
      (let m := powered fun p => { p with epoLatch := true, path := .opened, run := .off };
        m.power.path = .opened ∧ m.power.epoLatch = true ∧ m.power.run = .off) ∧
      (let m := powered fun p => { p with path := .closed, run := .offline }; m.power.path = .closed ∧ m.power.run = .offline) ∧
      (powered fun p => { p with epoArmed := false }).power.epoArmed = false ∧
      (powered fun p => { p with path := .precharging }).power.path = .precharging ∧
      (let m := powered fun p => { p with run := .off, path := .closed, epoLatch := false };
        m.power.run = .off ∧ m.power.path = .closed ∧ m.power.epoLatch = false) ∧
      (let m := powered fun p => { p with run := .offline, path := .opened, epoLatch := false, lowForSecond := true };
        m.power.run = .offline ∧ m.power.path = .opened ∧ m.power.epoLatch = false ∧ m.power.lowForSecond = true) ∧
      (powered fun p => { p with run := .waitInput }).power.run = .waitInput := by decide

theorem witness_HoldUpSequence :
    live serving = true ∧ (powered fun p => { p with run := .holdPrograms }).power.run = .holdPrograms ∧
      live (powered fun p => { p with run := .holdPrograms }) = false ∧ inHoldup (powered fun p => { p with run := .holdPrograms }) = true ∧
      live (powered fun p => { p with run := .off }) = false ∧ inHoldup (powered fun p => { p with run := .off }) = false ∧
      (powered fun p => { p with run := .holdPrograms }).flash.programs = [] ∧
      (powered fun p => { p with run := .holdFlush }).power.run = .holdFlush ∧
      (powered fun p => { p with run := .holdFlush }).integrity.stackTab.all (·.2.state != 3) = true ∧
      (powered fun p => { p with run := .holdLedger }).power.run = .holdLedger ∧
      inHoldup (powered fun p => { p with run := .holdFlush }) = true ∧
      ((PfSource.inputHigh = .inputLow → (90000 : Nat) < 45000) ∧ (PfSource.inputHigh = .inputHigh → 62000 < (90000 : Nat))) ∧
      ¬ ((PfSource.inputLow = .inputLow → (45000 : Nat) < 45000) ∧ (PfSource.inputLow = .inputHigh → 62000 < (45000 : Nat))) := by decide

theorem witness_StoreAndCapRows :
    live serving = true ∧ serving.power.charged = false ∧ serving.power.storeState ≠ 4 ∧
      (powered fun p => { p with charged := true, storeState := 4 }).power.storeState = 4 ∧
      live (powered fun p => { p with charged := true, storeState := 4 }) = true ∧
      (powered fun p => { p with charged := true }).power.charged = true ∧
      (powered fun p => { p with charged := true }).power.storeState ≠ 4 ∧ serving.boot.stage ≠ 0 := by decide

theorem witness_ThermalRows :
    live serving = true ∧ (500 : Int) < tenths (thresholds 3).2.2 ∧ tenths (thresholds 3).2.2 ≤ (900 : Int) ∧
      sensorTemp 3 0 (powered fun p => { p with temps := [(768, 900)] }) = some 900 ∧
      live (powered fun p => { p with temps := [(768, 900)] }) = true ∧
      critAct 5 (powered fun p => { p with critActs := 0x20 }) = true ∧
      classAt 5 (thresholds 5).2.1 (powered fun p => { p with critActs := 0x20 }) = false ∧
      (takeEvent 10 (powered fun p => { p with opticsOff := 1 })).power.opticsOff.getLsbD 0 = true ∧
      sensorTemp 4 0 (takeEvent 10 (powered fun p => { p with opticsOff := 1 })) = none := by decide

theorem witness_PowerStateRows :
    let e : Entry := { target := 2, cmd := cmd 0x08 0 0 [2], step := .waitJobs, waitSeq := 0 }
    let m := powered fun p => { p with exiting := true, entry := some e, p3Pending := true }
    live m = true ∧ m.power.exiting = true ∧ m.power.entry = some e ∧ e.step ≠ .complete ∧ m.power.p3Pending = true := by decide

/-- The module in a stage of its start. -/
def starting (stage : BitVec 4) : Sys := onBoot (fun b => { b with stage }) Sys.reset

theorem witness_StartStages :
    live (starting 0) = true ∧ (starting 0).boot.stage = 0 ∧ live (starting 1) = true ∧ (starting 1).boot.stage = 1 ∧
      live (starting 2) = true ∧ (starting 2).boot.stage = 2 ∧ live (starting 3) = true ∧ (starting 3).boot.stage = 3 ∧
      live (starting 4) = true ∧ (starting 4).boot.stage = 4 ∧ (starting 4).boot.flashDone = false ∧ (starting 4).boot.computeDone = false ∧
      (starting 4).power.coresHeld = false ∧
      (onBoot (fun b => { b with flashDone := true, computeDone := true }) (starting 4)).boot.flashDone = true ∧
      (onBoot (fun b => { b with flashDone := true, computeDone := true }) (starting 4)).boot.stage = 4 := by decide

theorem witness_ModuleAndFabricResets :
    live (starting 4) = true ∧ (starting 4).boot.stage ≠ stageHalted ∧ (starting 4).boot.stage = 4 ∧
      (let m := onBoot (fun b => { b with activating := true }) serving
       m.boot.activating = true ∧ (takeEvent 10 m).boot.stage ≠ stageHalted) ∧
      (let m := onBoot (fun b => { b with recoverPeer := true }) (starting stageLoader)
       live m = true ∧ m.boot.stage = stageLoader ∧ m.boot.recoverPeer = true ∧ m.boot.fetch = none ∧ m.boot.staging = 0) := by decide

/-- The serving module with port 0 in a training state. -/
def training (t : Train) : Sys := onPort 0 (fun x => { x with train := t }) serving

/-- What a neighbour says in its HELLO. -/
def hello0 : Hello :=
  { identity := 9, group := 0, groupSet := false, addr := none, peerPort := 0, isHost := false, endpoints := 0, expected := 0,
    free := [1, 1, 1, 1], retrain := false }

theorem witness_PortTraining :
    live serving = true ∧ (portOf (training .down) 0).train = .down ∧ (portOf (training .signal) 0).train = .signal ∧
      (portOf (training .retrain) 0).train = .retrain ∧ (portOf (training .equalize) 0).train = .equalize ∧
      (portOf (training .align) 0).train = .align ∧ (portOf (training .hello) 0).train = .hello ∧ hello0.retrain = false ∧
      (portOf (training .up) 0).train = .up ∧ (portOf (training .failed) 0).train = .failed ∧ live (training .up) = true := by decide

theorem witness_FramesAndStreams :
    let m := onPort 0 (fun x => { x with train := .up, retry := [{ no := 0, vc := 0, first := 0, payload := [], paid := true }] }) serving
    live m = true ∧ (portOf m 0).train = .up ∧ (portOf m 0).retry ≠ [] := by decide

theorem witness_TensorBlocksArrive :
    let h := { blk kTensorRead (leBytes 4 16) with src := 1, host := true, target := 0x1000 }
    let l : Lease := { number := 1, peer := 9, peerAddr := 1, gib := 1, recalled := false, writes := 0, bytes := [] }
    let i := { blk kTensorRead (leBytes 4 16) with src := 1, target := BitVec.ofNat 64 (imageTensor * 2 ^ 40) }
    let t := { blk kTensorRead (leBytes 4 16) with src := 1, target := 0x0001000000000000 }
    let m := onFabric (fun x => { x with lent := [(1, l)] }) rook0
    let w := { blk kTensorWrite (leBytes 2 1 ++ zeros 30 ++ nopBlock) with src := 1, target := relayWindow }
    live m = true ∧ (consumed h m).fabric.rook = true ∧ h.src ≠ ownAddr m ∧ tnumOf i.target = imageTensor ∧ leAt i.body 0 4 ≤ 4096 ∧
      offsetOf i.target + leAt i.body 0 4 ≤ 268435456 ∧ tnumOf t.target ≠ imageTensor ∧
      leaseRange (consumed t m) t.target (leAt t.body 0 4) = some (1, 0, l) ∧ 160 ≤ w.body.length ∧ takesRelays (consumed w m) = true ∧
      isSubSearch (consumed w m) (relayedCmd w.body) = false ∧
      (let v := { w with body := leBytes 2 1 ++ zeros 30 ++ withCrc (leBytes 4 0x24 ++ leBytes 2 1 ++ zeros 118) }
       160 ≤ v.body.length ∧ takesRelays (consumed v m) = true ∧ isSubSearch (consumed v m) (relayedCmd v.body) = true) ∧
      takesRelays (consumed w (onTask (fun x => { x with stopped := true }) m)) = false ∧ tnumOf t.target ≠ 0xFFFFFF ∧
      leaseRange (consumed t m) t.target t.body.length = some (1, 0, l) := by decide +kernel

theorem witness_TensorBlocksArrive_piece :
    let c := cmd 0x02 (tensorAddr 5 0) 16 []
    let f : Fetch := { cmd := c, todo := [], asked := [(0, 16)], blocked := [], bad := none, conds := 0, badUnits := [], taken := 0 }
    let b := { blk kTensorReadResp (zeros 16) with src := 0, host := true, target := 0x1000, tag := 7 }
    let m := onTask (fun t => { t with fetches := [f] }) rook0
    fetchOf { b with src := 1, tag := 9 } (consumed { b with src := 1, tag := 9 } m) = none ∧
    fetchOf b (consumed b m) = some f ∧ (b.target - f.cmd.hostAddr).toNat = 0 ∧
      f.asked.find? (fun a => a.1 == (b.target - f.cmd.hostAddr).toNat) = some (0, 16) := by decide +kernel

/-- A collective number 5 of task 0. -/
def coll0 (d : Desc) : Coll :=
  { id := 5, task := 0, index := 0, desc := d, ranks := 2, me := 0, rankAddrs := [0, 1], rows := 1, rowLen := 256, parts := [],
    result := [], lists := [], own := [], satBlocks := [], satur := false, sent := [] }

/-- A descriptor of an operation code with every other field zero. -/
def desc0 (op : Byte) : Desc := readDesc (leBytes 1 op.toNat ++ zeros 127)

theorem witness_CollectiveBlocksArrive :
    let b := blk kCollData []
    let x : Shard :=
      { coll := 6, cmd := cmd 0x24 0 0 [], k := 1, rowlen := 0, kind := 0, waiting := [1], heard := [], lists := [], own := [], walked := true, answered := 0,
        isPartial := false, omitted := false, failed := [], pips := 0, result := [], conds := 0 }
    let m := onSearch (fun y => { y with shards := [x] })
      (onFabric (fun x => { x with waitData := [b] }) (running { job0 (plan0 true) with colls := [coll0 (desc0 0x38)] } serving))
    live m = true ∧ ((takeEvent 10 m).fabric.waitData.any fun d => d.src == 1 && d.scaleRef == 0) = true ∧
      collOf (takeEvent 10 m) 5 = some (coll0 (desc0 0x38)) ∧ shardAwaiting (takeEvent 10 m) 6 1 = some x := by decide +kernel

/-- A neighbour's link state. -/
def link0 : LinkInfo := { identity := 9, group := 0, addr := some 1, starts := 1, hostPort := true, neighbours := [] }

theorem witness_MembershipAndRoles :
    let m := onFabric (fun x => { x with rook := true }) (onPort 0 (fun x => { x with train := .up, host := true }) serving)
    live m = true ∧ m.fabric.rook = true ∧
      activeHost (takeEvent 10 m) ≠ (List.range 8).find? (fun p => hostCandidate (portOf (takeEvent 10 m) p)) := by decide

theorem witness_MembershipAndRoles_links : ∃ l o : LinkInfo, l.identity ≠ identity ∧
    tfind l.identity.toNat (onFabric (fun x => { x with links := [(l.identity.toNat, o)] }) serving).fabric.links = some o ∧
    some o ≠ some l ∧ o.addr = some 1 ∧ o.starts < l.starts := by
  refine ⟨{ link0 with identity := identity + 1, starts := 2 }, link0, ?_, by simp [onFabric, tfind],
    fun h => absurd (congrArg LinkInfo.starts (Option.some.inj h)) (by decide), rfl, by decide⟩
  intro h
  have : identity + 1 = identity := h
  exact absurd this (by bv_omega)

theorem witness_RouteRows :
    let m := onFabric (fun x => { x with routeAuto := true, firstUp := some 0 }) serving
    live m = true ∧ m.fabric.routeAuto = true ∧ m.fabric.done = false ∧ m.fabric.firstUp = some 0 := by decide

/-- A lease of the module with identity 9. -/
def lease0 : Lease := { number := 3, peer := 9, peerAddr := 1, gib := 1, recalled := true, writes := 0, bytes := [] }

theorem witness_LeaseRows :
    let m := onFabric (fun x => { x with borrowed := [(0, lease0)], lent := [(1, lease0)], borrowMax := 8 }) serving
    let n := takeEvent 10 m
    live m = true ∧ (1 : BitVec 9) ≠ 0 ∧ borrowedGib m + 1 ≤ min 256 m.fabric.borrowMax.toNat ∧
      min 256 m.fabric.borrowMax.toNat < borrowedGib m + 8 ∧
      (tfind 1 n.fabric.lent).filter (·.recalled) = some lease0 ∧ (tfind 3 n.fabric.lent).filter (·.recalled) = none ∧
      ((borrowedAs n 3).map (·.2)).find? (·.recalled) = some lease0 ∧ (n.fabric.lent.any fun e => e.2.peer == 9) = true := by decide

theorem witness_LeaseRows_ask : ∃ (x : LeaseAsk) (m : Sys), live m = true ∧ (takeEvent 10 m).fabric.leaseAsks = [x] :=
  ⟨{ tensor := 1, gib := 1, asked := 9, rest := [] },
    onFabric (fun f => { f with leaseAsks := [{ tensor := 1, gib := 1, asked := 9, rest := [] }] }) serving, by decide, rfl⟩

theorem witness_NoticesAtTheRook :
    let m := onHealth (fun h => { h with mode := 0, notices := [{ code := 1, sev := 1, detail := [], turn := 0, coalesced := 0 }] })
      (onFabric (fun x => { x with rookAddr := some 0, assigned := true }) rook0)
    live m = true ∧ m.fabric.rook = true ∧ activeHost m ≠ none ∧ activeHost (onFabric (fun x => { x with ports := [] }) m) = none ∧
      m.health.notices = [{ code := 1, sev := 1, detail := [], turn := 0, coalesced := 0 }] ∧ m.fabric.rookAddr = some 0 ∧
      m.fabric.assigned = true ∧ m.health.mode = 0 := by decide

/-- A plan of one task with one descriptor. -/
def planOf (serves : Bool) (d : Desc) : Plan := { plan0 serves with tasks := [⟨0, 1, 0, 0⟩], descs := [d], params := zeros 24 ++ [0, 0, 1, 0] }

/-- A job whose only task is placed on core 0. -/
def placed0 (d : Desc) (f : TaskRun → TaskRun) : Job :=
  { job0 (planOf false d) with tasks := [(0, f { taskFresh with phase := .placed 0 })] }

/-- The serving module with that job, its descriptor waiting in core 0's queue. -/
def queued0 (d : Desc) : Sys := onCore 0 (fun c => { c with queue := [(0, 0)] }) (running (placed0 d fun x => { x with queued := 1 }) serving)

theorem witness_JobEngineRows :
    let d := desc0 0x50
    let j := placed0 d fun x => { x with queued := 1 }
    let k := placed0 d (fun x => { x with queued := 1, issued := [0], ran := [0] })
    let l := placed0 d (fun x => { x with queued := 1, issued := [0], ran := [0], done := [0] })
    let e := { job0 (planOf false d) with tasks := [(0, { taskFresh with phase := .done })] }
    let v := { job0 (plan0 true) with inStep := false }
    let m := queued0 d
    live serving = true ∧ serving.jobs.job = none ∧ { j with admitting := true }.admitting = true ∧
      activeJob m = some j ∧ coresPowered m = true ∧ j.stopping = none ∧ mayIssue m j 0 0 = true ∧ taskDesc j 0 0 = some d ∧
      (taskAt k 0).ran.contains 0 = true ∧ (taskAt k 0).done.contains 0 = false ∧ mayRun k d = true ∧
      (taskAt l 0).phase = .placed 0 ∧ (taskAt l 0).failed = false ∧
      (List.range (entryOf l 0).descCount).all (taskAt l 0).done.contains = true ∧
      stepDone e = true ∧ e.expiry = none ∧ activeJob (running e serving) = some e ∧
      v.plan.serving = true ∧ v.inStep = false ∧ v.stopping = none ∧ { v with enders := [cmd 0x11 0 0 []] }.enders ≠ [] ∧ v.enders = [] ∧
      drained (running v serving) = false := by decide +kernel

theorem witness_FaultAndStopRows :
    let j := { placed0 (desc0 0x50) (fun x => { x with issued := [0], ran := [0], done := [0] }) with expiry := some (0, 0) }
    let k := { placed0 (desc0 0x50) id with stopping := some .condition }
    live (running j serving) = true ∧ domainIsOut (takeEvent 5 (running j serving)) (domainOf .residue 0 0) = false ∧
      activeJob (running j serving) = some j ∧ j.expiry = some (0, 0) ∧ (taskAt j 0).done.contains 0 = true ∧
      j.conds &&& condition stBudgetOver = 0 ∧ activeJob (running k serving) = some k ∧ k.stopping = some .condition ∧
      stillRuns k = false ∧ corePowered (running j serving) 0 = true ∧ halfServes (coreOf (running j serving) 0) 0 = true ∧
      (coreOf (running j serving) 0).clockOff.getLsbD 0 = false ∧ presents (running j serving) 0 0 ≠ .valid := by decide +kernel

/-- The module whose only task, placed on core 0, has this descriptor issued. -/
def ready0 (d : Desc) : Sys := running (placed0 d (fun x => { x with issued := [0] })) serving

/-- The descriptor is ready there, and its operation meets nothing that stops it. -/
def ready1 (d : Desc) (f : Desc → Run → Run) : Bool :=
  (readyDesc (ready0 d) 0 d).isSome && !(f d (runOf 0 (useVector 0 d (ready0 d)))).failed

/-- A descriptor with operands in scratch: inputs `l`, outputs from operand 6. -/
def scratchDesc (op : Byte) (l : List Nat) (outs : Nat) : Desc :=
  let at0 (i : Nat) : ORef := if l.contains i then .scratch 0 else .none
  { desc0 op with
    o0 := at0 0, o1 := at0 1, o2 := at0 2, o3 := at0 3, o6 := if 1 ≤ outs then .scratch 0 else .none,
    o7 := if 2 ≤ outs then .scratch 0 else .none }

theorem witness_EngineDescriptors :
    ready1 { scratchDesc 0x01 [0, 1, 2, 3] 1 with kind := 0xFF, fmt := 8 } matmulOp = true ∧
      ready1 (scratchDesc 0x02 [0, 2] 1) hammingOp = true ∧
      ready1 { scratchDesc 0x03 [0, 1, 2, 3] 1 with fmt := 8 } ewArrayOp = true ∧
      ready1 (scratchDesc 0x04 [0] 1) sketchOp = true := by decide +kernel

theorem witness_MoveDescriptors :
    ready1 (scratchDesc 0x20 [0] 1) moveDescOp = true ∧
      ready1 { scratchDesc 0x21 [0, 1] 1 with dim1 := .val 4 } gatherOp = true ∧
      ready1 { scratchDesc 0x22 [0, 1] 1 with dim1 := .val 4 } scatterOp = true ∧
      ready1 { scratchDesc 0x23 [0, 1] 1 with dim1 := .val 4 } scatterAddOp = true ∧
      ready1 (scratchDesc 0x24 [0, 1] 2) relayoutOp = true ∧
      ready1 { scratchDesc 0x25 [0] 1 with fmt := 1 } transposeOp = true := by decide +kernel

theorem witness_VectorDescriptors :
    ready1 (scratchDesc 0x10 [0, 1] 1) ewOp = true ∧
      ready1 { scratchDesc 0x11 [0, 1] 1 with dim1 := .val 1 } normOp = true ∧
      ready1 { scratchDesc 0x12 [0] 1 with kind := 1, dim1 := .val 1 } softmaxOp = true ∧
      ready1 (scratchDesc 0x13 [0] 1) reduceOp = true ∧
      ready1 (scratchDesc 0x14 [0] 2) convertOp = true := by decide +kernel

theorem witness_SelectionAndFilterDescriptors :
    ready1 { scratchDesc 0x30 [0] 1 with dim1 := .val 1 } topkOp = true ∧
      ready1 { scratchDesc 0x40 [0] 1 with o1 := .plan 0, dim2 := .val 8, param := [1, 1] ++ zeros 22 } filterOp = true ∧
      ready1 { scratchDesc 0x41 [0] 2 with o1 := .plan 0, o2 := .plan 24, dim2 := .val 8, param := [1, 1, 0, 0, 0, 1] ++ zeros 18 } scanOp = true ∧
      ready1 (desc0 0x50) descNopOp = true ∧
      ready1 (scratchDesc 0x58 [0] 0) emitOp = true := by decide +kernel

/-- A plan whose slots 0 and 1 hold a rank table and data, with one collective of two ranks and the inputs of a SELECT. -/
def collPlan (d : Desc) : Plan :=
  { planOf false d with
    slots := [⟨0, 0, 0, 0, 64, 0⟩, ⟨0, 0, 0, 0, 64, 0⟩], colls := [⟨5, 0, 2, 0xFFFFFFFF⟩],
    params := leBytes 8 (2 ^ 62 + 2 ^ 50) ++ leBytes 8 (2 ^ 62 + 2 ^ 50) }

/-- The module with that plan's descriptor issued; its rank table names addresses 1 and 0. -/
def collReady (d : Desc) : Sys :=
  having 6 (movable 64) (having 5 { movable 64 with store := (writeStore (freshStore true) 0 [1, 0]).store }
    (running { placed0 d (fun x => { x with issued := [0] }) with
      plan := collPlan d, binds := [tensorAddr 5 0, tensorAddr 6 0] } serving))

theorem witness_CollectiveDescriptors :
    let d := { desc0 0x38 with o0 := .slot 1 0, o6 := .slot 1 0, dim0 := .val 1, dim1 := .val 4 }
    let g := { d with op := 0x39 }
    let m := collReady d
    let k := readRanks (collEntry m d) (runOf 0 (useVector 0 d m))
    (readyDesc m 0 d).isSome = true ∧ (readyDesc (collReady g) 0 g).isSome = true ∧ k.2.failed = false ∧ k.1 = [1, 0] ∧
      (opF32 d 0 4 k.2).2.failed = false ∧ (readRanks (collEntry (collReady g) g) (runOf 0 (useVector 0 g (collReady g)))).2.failed = false ∧
      (opF32 g 0 1 (readRanks (collEntry (collReady g) g) (runOf 0 (useVector 0 g (collReady g)))).2).2.failed = false := by decide +kernel

theorem witness_CollectiveDescriptors_select :
    let d := { desc0 0x31 with o0 := .plan 0, o6 := .slot 1 0, dim0 := .val 2, dim1 := .val 1, param := leBytes 4 0xFFFFFFFF ++ zeros 20 }
    let e := { d with param := zeros 24 }
    let k := readRanks (collEntry (collReady e) e) (runOf 0 (useVector 0 e (collReady e)))
    (readyDesc (collReady d) 0 d).isSome = true ∧ dpar d 104 4 = 0xFFFFFFFF ∧ (selectOp d (runOf 0 (useVector 0 d (collReady d)))).failed = false ∧
      (readyDesc (collReady e) 0 e).isSome = true ∧ k.2.failed = false ∧
      (readInputs (selectRefs k.2 e (runDim k.2 e.dim0)) (runDim k.2 e.dim1) (runDim k.2 e.dim2) k.2).2.failed = false := by
  decide +kernel

/-- A tensor descriptor issued at module 0, with 92 bytes of parameters in its plan. -/
def tensorPlaced (d : Desc) : Sys :=
  running { placed0 d (fun x => { x with issued := [0] }) with
    plan := { collPlan d with params := zeros 92 }, binds := [tensorAddr 5 0, tensorAddr 6 0] } serving

/-- A tensor descriptor of an operation on the tensor of slot 0, ready, with its parameter block in the plan. -/
def tensorReady (op : Byte) (d : Desc → Desc) : Bool :=
  let d := d { desc0 op with o0 := .slot 0 0 }
  let m := tensorPlaced d
  (readyDesc m 0 d).isSome && !descWaits m d [d.o0, d.o1] && decide (descTensor m d.o0 = some 5)

theorem witness_TensorDescriptors :
    tensorReady 0x60 (fun d => { d with o2 := .plan 0 }) = true ∧ tensorReady 0x61 id = true ∧
      tensorReady 0x62 (fun d => { d with o2 := .plan 0 }) = true ∧ tensorReady 0x63 (fun d => { d with o2 := .plan 0 }) = true ∧
      tensorReady 0x64 id = true ∧ tensorReady 0x65 id = true ∧ tensorReady 0x66 (fun d => { d with o2 := .plan 0 }) = true ∧
      tensorReady 0x67 (fun d => { d with o1 := .slot 1 0 }) = true ∧
      descTensor (tensorPlaced { desc0 0x67 with o0 := .slot 0 0, o1 := .slot 1 0 }) (.slot 1 0) = some 6 ∧
      tensorReady 0x68 id = true := by decide +kernel

/-- A motion of a tensor from T1 to T0 of core 0. -/
def motion0 : Motion :=
  { dest := .t0 (.one 0), copying := false, window := [], next := 0, store := freshStore true, asker := .engine, pin := false, prio := 1, order := 0, req := 0,
    cause := none, touches := false, holds := true, started := false, lostCores := [] }

theorem witness_MotionRows :
    let t := { movable 40000 with motion := some motion0 }
    let u := { movable 40000 with motion := some { motion0 with started := true, window := [0, 1, 2], next := 3 } }
    let m := having 5 t serving
    live m = true ∧ thermalHold m = false ∧ activeMotions m < 32 ∧ nextMotion m = some (5, t, motion0) ∧ motion0.pin = false ∧
      tensorOf (having 5 u serving) 5 = some u ∧
      unitRetrains (having 5 u serving) 5 0 { motion0 with started := true, window := [0, 1, 2], next := 3 } = false := by decide +kernel

/-- A new sealed tensor whose data the flash holds. -/
def sealed0 (size : Nat) : Tensor := { movable size with isSealed := true, place := .flash }

/-- A seal that writes tensor 6 into tensor 5. -/
def seal0 : Seal :=
  { asker := .engine, source := 6, target := 5, ns := 0, total := 100, done := 0, first := 0, started := false,
    stop := none, content := none, placed := [], committed := false, chunks := [0] }

/-- The tag of a page of tensor 5. -/
def tag0 : PageTag :=
  { seq := 0, unit := 3, kind := 0, commit := false, tensor := 5, offset := 0, cmd := 0, length := 100, ns := 0, live := true, created := 0 }

/-- The module with its mapping engine running and that seal begun. -/
def sealing : Sys :=
  having 5 { sealed0 100 with state := .building } (having 6 (movable 100)
    (onFlash (fun x => { x with mapState := 2, roCause := 0, seals := [seal0], spaces := [(0, zeros 64)] }) serving))

/-- The module with block 20 of die 3 in a state, and something at the die. -/
def blockIn (st : BState) (f : Die → Die) : Sys :=
  onDie 3 f (onBlock 3 20 (fun x => { x with state := st }) (onFlash (fun x => { x with mapState := 2 }) serving))

theorem witness_ProgramAndEraseRows :
    sealOf sealing 5 = some seal0 ∧ sealPrograms sealing seal0 = [] ∧ sealTurn sealing seal0 = true ∧ live sealing = true ∧
      seal0.stop = none ∧ readOnly sealing = false ∧ sourceRetrains seal0 sealing = false ∧ flashHold sealing = false ∧ (tensorOf sealing 5).isSome = true ∧
      readOnly (onFlash (fun x => { x with roCause := 1 }) sealing) = true ∧
      sealOf (onFlash (fun x => { x with seals := [{ seal0 with stop := some stFlushed }] }) sealing) 5 = some { seal0 with stop := some stFlushed } ∧
      tfind 0 sealing.flash.spaces = some (zeros 64) ∧
      eraseMay (blockIn .erasePending id) 3 20 = true ∧ (dieAt (blockIn .erasePending id) 3).queued = 0 ∧
      eraseMay (blockIn .erasePending (fun x => { x with queued := 1 })) 3 20 = true ∧
      (dieAt (blockIn .erasePending (fun x => { x with queued := 1 })) 3).queued = 1 ∧
      eraseMay (takeEvent 10 (blockIn .erasePending (fun x => { x with eraseWaits := some 20 }))) 3 20 = true ∧
      (dieAt (takeEvent 10 (blockIn .erasePending (fun x => { x with eraseWaits := some 20 }))) 3).eraseWaits = some 20 ∧
      (blockOf (blockIn .erasing id) 3 20).state = .erasing ∧
      ((startProgram 3 true tag0 sealing).flash.programs.map fun p => (p.die, p.block, p.page)) = [(3, 16, 0)] := by
  decide +kernel

theorem witness_DieRows :
    let busy := blockIn .erasing (fun x => { x with busy := true })
    let window := blockIn .erasing (fun x => { x with busy := true, window := true })
    let held := blockIn .erasing (fun x => { x with busy := true, suspended := true })
    let mapped := onFlash (fun x => { x with
      mapState := 2, map := [(3, { slc := true, damaged := false, block := 20, page := 0, seq := 1, secs := 0 })] }) serving
    live busy = true ∧ (dieAt busy 3).busy = true ∧ (dieAt busy 3).out = false ∧ (dieAt busy 3).window = false ∧
      (dieAt busy 3).suspended = false ∧ (dieAt window 3).window = true ∧ (dieAt (takeEvent 10 window) 3).window = true ∧
      (dieAt held 3).suspended = true ∧ flashHold held = false ∧ live mapped = true ∧ (tfind 3 mapped.flash.map).isSome = true ∧
      mapRuns mapped = true ∧ mapped.power.current ≠ 2 := by decide +kernel

/-- The module with its mapping engine running and block 20 of die 3 full of units of QLC mode, one of them valid. -/
def fullDie : Sys :=
  onDie 3 (fun x => { x with retired := 65536 }) <| onBlock 3 20 (fun x => { x with state := .full, refresh := true, wptr := 1536 }) (onFlash (fun x => { x with
    mapState := 2, map := [(3, { slc := false, damaged := false, block := 20, page := 0, seq := 1, secs := 0 })] }) serving)

theorem witness_JournalAndCopyRows :
    let m := onFlash (fun x => { x with dirty := [(7, 3)] }) fullDie
    live m = true ∧ mapRuns m = true ∧ m.flash.flushing = none ∧
      (onFlash (fun x => { x with flushing := some ([], x.image) }) m).flash.flushing ≠ none ∧ flashHold m = false ∧
      (tfind 7 m.flash.dirty).isSome = true ∧ copiesMay m 3 = true ∧ leftUnits m 3 = [] ∧ gcVictim m 3 = some 20 ∧
      (blockOf m 3 20).refresh = true ∧ (blockOf m 3 20).state ≠ .opened := by decide +kernel

/-- Two bytes make less than 65,536. -/
theorem two_bytes (a b : Byte) : leNat [a, b] ≤ 65536 := by
  have h (x y : Byte) : x.toNat + 256 * (y.toNat + 256 * 0) ≤ 65536 := by
    have := x.isLt
    have := y.isLt
    omega
  exact h a b

/-- A die whose blocks have all been retired but the listed ones has few free blocks, whatever its calibration. -/
theorem witness_JournalAndCopyRows_free : freeBlocks fullDie 3 ≤ 8 := by
  have h : goodBlocks fullDie 3 = 0 := by
    have hr : (dieAt fullDie 3).retired = 65536 := by decide +kernel
    have hc : calBytes (0x1000 + 2 * 3) 2 = [Config.calRow 4102, Config.calRow 4103] := rfl
    unfold goodBlocks
    rw [hr, hc]
    exact Nat.sub_eq_zero_of_le (two_bytes _ _)
  have key (m : Sys) (d : Nat) (hg : goodBlocks m d = 0) : freeBlocks m d ≤ 8 := by
    unfold freeBlocks
    omega
  exact key _ _ h

theorem witness_IntegrityRows :
    let st (k : BitVec 4) := onStack 0 (fun x => { x with state := k }) serving
    let m := having 5 (movable 64) serving
    live (st 2) = true ∧ (stackOf (st 2) 0).state = 2 ∧ live (st 3) = true ∧ (stackOf (st 3) 0).state = 3 ∧
      serving.power.current ≠ 2 ∧ serving.integrity.scrubSlow = false ∧ live m = true ∧
      tensorOf m 5 = some (movable 64) ∧ inWindow (movable 64) 3 2 = false ∧ stackWaits m (movable 64) 3 2 = false ∧
      mergeRoom m 5 0 (wordHome (placeAt (movable 64) ((sourcesOf (movable 64) 0).headD .home)) 0) = true := by decide +kernel

/-- The serving module with a ledger page being programmed. -/
def programming : Sys := onBoot (fun b => { b with op := some .ledgerPage }) serving

theorem witness_BootStoreRows :
    live programming = true ∧ programming.boot.op = some .ledgerPage ∧ programming.boot.suspended = false ∧
      (onBoot (fun b => { b with suspended := true }) programming).boot.suspended = true ∧
      live (onBoot (fun b => { b with suspended := true }) programming) = true ∧
      (onBoot (fun b => { b with window := true }) programming).boot.window = true ∧
      live (onBoot (fun b => { b with window := true }) programming) = true ∧
      (let m := onHealth (fun h => { h with pages := [(5, zeros 256), (1048576, zeros 256)], nextPage := 1048577 }) serving
       (sectorsBehind m).drop ((bootOps m).filter fun o => o == .ledgerErase).length = [0]) := by decide +kernel

theorem witness_SelfTestRows :
    let p1 := onPower (fun p => { p with current := 1 }) serving
    let t := onHealth (fun h => { h with tests := [.vector 3], selftest := some (cmd 0x63 0 0 []) }) serving
    let c := onChan 2 (fun x => { x with state := 1, retrain := true }) serving
    live p1 = true ∧ p1.boot.stage = stageServing ∧ p1.power.current.toNat < 2 ∧ live t = true ∧
      t.health.tests.contains (.vector 3) = true ∧ t.health.selftest = some (cmd 0x63 0 0 []) ∧ live c = true ∧
      (chanOf (beginRetrain 2 c) 2).state = 1 ∧ (chanOf (beginRetrain 2 c) 2).retrain = true := by decide +kernel

theorem witness_EveryWordIsProtected : (71 : Nat) < 72 ∧ (63 : Nat) < 72 ∧ (63 : Nat) ≠ 71 := by decide

theorem witness_ColumnsOfTheCode : (7 : Nat) < 8 ∧ popcount (0x57 : Byte) = 5 := by decide

theorem witness_BlocksAndCommandsReadBack :
    (blk 0x12 (List.replicate 4096 0xFF)).body.length ≤ 4096 ∧ (cmd 0x74 0xFFFFFFFFFFFFFFFF 0xFFFFFFFF [1]).param.length = 92 ∧
      [0, 255, 255, 255].length = 4 ∧ [0, 255, 255, 255].all (· < 256) = true := by decide +kernel

theorem witness_OneCompletionRecord :
    let c := cmd 0x00 0 0 []
    live serving = true ∧ hasRecord (holding c serving) c = true ∧ live (holding c serving) = true ∧ hasRecord serving c = false ∧
      c.rook = ownAddr serving ∧ hasRecord (onTask (fun t => { t with relayed := [{ c with rook := 1 }] }) serving) { c with rook := 1 } = true := by
  decide

theorem witness_QueriesChangeNoContents : (Instr.nop (cmd 0x00 0 0 [])) = .nop (cmd 0x00 0 0 []) := rfl

theorem witness_StoresKeepWhatIsWritten :
    let s := (freshStore true).put 2 (goodWord 7)
    s.wf = true ∧ (3 + [1, 2].length ≤ 8 * 1) ∧ (8 ≤ 8 * 1 ∧ 8 * 1 + 8 ≤ 8 + (List.replicate 8 (1 : Byte)).length) ∧
      ((3 : Nat) < 8 * 0 + 8 ∧ 8 * 0 < 3 + [1, 2].length ∧ ¬(3 ≤ 8 * 0 ∧ 8 * 0 + 8 ≤ 3 + [1, 2].length)) ∧
      16 % 8 = 0 ∧ (List.replicate 8 (1 : Byte)).length % 8 = 0 := by decide +kernel

/-- A module that has been switched off. -/
def switchedOff : Sys := onPower (fun p => { p with run := .off, epoLatch := true }) serving

theorem witness_OffModuleIsStill :
    live switchedOff = false ∧ inHoldup switchedOff = false ∧ actsWhenOff (.nop (cmd 0x00 0 0 [])) = false ∧
      actsWhenOff .commandDispatch = false := by decide

theorem witness_NoCommandBeforeServing :
    let loading := onBoot (fun b => { b with stage := stageLoader }) Sys.reset
    let p2 := onPower (fun p => { p with current := 2 }) serving
    commandOf (.nop (cmd 0x00 0 0 [])) = some (cmd 0x00 0 0 []) ∧ live switchedOff = false ∧ live loading = true ∧
      loading.boot.stage = stageLoader ∧ loaderOpcodes.contains (cmd 0x10 0 0 []).opcode = false ∧ live p2 = true ∧
      p2.boot.stage = stageServing ∧ p2.power.current = 2 ∧ p2.power.entry = none ∧ (cmd 0x00 0 0 []).opcode ≠ 0x08 ∧
      Sys.reset.boot.stage ≠ stageServing ∧ Sys.reset.boot.stage ≠ stageLoader := by decide

theorem witness_PowerCapRegister :
    live serving = true ∧ 30 ≤ ((0x11E : Word).extractLsb' 0 7).toNat ∧ ((0x15F : Word).extractLsb' 0 7).toNat ≤ 95 ∧
      ((0x1D : Word).extractLsb' 0 7).toNat < 30 ∧ 95 < ((0x60 : Word).extractLsb' 0 7).toNat := by decide

theorem witness_RegistersAtReset : State.reset.sys.boot.stage ≠ stageServing := by decide

/-- The descriptor is ready, and its operation meets scratch bytes that nothing has written. -/
def fails0 (d : Desc) (f : Desc → Run → Run) : Bool :=
  (readyDesc (ready0 d) 0 d).isSome && (f d (runOf 0 (useVector 0 d (ready0 d)))).failed

theorem witness_DescriptorsThatFail_engines :
    fails0 { scratchDesc 0x01 [0, 1, 2, 3] 1 with kind := 0xFF, fmt := 8, dim0 := .val 1, dim1 := .val 1, dim2 := .val 1 } matmulOp = true ∧
      fails0 { scratchDesc 0x02 [0, 2] 1 with dim0 := .val 1, dim1 := .val 1, dim2 := .val 1 } hammingOp = true ∧
      fails0 { scratchDesc 0x03 [0, 1, 2, 3] 1 with fmt := 8, dim0 := .val 1, dim1 := .val 1 } ewArrayOp = true ∧
      fails0 { scratchDesc 0x04 [0] 1 with dim0 := .val 1, dim1 := .val 1 } sketchOp = true ∧
      fails0 { scratchDesc 0x20 [0] 1 with dim0 := .val 1, dim1 := .val 1 } moveDescOp = true ∧
      fails0 { scratchDesc 0x21 [0, 1] 1 with dim0 := .val 1, dim1 := .val 4 } gatherOp = true ∧
      fails0 { scratchDesc 0x22 [0, 1] 1 with dim0 := .val 1, dim1 := .val 4, dim2 := .val 1 } scatterOp = true ∧
      fails0 { scratchDesc 0x23 [0, 1] 1 with dim0 := .val 1, dim1 := .val 4, dim2 := .val 1 } scatterAddOp = true ∧
      fails0 { scratchDesc 0x24 [0, 1] 2 with dim0 := .val 1, dim1 := .val 1 } relayoutOp = true ∧
      fails0 { scratchDesc 0x25 [0] 1 with fmt := 1, dim0 := .val 1, dim1 := .val 1, dim2 := .val 1, dim3 := .val 1 } transposeOp = true := by decide +kernel

theorem witness_DescriptorsThatFail_vectors :
    fails0 { scratchDesc 0x10 [0, 1] 1 with dim0 := .val 1, dim1 := .val 1 } ewOp = true ∧
      fails0 { scratchDesc 0x11 [0, 1] 1 with dim0 := .val 1, dim1 := .val 1 } normOp = true ∧
      fails0 { scratchDesc 0x12 [0] 1 with kind := 1, dim0 := .val 1, dim1 := .val 1 } softmaxOp = true ∧
      fails0 { scratchDesc 0x13 [0] 1 with dim0 := .val 1, dim1 := .val 1 } reduceOp = true ∧
      fails0 { scratchDesc 0x14 [0] 2 with dim0 := .val 1, dim1 := .val 1 } convertOp = true ∧
      fails0 { scratchDesc 0x30 [0] 1 with dim0 := .val 1, dim1 := .val 1 } topkOp = true ∧
      fails0 { scratchDesc 0x40 [0] 1 with o1 := .plan 0, dim0 := .val 1, dim1 := .val 1, dim2 := .val 8, param := [1, 1] ++ zeros 22 }
        filterOp = true ∧
      fails0 { scratchDesc 0x41 [0] 2 with o1 := .plan 0, o2 := .plan 24, dim1 := .val 1, dim2 := .val 8, param := [1, 1, 0, 0, 0, 1] ++ zeros 18 }
        scanOp = true ∧
      (let d := scratchDesc 0x58 [0] 0
       let m := running { placed0 d (fun x => { x with issued := [0] }) with rows := [⟨0, 0, 0, true⟩] } serving
       ((readyDesc m 0 d).isSome && (emitOp d (runOf 0 m)).failed) = true) := by decide +kernel

theorem witness_DescriptorsThatFail_run :
    ({ runOf 0 serving with bad := true } : Run).failed = true ∧
      (runOf 0 (running (job0 (plan0 false)) serving)).sys.jobs.job = some (job0 (plan0 false)) := by decide +kernel

theorem witness_OneStatusIsReported :
    ([0x22, 0x20] : List Byte) ≠ [] ∧ ∀ x ∈ ([0x22, 0x20] : List Byte),
      x ∈ ([0x40, 0x08, 0x12, 0x10, 0x32, 0x33, 0x21, 0x30, 0x31, 0x20, 0x22, 0x01, 0x00] : List Byte) := by decide

theorem witness_CellsMultiplyExactly :
    (2 ≤ 8 ∧ 6 + 1 < 8 ∧ 7 + 1 = 8 ∧ 255 < 2 ^ 8) ∧ ([(-32768, 128), (32767, 255)] : List (Int × Nat)).length ≤ 65536 ∧
      ∀ e ∈ ([(-32768, 128), (32767, 255)] : List (Int × Nat)), -2 ^ 15 ≤ e.1 ∧ e.1 < 2 ^ 15 ∧ e.2 < 2 ^ 8 := by decide

set_option maxRecDepth 20000 in
theorem witness_TaskWriteAcceptance :
    let b := { newBlock 0 0 kTaskWrite with host := true, target := 0x100080, body := zeros 128 }
    let m := takeEvent 7 (consumed b rook0)
    let n := takeEvent 7 (consumed { b with body := zeros 64 } rook0)
    live rook0 = true ∧ b.dst = ownAddr rook0 ∧ m.fabric.rook = true ∧ activeHost m = some 0 ∧ b.host = true ∧
      0 < (portOf m 0).endpoints.toNat ∧ taskRegister b.ep b.target = some 1 ∧ b.body.length = 128 ∧ tfind 1 (epOf m 0).held = none ∧
      (epOf m 0).credit ≠ 0 ∧ (epOf m 0).resetBusy = false ∧ rookServes m = true ∧ { b with body := zeros 64 }.body.length ≠ 128 ∧
      b.bcast = 0 ∧ { b with dst := 5 }.dst ≠ ownAddr rook0 ∧ taskRegister 0 0x107F80 = some 255 ∧ taskRegister 15 0x1F0000 = some 0 ∧ n.fabric.rook = true := by decide

theorem witness_LatchHoldsTheModuleOff :
    switchedOff.power.epoLatch = true ∧ switchedOff.power.run = .off ∧
      (∃ t, step { pending := [.vinStart 50000], sys := switchedOff } = .next t) := by
  exact ⟨rfl, rfl, _, rfl⟩

theorem witness_GroupViews :
    let b := { blk kRegRead [] with target := 0x34D10000 }
    regsOpen rook0 = true ∧ b.bcast = 0 ∧ b.target.toNat % 8 = 0 ∧
      windowAt b.target.toNat = some ({ number := 77, first := 1232, cores := 16 }, true, 0) ∧
      (readCore 1232 0 (consumed b rook0)).isSome = true := by decide +kernel

/-! ### Ill-formed inputs that WellFormed refuses: one for each check -/

/-- The opcode and the 92 parameter bytes of a command block. -/
theorem test_wf_command :
    (Instr.read (cmd 0x01 0 8 [])).wf = true ∧ (Instr.read (cmd 0x02 0 8 [])).wf = false ∧
      (Instr.read { cmd 0x01 0 8 [] with param := zeros 91 }).wf = false := by decide

/-- The kind, the virtual channel and the length of a block. -/
theorem test_wf_block :
    let b := { newBlock 0 1 kCollRaw with body := zeros 8 }
    (Instr.collRaw b).wf = true ∧ (Instr.collData b).wf = false ∧ (Instr.collRaw { b with vc := b.vc + 1 }).wf = false ∧
      (Instr.collRaw { b with body := zeros 6 }).wf = false := by decide

/-- A body longer than 4,096 bytes. -/
theorem test_wf_block_long : (Instr.collRaw { newBlock 0 1 kCollRaw with body := zeros 4100 }).wf = false := by decide +kernel

/-- The operation code and the 24 PARAM bytes of a descriptor. -/
theorem test_wf_descriptor :
    (Instr.matmul 0 (desc0 0x01)).wf = true ∧ (Instr.matmul 0 (desc0 0x02)).wf = false ∧
      (Instr.matmul 0 { desc0 0x01 with param := zeros 23 }).wf = false := by decide +kernel

/-- The buffers and the endpoints of a HELLO. -/
theorem test_wf_hello :
    let h : Hello := ⟨5, 0, false, none, 0, true, 1, 0, [1, 1, 1, 1], false⟩
    (Instr.hello 0 h).wf = true ∧ (Instr.hello 0 { h with free := [1, 1, 1] }).wf = false ∧
      (Instr.hello 0 { h with endpoints := 0 }).wf = false ∧ (Instr.hello 0 { h with endpoints := 17 }).wf = false := by decide +kernel

/-- The order of the neighbours in a LINK_STATE. -/
theorem test_wf_link :
    let l : LinkInfo := { identity := 1, group := 0, addr := none, starts := 1, hostPort := false, neighbours := [(0, 2), (3, 4)] }
    (Instr.linkState 0 l).wf = true ∧ (Instr.linkState 0 { l with neighbours := [(3, 4), (0, 2)] }).wf = false := by decide +kernel

/-- Block numbers of a die, frames of 320 bytes, leases of at least 1 GiB, and writes of at least one byte. -/
theorem test_wf_operands :
    (Instr.refresh 0 10175).wf = true ∧ (Instr.refresh 0 10176).wf = false ∧ (Instr.blockErase 0 10176).wf = false ∧
      (Instr.dataFrame 0 (zeros 320)).wf = true ∧ (Instr.dataFrame 0 (zeros 319)).wf = false ∧ (Instr.idleFrame 0 (zeros 321)).wf = false ∧
      (Instr.narrowWriteMerge 0 0 []).wf = false := by decide +kernel

/-! ### Values worked out in the manual -/

/-- An entry of KIND 0. -/
def ent (object distance : Nat) : Entry16 :=
  { score := BitVec.ofNat 32 distance, payload := 0xFFFFFFFF, object := BitVec.ofNat 64 object }

/-- The example of R254: k = 4 over 8 entries of KIND 0. -/
theorem test_topk_of_R254 :
    let l := [ent 17 40, ent 3 52, ent 9 52, ent 12 52, ent 5 31, ent 8 52, ent 21 60, noEntry]
    ((netBest 0 4 l).take 7).map (·.object.toNat) = [5, 17, 3, 8, 9, 12, 21] ∧
      tiedWith 0 ((netBest 0 4 l).take 4) l - tiedWith 0 ((netBest 0 4 l).take 4) ((netBest 0 4 l).take 4) = 2 := by decide +kernel

/-- The example of R257: the join of that result with one of four more entries. -/
theorem test_select_of_R257 :
    let row (l : List Entry16) : List (Entry16 × List Byte) := l.map fun e => (e, [])
    let x := joinLists 0 4
      [{ entries := row [ent 5 31, ent 17 40, ent 3 52, ent 8 52], valid := 7, tied := 2 },
       { entries := row [ent 9 50, ent 30 52, ent 33 52, ent 40 55], valid := 5, tied := 0 }]
    x.entries.map (·.1.object.toNat) = [5, 17, 9, 3] ∧ x.valid = 12 ∧ x.tied = 5 := by decide +kernel

/-- The cost of R255's example, and that of the product worked out under R200. -/
theorem test_costs_of_R255_and_R200 : topkCost 10000 100 = 766080 ∧ productCost false 64 1024 256 4 = 67108864 := by decide +kernel

/-- The square window of R467's example: the OR and the mismatch word of CORE.STATUS of an idle square with one half out. -/
theorem test_group_of_R467 :
    let m := onCores (tset 1234 { coreReset with halfOut := 1#16 <<< 11 }) Sys.reset
    let l := sampleOf { number := 77, first := 1232, cores := 16 } 0 m
    orWord l = 0x00000800000084DF ∧ mismatchWord l = 0x000008000000000F := by decide +kernel

end Sys2Proof.Tests
end

section
/-!
SUPPORT. What the lists of statuses and the completion record say: the order of R14, the CONDITIONS bits of R108 and the record's
bytes of R107.
-/
namespace Sys2Proof.Machine

/-! ### The reporting order (R14) -/

/-- What a search finds stands before everything else that it could have found. -/
theorem idxOf_le_of_find? {α : Type} [BEq α] [LawfulBEq α] {p : α → Bool} {l : List α} {a x : α} (ha : l.find? p = some a)
    (hx : p x = true) : l.idxOf a ≤ l.idxOf x := by
  induction l with
  | nil => cases ha
  | cons b t ih =>
    cases hb : p b with
    | true =>
      rw [List.find?_cons_of_pos hb] at ha
      cases ha
      simp
    | false =>
      rw [List.find?_cons_of_neg (by simp [hb])] at ha
      have hba : b ≠ a := fun h => by simp [h, List.find?_some ha] at hb
      have hbx : b ≠ x := fun h => by simp [h, hx] at hb
      rw [List.idxOf_cons, List.idxOf_cons, beq_false_of_ne hba, beq_false_of_ne hbx, cond_false, cond_false]
      exact Nat.succ_le_succ (ih ha)

/-- Of statuses that have a place in the order, the one reported is among them and no other stands before it. -/
theorem reported_first (l : List Byte) (hl : l ≠ []) (ho : ∀ x ∈ l, x ∈ statusOrder) :
    reported l ∈ l ∧ ∀ x ∈ l, statusOrder.idxOf (reported l) ≤ statusOrder.idxOf x := by
  obtain ⟨y, hy⟩ := List.exists_mem_of_ne_nil l hl
  have hfound : (statusOrder.find? fun s => l.contains s).isSome = true :=
    List.find?_isSome.2 ⟨y, ho y hy, by simpa using hy⟩
  obtain ⟨a, ha⟩ := Option.isSome_iff_exists.1 hfound
  have hr : reported l = a := by rw [reported, ha, Option.getD_some]
  rw [hr]
  exact ⟨by simpa using List.find?_some ha, fun x hx => idxOf_le_of_find? ha (by simpa using hx)⟩

/-! ### The CONDITIONS bits (R108) -/

/-- The statuses that have a CONDITIONS bit, each with its bit. -/
def conditionBits : List (Byte × Nat) :=
  [(stShort, 0), (stScaleSaturated, 1), (stBudgetOver, 2), (stFull, 3), (stReadOnly, 4), (stFaultContained, 5), (stNotWritten, 6),
   (stUncorrectable, 7)]

/-- Each status of the table has the table's bit as its condition, and no other. -/
theorem condition_of_mem_conditionBits : ∀ e ∈ conditionBits, e.2 < 16 ∧ condition e.1 = BitVec.twoPow 16 e.2 := by decide

/-- A field shares a bit with a mask of one bit where that bit is set. -/
theorem and_twoPow_bne_zero (c : BitVec 16) (i : Nat) (hi : i < 16) : (c &&& BitVec.twoPow 16 i != 0) = c.getLsbD i := by
  have hp : BitVec.twoPow 16 i ≠ 0#16 := fun h => by simpa [hi] using congrArg (BitVec.getLsbD · i) h
  rw [BitVec.and_twoPow]
  cases c.getLsbD i <;> simp [hp]

/-- CONDITIONS names a status of the table where the status's bit is set. -/
theorem mem_statusesOf_iff (c : BitVec 16) : ∀ e ∈ conditionBits, e.1 ∈ statusesOf c ↔ c.getLsbD e.2 = true := by
  intro e he
  obtain ⟨hi, hc⟩ := condition_of_mem_conditionBits e he
  have hmem : e.1 ∈ conditionBits.map Prod.fst := List.mem_map_of_mem he
  have hlist : statusesOf c = (conditionBits.map Prod.fst).filter fun s => c &&& condition s != 0 := rfl
  rw [hlist, List.mem_filter, hc, and_twoPow_bne_zero c e.2 hi]
  exact and_iff_right hmem

/-- The statuses of a job at its end: those of its conditions, BAD_COMMAND, BUSY and FLUSHED, each where its cause stands. -/
theorem mem_jobStatuses_iff (j : Job) (x : Byte) : x ∈ jobStatuses j ↔
    x ∈ statusesOf j.conds ∨ (x = stBadCommand ∧ (j.malformed = true ∨ j.conds.getLsbD 8 = true)) ∨
      (x = stBusy ∧ j.busyRead = true) ∨ (x = stFlushed ∧ j.stopping = some .flushed) := by
  have hbit : (j.conds &&& condDescRefused != 0) = j.conds.getLsbD 8 := and_twoPow_bne_zero j.conds 8 (by decide)
  rw [jobStatuses, hbit]
  simp only [List.mem_append, List.mem_ite_nil_right, List.mem_singleton, Bool.or_eq_true, or_assoc, and_comm]

/-! ### The completion record (R107) -/

/-- A record begins with TAG, the status and the opcode; CONDITIONS stands behind the executing module, the register and the epoch. -/
theorem recordBytes_layout (exec : Addr) (c : Cmd) (e : Ending) : ∃ rest : List Byte,
    recordBytes exec c e =
      (leBytes 2 c.tag.toNat ++ e.status :: c.opcode :: (leBytes 2 exec.toNat ++ leBytes 1 c.reg.toNat ++
        leBytes 1 (c.ep.toNat + 16 * c.epoch.toNat))) ++ (leBytes 2 e.conds.toNat ++ rest) := by
  simp only [recordBytes, withCrc, List.append_assoc, List.cons_append, List.nil_append]
  exact ⟨_, rfl⟩

/-- Byte 2 of a record is the status. -/
theorem recordBytes_status (exec : Addr) (c : Cmd) (e : Ending) : (recordBytes exec c e).getD 2 0 = e.status := by
  obtain ⟨rest, h⟩ := recordBytes_layout exec c e
  rw [h]
  rfl

/-- Bytes 8 and 9 of a record are CONDITIONS. -/
theorem recordBytes_conds (exec : Addr) (c : Cmd) (e : Ending) : leAt (recordBytes exec c e) 8 2 = e.conds.toNat := by
  obtain ⟨rest, h⟩ := recordBytes_layout exec c e
  rw [h, leAt_skip _ _ _ _ (by simp)]
  exact (leAt_here 2 e.conds.toNat rest).trans (Nat.mod_eq_of_lt e.conds.isLt)

/-- Settles O56: the reported status by the search through the order, the conditions bit by bit, the record by its layout. -/
theorem oneStatusIsReported : Obligations.OneStatusIsReported := by
  unfold Obligations.OneStatusIsReported
  refine ⟨reported_first, mem_statusesOf_iff, fun j => ⟨rfl, rfl, mem_jobStatuses_iff j⟩, fun exec c e => ⟨?_, ?_⟩, ?_, ?_⟩
  · exact recordBytes_status exec c e
  · exact recordBytes_conds exec c e
  · decide
  · decide

end Sys2Proof.Machine
end

section
/-!
SUPPORT. The rows that act on a running module only: each is its own change of the module, and what the changes of the control registers
come to.
-/
namespace Sys2Proof.Machine

/-- A row that acts while the module runs changes a running module as its own effect says. -/
theorem becomes_of_whileLive {i : Instr} {s : State} (hl : live s.sys = true) (f : Sys → Sys) (h : exec i s = done s (whileLive f)) :
    Becomes i s (f s.sys) := by
  rw [Becomes, h, done_next, whileLive_live f s.sys hl]

/-! ### The control registers -/

/-- A write of PWR_CAP (R10, R25): a cap in range is taken and clears CAP_ERR where it may; any other sets CAP_ERR alone. -/
theorem writeCap_eq (v : Word) (m : Sys) : writeCap v m =
    let cap : BitVec 7 := v.extractLsb' 0 7
    if 30 ≤ cap.toNat ∧ cap.toNat ≤ 95 then
      onPower (fun p => { p with cap, capErr := p.capErr && !(v.getLsbD 8 && !setInTurn capAddr 8 m) }) m
    else noteSet capAddr 8 (onPower (fun p => { p with capErr := true }) m) := by
  unfold writeCap
  dsimp only
  by_cases hcap : 30 ≤ (v.extractLsb' 0 7).toNat ∧ (v.extractLsb' 0 7).toNat ≤ 95
  · have hbad : (decide ((v.extractLsb' 0 7).toNat < 30) || decide (95 < (v.extractLsb' 0 7).toNat)) = false := by
      simpa only [Bool.or_eq_false_iff, decide_eq_false_iff_not, Nat.not_lt] using hcap
    rw [if_pos hcap]
    simp only [hbad, onlyIf_false, Bool.false_eq_true, if_false, Bool.false_or]
  · have hbad : (decide ((v.extractLsb' 0 7).toNat < 30) || decide (95 < (v.extractLsb' 0 7).toNat)) = true := by
      simp only [Bool.or_eq_true, decide_eq_true_eq]
      omega
    rw [if_neg hcap]
    simp only [hbad, onlyIf_true, if_true, Bool.true_or]

/-- A write of the port mask (R48), with its tests as propositions. -/
theorem setDisable_eq (mask : BitVec 8) (m : Sys) : setDisable mask m =
    forEach (List.range 8) (fun p m =>
      if mask.getLsbD p = true ∧ (portOf m p).train ≠ .disabled then
        leaveRouting p (onPort p (fun x => { x with train := .disabled, lanes := 0, resend := [], stalled := 0 }) m)
      else if mask.getLsbD p = false ∧ (portOf m p).train = .disabled then fullTraining p m
      else m) (onFabric (fun x => { x with portDisable := mask }) m) := by
  simp only [setDisable, Bool.and_eq_true, bne_iff_ne, beq_iff_eq, Bool.not_eq_true']

/-- A write of the service mask (R307): the services to disable are those named that were not named before. -/
theorem serviceCtrl_eq (mask : BitVec 3) (m : Sys) : serviceCtrl mask m =
    forEach ((List.range 3).filter fun i => mask.getLsbD i && !m.jobs.svcOff.getLsbD i) (fun i => disableOne (i + 1))
      (onJobs (fun x => { x with svcOff := mask }) m) := by
  have hfresh : ((List.range 3).filter fun i => (mask &&& ~~~m.jobs.svcOff).getLsbD i) =
      (List.range 3).filter fun i => mask.getLsbD i && !m.jobs.svcOff.getLsbD i := by
    refine List.filter_congr fun i hi => ?_
    simp [List.mem_range.1 hi]
  rw [serviceCtrl, hfresh]

/-- A running map starts a flush where none is in progress and class 3's critical action does not hold its programs (R362, R379). -/
theorem mayFlush_iff (m : Sys) (h : m.flash.mapState = 2) : mayFlush m = true ↔ m.flash.flushing = none ∧ flashHold m = false := by
  simp [mayFlush, mapRuns, h]

/-- MAP_FLUSH of a running map (R362). -/
theorem mapFlush_eq (m : Sys) (h : m.flash.mapState = 2) : (if mapRuns m then askFlush m else m) =
    if m.flash.flushing = none ∧ flashHold m = false then startFlush m else onFlash (fun x => { x with flushAsked := true }) m := by
  have hruns : mapRuns m = true := by simp [mapRuns, h]
  simp only [hruns, if_true, askFlush, mayFlush_iff m h]

/-- The roll that a key write has made due is computed (R216). -/
theorem computeRoll_due (m : Sys) (h : m.jobs.rollDue = true) : computeRoll m =
    let j := m.jobs
    onJobs (fun x => { x with
      rollValid := true, rollDue := false,
      rollOut := roll j.rollSeed (j.rollKey.extractLsb' 32 32) (j.rollKey.extractLsb' 0 32) j.rollElem.toNat j.rollNode }) m := by
  simp [computeRoll, onJobs, h]

/-- Settles O14: each row acts while the module runs, and its effect is the one that the lemmas above spell out. -/
theorem controlRegisterWrites : Obligations.ControlRegisterWrites := by
  unfold Obligations.ControlRegisterWrites
  intro s hl
  refine ⟨fun v => ?cap, fun mask => ?ports, fun mask => ?services, fun hmap => ?flush, ?checkpoint, fun on => ?pause, fun core => ?retest,
    fun hdue => ?roll⟩
  case cap =>
    have h := becomes_of_whileLive (i := .pwrCapWrite v) hl (writeCap v) rfl
    rwa [writeCap_eq] at h
  case ports =>
    have h := becomes_of_whileLive (i := .portDisable mask) hl (setDisable mask) rfl
    rwa [setDisable_eq] at h
  case services =>
    have h := becomes_of_whileLive (i := .serviceDisable mask) hl (serviceCtrl mask) rfl
    rwa [serviceCtrl_eq] at h
  case flush =>
    have h := becomes_of_whileLive (i := .mapFlush) hl (fun m => if mapRuns m then askFlush m else m) rfl
    rwa [mapFlush_eq s.sys hmap] at h
  case checkpoint => exact becomes_of_whileLive hl writeCheckpoint rfl
  case pause => exact becomes_of_whileLive hl (onHealth fun h => { h with pause := on }) rfl
  case retest => exact becomes_of_whileLive hl (askRetest core.toNat) rfl
  case roll =>
    have h := becomes_of_whileLive (i := .rollCompute) hl computeRoll rfl
    rwa [computeRoll_due s.sys hdue] at h

/-- Settles O15: each row acts while the module runs, and its effect is the clear of its own block. -/
theorem counterClears : Obligations.CounterClears := by
  unfold Obligations.CounterClears
  intro s hl
  exact ⟨becomes_of_whileLive hl clearFab rfl,
    fun core => becomes_of_whileLive hl (clearCore core.toNat) rfl,
    becomes_of_whileLive hl clearMig rfl,
    becomes_of_whileLive hl clearNum rfl,
    becomes_of_whileLive hl clearOp rfl,
    becomes_of_whileLive hl clearJob rfl,
    becomes_of_whileLive hl clearSrch rfl,
    becomes_of_whileLive hl clearMap rfl,
    becomes_of_whileLive hl clearEcc rfl,
    becomes_of_whileLive hl clearEvt rfl,
    becomes_of_whileLive hl clearReg rfl⟩

end Sys2Proof.Machine
end

section
/-!
SUPPORT. The effect of an input: every row of the table answers a next state, and its effect is the row's own change of the module.
-/
namespace Sys2Proof.Machine

/-- Every row is a change of the module alone: its effect. -/
theorem exec_eq_done_effect (i : Instr) (s : State) : exec i s = done s (effect i) := by
  cases i <;> rfl

/-- The effect of a row is the change by which its meaning is given. -/
theorem effect_eq_of_exec {i : Instr} {f : Sys → Sys} (h : ∀ s, exec i s = done s f) : effect i = f := by
  funext m
  simp only [effect, h, done_next]

/-- What an input makes of a state is its effect on the module. -/
theorem becomes_iff_effect {i : Instr} {s : State} {m : Sys} : Becomes i s m ↔ effect i s.sys = m := by
  rw [Becomes, exec_eq_done_effect, done_next]
  constructor
  · intro h
    injection h with h
    injection h
  · rintro rfl
    rfl

/-- A row makes of a state what its change makes of the module. -/
theorem becomes_of_done {i : Instr} {s : State} {f : Sys → Sys} {m : Sys} (h : exec i s = done s f) (hf : f s.sys = m) :
    Becomes i s m := by
  rw [Becomes, h, done_next, hf]

/-- A row that acts while the module runs makes of a running module what its effect does. -/
theorem becomes_of_running {i : Instr} {s : State} {f : Sys → Sys} {m : Sys} (hl : live s.sys = true)
    (h : exec i s = done s (whileLive f)) (hf : f s.sys = m) : Becomes i s m :=
  hf ▸ becomes_of_whileLive hl f h

/-- An event's row makes of a running module what its effect does once the event is counted. -/
theorem becomes_of_event {i : Instr} {s : State} {pos : Nat} {f : Sys → Sys} {m : Sys} (hl : live s.sys = true)
    (h : exec i s = done s (asEvent pos f)) (hf : f (takeEvent pos s.sys) = m) : Becomes i s m :=
  becomes_of_done h ((asEvent_live pos f s.sys hl).trans hf)

/-- A step answers a next state: the effect of the input in front, or with none a turn. -/
theorem step_next (s : State) : ∃ t, step s = .next t := by
  unfold step
  split
  · exact ⟨_, rfl⟩
  · exact ⟨_, exec_eq_done_effect _ _⟩

/-- Any number of steps answers a next state. -/
theorem safeRun (k : Nat) (s : State) : SafeRun k s := by
  induction k generalizing s with
  | zero => exact ⟨s, rfl⟩
  | succ k ih =>
    obtain ⟨t, ht⟩ := step_next s
    obtain ⟨u, hu⟩ := ih t
    exact ⟨u, by rw [steps, ht]; exact hu⟩

/-- Settles O2: each row is a change of the module, and a run is safe by induction on its steps. -/
theorem everyInputIsAnswered : Obligations.EveryInputIsAnswered := by
  unfold Obligations.EveryInputIsAnswered
  exact ⟨fun i s => ⟨effect i s.sys, exec_eq_done_effect i s, trivial⟩, safeRun⟩

end Sys2Proof.Machine
end

section
/-!
SUPPORT. Commands: each command's row runs its command, and what holds a command back (R32, R121, R409, R427).
-/
namespace Sys2Proof.Machine

/-- The row of a command runs its command block. -/
theorem exec_of_command {i : Instr} {c : Cmd} (h : commandOf i = some c) : ∃ f, ∀ s, exec i s = done s (asCommand c f) := by
  cases i <;> cases h <;> exact ⟨_, fun _ => rfl⟩

/-- No command runs on a module that does not run. -/
theorem asCommand_not_live (c : Cmd) (f : Sys → Sys) (m : Sys) (h : live m = false) : asCommand c f m = m := by
  simp [asCommand, h]

/-- No command runs in a stage that is neither SERVING nor the recovery loader's (R409). -/
theorem asCommand_early (c : Cmd) (f : Sys → Sys) (m : Sys) (hs : m.boot.stage ≠ stageServing) (hl : m.boot.stage ≠ stageLoader) :
    asCommand c f m = m := by
  simp [asCommand, hs, hl]

/-- The recovery loader ends a command that is not on its list with BAD_COMMAND (R427). -/
theorem asCommand_loader_refuses (c : Cmd) (f : Sys → Sys) (m : Sys) (hl : live m = true) (hs : m.boot.stage = stageLoader)
    (hc : loaderOpcodes.contains c.opcode = false) : asCommand c f m = endWith c stBadCommand m := by
  unfold asCommand
  rw [if_neg (by simp [hl]), if_pos hs, if_neg (Bool.eq_false_iff.1 hc)]

/-- At rest in P2 a command other than POWER_STATE starts, waits, and begins the exit to P1 (R32, R121). -/
theorem asCommand_p2 (c : Cmd) (f : Sys → Sys) (m : Sys) (hl : live m = true) (hs : m.boot.stage = stageServing)
    (hp : m.power.current = 2) (he : m.power.entry = none) (hc : c.opcode ≠ 0x08) : asCommand c f m =
    onPower (fun p => { p with waitExit := p.waitExit ++ [c], exiting := true, inTransition := true, target := 1 }) (startCmd c m) := by
  unfold asCommand
  rw [if_neg (by simp [hl]), if_neg (by rw [hs]; decide), if_neg (by simp [hs]), if_pos ⟨hp, by rw [he]; rfl, hc⟩]

/-- Settles O51: every command's row runs its command block, which each of the three conditions holds back in its own way. -/
theorem noCommandBeforeServing : Obligations.NoCommandBeforeServing := by
  unfold Obligations.NoCommandBeforeServing
  intro i c s hc
  obtain ⟨f, hf⟩ := exec_of_command hc
  refine ⟨fun h => becomes_of_done (hf s) ?_, fun hl hs hop => becomes_of_done (hf s) ?_,
    fun hl hs hp he hop => becomes_of_done (hf s) ?_⟩
  · obtain hl | ⟨hs, hld⟩ := h
    · exact asCommand_not_live c f _ hl
    · exact asCommand_early c f _ hs hld
  · exact asCommand_loader_refuses c f _ hl hs hop
  · exact asCommand_p2 c f _ hl hs hp he hop

end Sys2Proof.Machine
end

section
/-!
SUPPORT. A module that neither runs nor is in its hold-up sequence: which rows act on it at all, and what they keep (R21 to R24, R30, R34,
R36, R40).
-/
namespace Sys2Proof.Machine

/-! ### The guards of the rows -/

/-- `f` does nothing on a module that neither runs nor is in its hold-up sequence. -/
def IdleWhenOff (f : Sys → Sys) : Prop := ∀ m, live m = false → inHoldup m = false → f m = m

/-- On a module that neither runs nor is in its hold-up sequence `f` changes at most the list of
blocks that the streams have passed up. -/
def StillWhenOff (f : Sys → Sys) : Prop :=
  ∀ m, live m = false → inHoldup m = false → ∃ t, f m = onFabric (fun x => { x with taken := t }) m

theorem idleWhenOff_whileLive (f : Sys → Sys) : IdleWhenOff (whileLive f) := fun m hl _ => whileLive_not_live f m hl

theorem idleWhenOff_asEvent (pos : Nat) (f : Sys → Sys) : IdleWhenOff (asEvent pos f) := fun m hl hh => by
  simp [asEvent, hl, hh]

theorem idleWhenOff_asCommand (c : Cmd) (f : Sys → Sys) : IdleWhenOff (asCommand c f) := fun m hl _ => asCommand_not_live c f m hl

theorem idleWhenOff_onOrHoldup (f : Sys → Sys) : IdleWhenOff fun m => if live m || inHoldup m then f m else m := fun m hl hh => by
  simp [hl, hh]

theorem idleWhenOff_onElseHoldup (f g : Sys → Sys) : IdleWhenOff fun m => if live m then f m else if inHoldup m then g m else m :=
  fun m hl hh => by simp [hl, hh]

theorem idleWhenOff_descRowWith (op : Byte) (task : BitVec 16) (d : Desc) (g : Nat → Nat → Desc → Shape → Sys → Sys) :
    IdleWhenOff (descRowWith op task d g) := fun m hl _ => by
  simp [descRowWith, hl]

theorem StillWhenOff.of_idle {f : Sys → Sys} (h : IdleWhenOff f) : StillWhenOff f := fun m hl hh => ⟨m.fabric.taken, h m hl hh⟩

/-- Taking a block from the link first leaves what is done with it to do nothing. -/
theorem StillWhenOff.of_consumed {f : Sys → Sys} (b : Block) (h : IdleWhenOff f) : StillWhenOff fun m => f (consumed b m) :=
  fun m hl hh => ⟨m.fabric.taken.erase b, h (consumed b m) hl hh⟩

/-! ### The rows, by their guard -/

theorem stillWhenOff_effect_idle {i : Instr} {f : Sys → Sys} (h : ∀ s, exec i s = done s f) (hf : IdleWhenOff f) :
    StillWhenOff (effect i) :=
  effect_eq_of_exec h ▸ .of_idle hf

theorem stillWhenOff_effect_consumed {i : Instr} {f : Sys → Sys} {b : Block} (h : ∀ s, exec i s = done s fun m => f (consumed b m))
    (hf : IdleWhenOff f) : StillWhenOff (effect i) :=
  effect_eq_of_exec h ▸ .of_consumed b hf

theorem stillWhenOff_of_command {i : Instr} {c : Cmd} {f : Sys → Sys} (h : ∀ s, exec i s = done s (asCommand c f)) :
    StillWhenOff (effect i) :=
  stillWhenOff_effect_idle h (idleWhenOff_asCommand c f)

theorem stillWhenOff_of_event {i : Instr} {pos : Nat} {f : Sys → Sys} (h : ∀ s, exec i s = done s (asEvent pos f)) :
    StillWhenOff (effect i) :=
  stillWhenOff_effect_idle h (idleWhenOff_asEvent pos f)

theorem stillWhenOff_of_running {i : Instr} {f : Sys → Sys} (h : ∀ s, exec i s = done s (whileLive f)) : StillWhenOff (effect i) :=
  stillWhenOff_effect_idle h (idleWhenOff_whileLive f)

theorem stillWhenOff_of_descriptor {i : Instr} {op : Byte} {task : BitVec 16} {d : Desc}
    {g : Nat → Nat → Desc → Shape → Sys → Sys} (h : ∀ s, exec i s = done s (descRowWith op task d g)) :
    StillWhenOff (effect i) :=
  stillWhenOff_effect_idle h (idleWhenOff_descRowWith op task d g)

/-! ### Rows with a guard of their own -/

theorem not_regsOpen_of_not_live {m : Sys} (h : live m = false) : regsOpen m = false := by simp [regsOpen, h]

theorem not_readOpen_of_not_live (a : Nat) {m : Sys} (h : live m = false) : readOpen a m = false := by simp [readOpen, regsOpen, h]

theorem not_rookServes_of_not_live {m : Sys} (h : live m = false) : rookServes m = false := by simp [rookServes, h]

/-- A module outside its hold-up sequence is in none of its phases. -/
theorem run_of_not_inHoldup {m : Sys} (h : inHoldup m = false) :
    m.power.run ≠ .holdPrograms ∧ m.power.run ≠ .holdFlush ∧ m.power.run ≠ .holdLedger := by
  simpa [inHoldup, and_assoc] using h

theorem stillWhenOff_regWriteIn (b : Block) : StillWhenOff (regWriteIn b) :=
  .of_consumed (f := fun m => if regsOpen m then writeAt b.target.toNat (writtenWord b) m else m) b fun m hl _ => by
    simp [not_regsOpen_of_not_live hl]

theorem stillWhenOff_regReadIn (b : Block) : StillWhenOff (regReadIn b) := fun m hl _ =>
  ⟨m.fabric.taken.erase b, by simp only [regReadIn, not_readOpen_of_not_live _ (show live (consumed b m) = false from hl)]; rfl⟩

theorem stillWhenOff_readResponse (b : Block) : StillWhenOff (readResponse b) := fun m hl _ =>
  ⟨m.fabric.taken.erase b, by simp only [readResponse, show live (consumed b m) = false from hl]; rfl⟩

theorem stillWhenOff_taskWrite (port : Nat) (b : Block) : StillWhenOff (taskWrite port b) := fun m hl hh =>
  ⟨m.fabric.taken.erase b, by unfold taskWrite; exact idleWhenOff_asEvent _ _ (consumed b m) hl hh⟩

theorem stillWhenOff_completionArrives (b : Block) : StillWhenOff (completionArrives b) := fun m hl hh =>
  ⟨m.fabric.taken.erase b, by unfold completionArrives; exact idleWhenOff_asEvent _ _ (consumed b m) hl hh⟩

theorem stillWhenOff_completionBlockArrives (b : Block) : StillWhenOff (completionBlockArrives b) := fun m hl hh => by
  unfold completionBlockArrives
  split
  · exact StillWhenOff.of_consumed b (idleWhenOff_asEvent _ _) m hl hh
  · exact stillWhenOff_completionArrives b m hl hh

theorem stillWhenOff_relayAnswer (b : Block) : StillWhenOff (relayAnswer b) := fun m hl _ =>
  ⟨m.fabric.taken.erase b, by simp only [relayAnswer, show live (consumed b m) = false from hl]; rfl⟩

theorem stillWhenOff_writeAck (b : Block) : StillWhenOff (writeAck b) := fun m hl hh => by
  unfold writeAck
  split
  next s _ =>
    dsimp only
    split
    · exact StillWhenOff.of_consumed b (idleWhenOff_whileLive _) m hl hh
    · exact ⟨_, rfl⟩
  · exact stillWhenOff_relayAnswer b m hl hh

theorem idleWhenOff_taskFree (e reg : Nat) : IdleWhenOff (taskFree e reg) := fun m hl hh => by
  unfold taskFree
  split
  · split
    · exact idleWhenOff_asEvent _ _ m hl hh
    · rfl
  · rfl

theorem idleWhenOff_commandDispatch : IdleWhenOff commandDispatch := fun m hl _ => by
  simp [commandDispatch, not_rookServes_of_not_live hl]

theorem idleWhenOff_retrainFails (stack : Nat) : IdleWhenOff (retrainFails stack) := fun m hl hh => by
  simp [retrainFails, hl, hh]

theorem idleWhenOff_programsDone : IdleWhenOff programsDone := fun m _ hh => by
  simp [programsDone, (run_of_not_inHoldup hh).1]

theorem idleWhenOff_finalFlushDone : IdleWhenOff finalFlushDone := fun m _ hh => by
  simp [finalFlushDone, (run_of_not_inHoldup hh).2.1]

theorem idleWhenOff_holdupEnds : IdleWhenOff holdupEnds := fun m _ hh => by
  simp [holdupEnds, (run_of_not_inHoldup hh).2.2]

theorem idleWhenOff_exhausted : IdleWhenOff exhausted := fun m _ hh => by
  simp [exhausted, hh]

theorem idleWhenOff_thermalReached (cls idx : Nat) (temp : Int) : IdleWhenOff (thermalReached cls idx temp) := fun m hl hh => by
  unfold thermalReached
  split
  · rfl
  · exact idleWhenOff_asEvent _ _ m hl hh

theorem idleWhenOff_sensorCrosses (cls idx : Nat) (temp : Int) : IdleWhenOff (sensorCrosses cls idx temp) := fun m hl hh => by
  unfold sensorCrosses
  split
  · exact idleWhenOff_thermalReached cls idx temp m hl hh
  · exact idleWhenOff_whileLive _ m hl hh

/-- The rows that are not of the input, the management pins or the restart leave a module that is off as it is. -/
theorem stillWhenOff_effect {i : Instr} (h : actsWhenOff i = false) : StillWhenOff (effect i) := by
  cases i with
  | nop | read | write | powerState | abortTag | jobSubmit | jobEnd | jobQuery | ctxOpen | ctxClose | indexCreate | indexDrop
  | indexQuery | search | indexInsert | indexDelete | indexMerge | tensorCreate | tensorDelete | tensorMove | tensorDrop | tensorPin
  | tensorUnpin | tensorSeal | sealAppend | sealClose | tensorQuery | nsCreate | nsDelete | nsQuery | mediaQuery | mediaFlush | fwQuery
  | fwLoad | fwVerify | fwCommit | fwActivate | fwFetch | fwDiscard | attest | certRead | calRead | cfgRead | cfgWrite | healthQuery
  | ledgerRead | ledgerMark | ledgerCheckpoint | healthSelftest =>
    exact stillWhenOff_of_command fun _ => rfl
  | completionResend | relayModuleLost | holdupMeasurement | capPeriod | pwrInputRefresh | thermalSecond | opticsCooldown | entryAbandon
  | startupWatchdog | activationReset | loaderRetry | streamResendTimeout | streamClose | controlReissue | collScaleTimeout | election
  | discoveryDone | routeStageExpire | hostPortFailover | rookHandover | memberUnreachable | leaseGrantTimeout | leaseIdleRelease
  | recallLate | lenderUnreachable | borrowerUnreachable | fabricReset | jobFault | collectiveTimeout | shardTimeout | journalFlush
  | mapPageWriteback | suspendWindowEnd | eraseForcedStart | scrubSlow | hourlyCheckpoint | lifeLeftUpdate | istTick
  | bootSuspendWindowEnd =>
    exact stillWhenOff_of_event fun _ => rfl
  | matmul | hamming | ewArray | sketch | ew | norm | softmax | reduce | convert | move | gather | scatter | scatterAdd | relayout
  | transpose | topk | select | allreduce | allgather | filter | scan | descNop | emit | tCreate | tDelete | tMove | tDrop | tPin
  | tUnpin | tSeal | tAppend | tClose =>
    exact stillWhenOff_of_descriptor fun _ => rfl
  | taskWrite port b => exact stillWhenOff_taskWrite port.toNat b
  | collScale b | collData b | collRaw b => exact stillWhenOff_effect_consumed (fun _ => rfl) (idleWhenOff_whileLive _)
  | completion b => exact stillWhenOff_completionBlockArrives b
  | tensorWriteAck b => exact stillWhenOff_writeAck b
  | regWrite b | groupWindowWrite b => exact stillWhenOff_regWriteIn b
  | regRead b | groupWindowRead b => exact stillWhenOff_regReadIn b
  | regReadResp b => exact stillWhenOff_readResponse b
  | commandDispatch => exact .of_idle idleWhenOff_commandDispatch
  | taskRegisterFree ep reg => exact .of_idle (idleWhenOff_taskFree ep.toNat reg.toNat)
  | holdupProgramsDone => exact .of_idle idleWhenOff_programsDone
  | finalJournalFlushDone => exact .of_idle idleWhenOff_finalFlushDone
  | holdupLedgerDone => exact .of_idle idleWhenOff_holdupEnds
  | holdupExhaustion => exact .of_idle idleWhenOff_exhausted
  | stackRetrainTimeout stack => exact .of_idle (idleWhenOff_retrainFails stack.val)
  | sensorThreshold cls idx temp => exact .of_idle (idleWhenOff_sensorCrosses cls.val idx.toNat temp)
  | thermalCritical cls idx temp => exact .of_idle (idleWhenOff_thermalReached cls.val idx.toNat temp)
  | flashProgramDone | bootOpDone | stackPhyLoss => exact .of_idle (idleWhenOff_onOrHoldup _)
  | thermalShutdown | uncorrectableDataError => exact .of_idle (idleWhenOff_onElseHoldup _ _)
  | stackRetrainDone stack =>
    refine .of_idle fun m hl hh => ?_
    change (if (live m || inHoldup m) && retrains m stack.val then retrainDone stack.val m else m) = m
    simp [hl, hh]
  | istTestDone unit fail =>
    refine .of_idle fun m hl hh => ?_
    change (if live m then istTestDone unit fail m else if inHoldup m && fail.isSome then takeEvent 5 m else m) = m
    simp [hl, hh]
  | emergencyPowerOffArm | emergencyPowerOff | epoArmTimeout | i2cRestart | vinPreMate | prechargeEnd | vinStart | inputLow1s | powerFail
  | holdupRestart | inputInterruption => cases h
  | _ => exact stillWhenOff_of_running fun _ => rfl

/-- Settles O50: every row that is not of the input, the management pins or the restart is guarded by a running module or by its hold-up
sequence, and takes from the link at most the block that it is about. -/
theorem offModuleIsStill : Obligations.OffModuleIsStill := by
  unfold Obligations.OffModuleIsStill
  intro i s hl hh hi
  exact ⟨effect i s.sys, exec_eq_done_effect i s, stillWhenOff_effect hi s.sys hl hh⟩

end Sys2Proof.Machine
end

section
/-!
SUPPORT. What events, notices and changes of the ports leave unchanged: the power chapter's state, and for an event the start's (R48, R437,
R443).
-/
namespace Sys2Proof.Machine

/-! ### Events and notices -/

@[simp] theorem takeEvent_power (pos : Nat) (m : Sys) : (takeEvent pos m).power = m.power := by
  simp only [takeEvent, addTotal, apply_ite Sys.power, onHealth_power, ite_self]

@[simp] theorem takeEvent_boot (pos : Nat) (m : Sys) : (takeEvent pos m).boot = m.boot := by
  simp only [takeEvent, addTotal, apply_ite Sys.boot, onHealth_boot, ite_self]

theorem queueNotice_power (code sev : Nat) (detail : List Byte) (m : Sys) : (queueNotice code sev detail m).power = m.power := by
  simp only [queueNotice, apply_ite Sys.power, onHealth_power, ite_self]

theorem notice_power (code sev : Nat) (detail : List Byte) (m : Sys) : (notice code sev detail m).power = m.power := by
  simp only [notice, apply_ite Sys.power, queueNotice_power, ite_self]
  exact onlyIf_keeps Sys.power _ (ledgerRec _ _ _) (fun _ => rfl) m

/-! ### Ports -/

theorem sends_flood (m : Sys) : sends m (flood m) := sends_forEach _ (fun p n => sends_toPort p _ n) _ m

theorem leaveRouting_power (p : Nat) (m : Sys) : (leaveRouting p m).power = m.power := by
  unfold leaveRouting
  split
  · rfl
  · obtain ⟨-, -, hpower, -⟩ := sends_frame (sends_flood _)
    exact hpower

theorem fullTraining_power (p : Nat) (m : Sys) : (fullTraining p m).power = m.power := by
  rw [fullTraining, leaveRouting_power]
  exact notice_power _ _ _ _

theorem setDisable_power (mask : BitVec 8) (m : Sys) : (setDisable mask m).power = m.power := by
  refine forEach_keeps Sys.power _ _ (fun p n => ?_) _
  dsimp only
  split
  · exact leaveRouting_power p _
  · split
    · exact fullTraining_power p n
    · rfl

end Sys2Proof.Machine
end

section
/-!
SUPPORT. GLB.PWR_CAP: its word, and the settings from which a start loads the cap (R25, R412, R413).
-/
namespace Sys2Proof.Machine

/-! ### The register's word -/

/-- The number that GLB.PWR_CAP reads: CAP from bit 0 and CAP_ERR at bit 8. -/
theorem readReg_pwrCap (m : Sys) : readReg 0x1000 m = some (word [flagAt m.power.capErr 8, m.power.cap.toNat]) := rfl

/-- A word of CAP and CAP_ERR as a number. -/
theorem capWord_toNat (e : Bool) (c : BitVec 7) : (word [flagAt e 8, c.toNat]).toNat = 256 * e.toNat + c.toNat := by
  have hc := c.isLt
  cases e <;> simp [word, flagAt] <;> omega

/-- CAP is read in bits [6:0]. -/
theorem capWord_cap (e : Bool) (c : BitVec 7) : (word [flagAt e 8, c.toNat]).extractLsb' 0 7 = c := by
  apply BitVec.eq_of_toNat_eq
  have hc := c.isLt
  rw [BitVec.extractLsb'_toNat, capWord_toNat, Nat.shiftRight_zero]
  omega

/-- A bit of the word by the number's division. -/
theorem capWord_getLsbD (e : Bool) (c : BitVec 7) (i : Nat) :
    (word [flagAt e 8, c.toNat]).getLsbD i = decide ((256 * e.toNat + c.toNat) / 2 ^ i % 2 = 1) := by
  rw [BitVec.getLsbD, capWord_toNat, Nat.testBit_eq_decide_div_mod_eq]

/-- CAP_ERR is read in bit 8. -/
theorem capWord_capErr (e : Bool) (c : BitVec 7) : (word [flagAt e 8, c.toNat]).getLsbD 8 = e := by
  have hc := c.isLt
  rw [capWord_getLsbD]
  cases e <;> simp <;> omega

/-- Bit 7 reads zero. -/
theorem capWord_bit7 (e : Bool) (c : BitVec 7) : (word [flagAt e 8, c.toNat]).getLsbD 7 = false := by
  have hc := c.isLt
  rw [capWord_getLsbD]
  cases e <;> simp <;> omega

/-- Bits [63:9] read zero. -/
theorem capWord_high (e : Bool) (c : BitVec 7) : (word [flagAt e 8, c.toNat]).extractLsb' 9 55 = 0 := by
  apply BitVec.eq_of_toNat_eq
  have hc := c.isLt
  have he := e.toNat_le
  rw [BitVec.extractLsb'_toNat, capWord_toNat, Nat.shiftRight_eq_div_pow]
  simp
  omega

/-! ### The settings of a start -/

/-- A settings block in range gives a cap that a write may set (R413). -/
theorem cap_range_of_settingsGood {l : List Byte} (h : settingsGood l = true) : 30 ≤ leAt l 2 1 ∧ leAt l 2 1 ≤ 95 := by
  simp only [settingsGood, Bool.and_eq_true, decide_eq_true_eq] at h
  omega

theorem settingsGood_of_copyGood {l : List Byte} (h : copyGood l = true) : settingsGood (bytesAt l 16 16) = true := by
  simp only [copyGood, Bool.and_eq_true] at h
  exact h.2

/-- The copy that a start uses is valid (R412). -/
theorem copyGood_of_chooseCopy {b : Boot} {second : Bool} (h : chooseCopy b = some second) :
    copyGood (if second then b.cfg1 else b.cfg0) = true := by
  unfold chooseCopy at h
  split at h
  next h0 h1 => cases second <;> simp [h0, h1]
  next h0 h1 => cases h; exact h0
  next h0 h1 => cases h; exact h1
  next => cases h

/-- Whichever settings a start uses, a valid copy's or the defaults, they are in range (R412, R413). -/
theorem settingsGood_chosenSettings (b : Boot) : settingsGood (chosenSettings b) = true := by
  unfold chosenSettings
  split
  next h => exact settingsGood_of_copyGood (copyGood_of_chooseCopy h)
  next h => exact settingsGood_of_copyGood (copyGood_of_chooseCopy h)
  next => decide

/-- The cap that a start loads is that of its settings. -/
theorem loadSettings_cap (m : Sys) : (loadSettings m).power.cap = BitVec.ofNat 7 (leAt (chosenSettings m.boot) 2 1) := by
  rw [loadSettings, setDisable_power]
  rfl

theorem capSound_loadSettings (m : Sys) : capSound (loadSettings m) := by
  have h := cap_range_of_settingsGood (settingsGood_chosenSettings m.boot)
  rw [capSound, loadSettings_cap, BitVec.toNat_ofNat]
  omega

/-- Settles O52: the word bit by bit, a write by what `writeCap` does in and out of range, a start by the range of its settings. -/
theorem powerCapRegister : Obligations.PowerCapRegister := by
  unfold Obligations.PowerCapRegister
  refine ⟨rfl, fun m => ⟨_, readReg_pwrCap m, capWord_cap _ _, capWord_capErr _ _, capWord_bit7 _ _, capWord_high _ _⟩,
    fun s v hl => ?write, fun m => ⟨loadSettings_cap m, capSound_loadSettings m⟩, by decide, by decide⟩
  case write =>
    have h := becomes_of_whileLive (i := .pwrCapWrite v) hl (writeCap v) rfl
    refine ⟨fun hlo hhi => ?_, fun hout => ?_, h⟩
    · rwa [writeCap_eq, if_pos ⟨hlo, hhi⟩] at h
    · rwa [writeCap_eq, if_neg (by omega)] at h

end Sys2Proof.Machine
end

section
/-!
SUPPORT. The management pins and the input: what a write of the pins does case by case, and when a module starts (R21 to R24, R31, R36).
-/
namespace Sys2Proof.Machine

/-! ### Emergency power-off (R22) -/

/-- The module once emergency power-off has fired: not armed, latched, its switch open. -/
def epoFired : Sys → Sys := onPower fun p => { p with epoArmed := false, epoLatch := true, path := .opened }

/-- Fired on a running module, emergency power-off is a power-fail event. -/
theorem fireEpo_live {m : Sys} (h : live m = true) : fireEpo m = powerFail .emergencyOff (epoFired m) := if_pos h

/-- Fired in a hold-up sequence, it is counted. -/
theorem fireEpo_holdup {m : Sys} (hl : live m = false) (hh : inHoldup m = true) : fireEpo m = takeEvent 0 (epoFired m) :=
  (if_neg (Bool.eq_false_iff.1 hl)).trans (if_pos hh)

/-- Fired on any other module, it leads to the off state. -/
theorem fireEpo_off {m : Sys} (hl : live m = false) (hh : inHoldup m = false) :
    fireEpo m = cleared (onPower (fun p => { p with run := .off }) (epoFired m)) :=
  (if_neg (Bool.eq_false_iff.1 hl)).trans (if_neg (Bool.eq_false_iff.1 hh))

/-! ### Starts (R22 to R24, R31) -/

/-- The switch may join VIN once it has mated and outside the pre-charge period (R24). -/
theorem switchMay_iff (m : Sys) : switchMay m = true ↔ m.power.path = .opened ∨ m.power.path = .closed := by
  simp [switchMay]

/-- 0x5A starts a module whose switch may join VIN, and which is latched off or in P3. -/
theorem restartable_iff (m : Sys) : restartable m = true ↔ (m.power.path = .opened ∨ m.power.path = .closed) ∧
    ((m.power.epoLatch = true ∧ m.power.run = .off) ∨ m.power.run = .offline) := by
  rw [restartable, Bool.and_eq_true, switchMay_iff]
  simp

/-- A rise of the input starts a module that may be started by it. -/
theorem vinRises_starts {mv : Nat} {m : Sys} (hv : 47000 ≤ mv) (hlatch : m.power.epoLatch = false)
    (hjoin : m.power.path = .opened ∨ m.power.path = .closed)
    (hrun : m.power.run = .off ∨ (m.power.run = .offline ∧ m.power.lowForSecond = true)) : vinRises mv m = startUp 0 m :=
  if_pos ⟨hv, hlatch, (switchMay_iff m).2 hjoin, hrun⟩

/-! ### A write of the management pins (R21, R22) -/

/-- The module with the offset pointer where a write has put it. -/
def aimedAt (offset : Byte) : Sys → Sys := onPower fun p => { p with i2cOffset := offset }

/-- 0xE5 at 0x40 arms. -/
theorem i2cWrite_arms (m : Sys) : i2cWrite 0x40 0xE5 m = onPower (fun p => { p with epoArmed := true }) (aimedAt 0x40 m) := rfl

/-- 0x5E at 0x40 fires what is armed. -/
theorem i2cWrite_fires {m : Sys} (h : m.power.epoArmed = true) : i2cWrite 0x40 0x5E m = fireEpo (aimedAt 0x40 m) :=
  if_pos ⟨rfl, rfl, h⟩

/-- 0x5A at 0x41 starts. -/
theorem i2cWrite_starts (m : Sys) : i2cWrite 0x41 0x5A m = i2cStart (aimedAt 0x41 m) := rfl

/-- Any other write disarms. -/
theorem i2cWrite_disarms {offset value : Byte} {m : Sys} (harm : ¬ (offset = 0x40 ∧ value = 0xE5))
    (hfire : ¬ (offset = 0x40 ∧ value = 0x5E ∧ m.power.epoArmed = true)) (hstart : ¬ (offset = 0x41 ∧ value = 0x5A)) :
    i2cWrite offset value m = onPower (fun p => { p with epoArmed := false }) (aimedAt offset m) :=
  (if_neg harm).trans ((if_neg hfire).trans (if_neg hstart))

/-- Settles O16: each row by the case of the pins or of the input that its hypotheses name. -/
theorem managementAndInputRows : Obligations.ManagementAndInputRows := by
  unfold Obligations.ManagementAndInputRows
  intro s m started disarmed mayJoin mayRestart idle
  refine ⟨fun offset value => ⟨?arm, ?fire, ?start, ?other⟩, ⟨?off_live, ?off_holdup, ?off_idle, ?off_unarmed⟩, rfl,
    ?timeout, ?restart, ?insert_low, ?precharge, ?rise, ?wait⟩
  case arm =>
    rintro ⟨rfl, rfl⟩
    exact becomes_of_done rfl (i2cWrite_arms m)
  case fire =>
    rintro ⟨rfl, rfl, harmed⟩
    have hf : effect (.emergencyPowerOffArm 0x40 0x5E) m = fireEpo (aimedAt 0x40 m) := i2cWrite_fires harmed
    exact ⟨fun hl => becomes_iff_effect.2 (hf.trans (fireEpo_live hl)),
      fun ⟨hl, hh⟩ => becomes_iff_effect.2 (hf.trans (fireEpo_holdup hl hh)),
      fun ⟨hl, hh⟩ => becomes_iff_effect.2 (hf.trans (fireEpo_off hl hh))⟩
  case start =>
    rintro ⟨rfl, rfl⟩
    have hmay := restartable_iff (disarmed (aimedAt 0x41 m))
    exact ⟨fun h => becomes_of_done rfl ((i2cWrite_starts m).trans (if_pos (hmay.2 h))),
      fun h => becomes_of_done rfl ((i2cWrite_starts m).trans (if_neg (mt hmay.1 h)))⟩
  case other => exact fun harm hfire hstart => becomes_of_done rfl (i2cWrite_disarms harm hfire hstart)
  case off_live => exact fun ⟨harmed, hl⟩ => becomes_of_done rfl ((i2cWrite_fires harmed).trans (fireEpo_live hl))
  case off_holdup => exact fun ⟨harmed, hl, hh⟩ => becomes_of_done rfl ((i2cWrite_fires harmed).trans (fireEpo_holdup hl hh))
  case off_idle => exact fun ⟨harmed, hl, hh⟩ => becomes_of_done rfl ((i2cWrite_fires harmed).trans (fireEpo_off hl hh))
  case off_unarmed =>
    exact fun hnot => becomes_of_done rfl (i2cWrite_disarms (by decide) (fun ⟨_, _, harmed⟩ => by simp [m, hnot] at harmed) (by decide))
  case timeout => exact becomes_of_done rfl rfl
  case restart => exact fun h => becomes_of_done rfl (if_pos ((restartable_iff (disarmed m)).2 h))
  case insert_low =>
    rintro ⟨hl, hh⟩
    have hon : (live m || inHoldup m) = false := by rw [hl, hh]; rfl
    exact ⟨becomes_of_done rfl (if_neg (Bool.eq_false_iff.1 hon)), becomes_of_done rfl (if_neg (Bool.eq_false_iff.1 hon))⟩
  case precharge => exact fun vin h => becomes_of_done rfl (by simp [onPower, m, h])
  case rise => exact fun mv hv hlatch hjoin hrun => becomes_of_done rfl (vinRises_starts hv hlatch hjoin hrun)
  case wait => exact fun hw => ⟨becomes_of_done rfl (if_pos hw), fun mv hmv => becomes_of_done rfl (if_pos ⟨hw, hmv⟩)⟩

end Sys2Proof.Machine
end

section
/-!
SUPPORT. The power-fail event and the hold-up sequence: what a source does to the switch and the latch, and each phase's end (R23, R34,
R40, R398, R440).
-/
namespace Sys2Proof.Machine

/-! ### The power-fail event (R23, R34) -/

/-- The input is beyond the threshold of its source; emergency power-off and thermal shutdown always trip. -/
theorem trips_iff (src : PfSource) (mv : Nat) : trips src mv = true ↔
    (src = .inputLow → mv < 45000) ∧ (src = .inputHigh → 62000 < mv) := by
  cases src <;> simp [trips]

/-- What a source does to the switch and to the latch, before any event: an input too high opens a switch that may join VIN, and
emergency power-off opens and latches that of a module that is on. -/
def sourceSwitches (src : PfSource) (m : Sys) : Sys :=
  onPower (fun p => { p with
    path :=
      if (src = .inputHigh ∧ (p.path = .opened ∨ p.path = .closed)) ∨
          (src = .emergencyOff ∧ (live m = true ∨ inHoldup m = true)) then .opened else p.path,
    epoLatch := p.epoLatch || (decide (src = .emergencyOff) && decide (live m = true ∨ inHoldup m = true)) }) m

theorem takePowerFail_eq (src : PfSource) (m : Sys) : takePowerFail src m =
    if live m then powerFail src (sourceSwitches src m)
    else if inHoldup m then takeEvent 0 (sourceSwitches src m) else sourceSwitches src m := by
  have hon : (live m || inHoldup m) = decide (live m = true ∨ inHoldup m = true) := by simp
  have hsrc : (src == PfSource.emergencyOff) = decide (src = .emergencyOff) := by cases src <;> rfl
  have hs : onPower (fun p => { p with
      path :=
        if (src = .inputHigh ∧ switchMay m = true) ∨ (src = .emergencyOff ∧ (live m || inHoldup m) = true) then .opened else p.path,
      epoLatch := p.epoLatch || (src == .emergencyOff && (live m || inHoldup m)) }) m = sourceSwitches src m := by
    simp only [switchMay_iff, hon, hsrc, decide_eq_true_eq]
    rfl
  unfold takePowerFail
  rw [hs]
  rfl

/-- The row POWER_FAIL of a source that trips takes the power-fail event. -/
theorem becomes_powerFail {src : PfSource} {mv : Nat} {s : State} {m : Sys}
    (h : (src = .inputLow → mv < 45000) ∧ (src = .inputHigh → 62000 < mv)) (hm : takePowerFail src s.sys = m) :
    Becomes (.powerFail src mv) s m :=
  becomes_of_done rfl ((if_pos ((trips_iff src mv).2 h)).trans hm)

/-! ### The phases (R34, R398, R440) -/

theorem mapRuns_iff (m : Sys) : mapRuns m = true ↔ m.flash.mapState = 2 := by
  simp [mapRuns]

theorem programsDone_eq {m : Sys} (hr : m.power.run = .holdPrograms) (hp : m.flash.programs = []) : programsDone m =
    let n := onPower (fun p => { p with run := .holdFlush }) m
    if m.flash.mapState = 2 then startFlush (finishFlush 0 n) else n := by
  unfold programsDone
  rw [if_neg (by simp [hr, hp])]
  simp only [mapRuns_iff, onPower_flash]

theorem finalFlushDone_eq {m : Sys} (hr : m.power.run = .holdFlush) (hs : m.integrity.stackTab.all (·.2.state != 3) = true) :
    finalFlushDone m =
      let n := if m.flash.mapState = 2 then onFlash (fun x => { x with finalFlush := true }) (finishFlush 0 m) else m
      onPower (fun p => { p with run := .holdLedger, pfFlushTurns := now n - p.pfTurn }) n := by
  unfold finalFlushDone
  rw [if_neg (by simpa [hr] using hs)]
  simp only [mapRuns_iff]

/-- Settles O17: the power-fail event by the source's switches and the run state, each phase by its own end. -/
theorem holdUpSequence : Obligations.HoldUpSequence := by
  unfold Obligations.HoldUpSequence
  intro s m
  refine ⟨?source, ?programs, ?flush, ?ledger, ?exhaustion⟩
  case source =>
    intro src mv trip on n
    have hn : n = sourceSwitches src m := rfl
    rw [hn]
    refine ⟨fun ht hl => becomes_powerFail ht ?_, fun ht hl hh => becomes_powerFail ht ?_, fun ht hl hh => becomes_powerFail ht ?_,
      fun ht => becomes_of_done rfl (if_neg (mt (trips_iff src mv).1 ht))⟩
    · exact (takePowerFail_eq src m).trans (if_pos hl)
    · rw [takePowerFail_eq, hl, hh]
      rfl
    · rw [takePowerFail_eq, hl, hh]
      rfl
  case programs => exact fun hr hp => becomes_of_done rfl (programsDone_eq hr hp)
  case flush => exact fun hr hs => becomes_of_done rfl (finalFlushDone_eq hr hs)
  case ledger => exact fun hr => becomes_of_done rfl (if_neg (not_not_intro hr))
  case exhaustion => exact fun hh => becomes_of_done rfl (if_neg (by simp [m, hh]))

end Sys2Proof.Machine
end

section
/-!
SUPPORT. The latch of emergency power-off: every row keeps a latched module off but the restart and an input low for 1 s (R22, R23).
-/
namespace Sys2Proof.Machine

/-- A latched module neither runs nor is in its hold-up sequence. -/
theorem off_of_latched {m : Sys} (h : latched m) : live m = false ∧ inHoldup m = false := by
  obtain ⟨-, hrun⟩ := h
  simp [live, inHoldup, hrun]

/-- The latch is a matter of the power chapter's state. -/
theorem latched_of_power_eq {m n : Sys} (hp : n.power = m.power) (h : latched m) : latched n := by
  rwa [latched, hp]

/-- A change of the power chapter's state that leaves the latch and the run state keeps a latched module. -/
theorem latched_onPower {f : Power → Power} {m : Sys} (h : latched m) (hlatch : (f m.power).epoLatch = m.power.epoLatch)
    (hrun : (f m.power).run = m.power.run) : latched (onPower f m) :=
  ⟨hlatch.trans h.1, hrun.trans h.2⟩

/-- Emergency power-off fired on a module that is off leaves it latched. -/
theorem latched_fireEpo {m : Sys} (h : latched m) : latched (fireEpo m) := by
  obtain ⟨hl, hh⟩ := off_of_latched h
  rw [fireEpo_off hl hh]
  exact ⟨rfl, rfl⟩

/-- No write of the management pins but 0x5A at 0x41 ends the latch. -/
theorem latched_i2cWrite {offset value : Byte} {m : Sys} (h : latched m) (hstart : ¬ (offset = 0x41 ∧ value = 0x5A)) :
    latched (i2cWrite offset value m) := by
  have haim : latched (aimedAt offset m) := latched_onPower h rfl rfl
  by_cases harm : offset = 0x40 ∧ value = 0xE5
  · obtain ⟨rfl, rfl⟩ := harm
    rw [i2cWrite_arms]
    exact latched_onPower haim rfl rfl
  by_cases hfire : offset = 0x40 ∧ value = 0x5E ∧ m.power.epoArmed = true
  · obtain ⟨rfl, rfl, harmed⟩ := hfire
    rw [i2cWrite_fires harmed]
    exact latched_fireEpo haim
  · rw [i2cWrite_disarms harm hfire hstart]
    exact latched_onPower haim rfl rfl

/-- An insertion leaves a latched module off. -/
theorem latched_preMate {m : Sys} (h : latched m) : latched (preMate m) := by
  unfold preMate
  split
  · exact h
  · exact ⟨h.1, rfl⟩

/-- A rise of the input starts no latched module. -/
theorem vinRises_latched {m : Sys} (mv : Nat) (h : latched m) : vinRises mv m = m := by
  simp [vinRises, h.1]

/-- A source of power fail leaves a latched module off: it takes no power-fail event. -/
theorem latched_takePowerFail {m : Sys} (src : PfSource) (h : latched m) : latched (takePowerFail src m) := by
  obtain ⟨hl, hh⟩ := off_of_latched h
  rw [takePowerFail_eq, hl, hh]
  exact latched_onPower h (by simp [h.1]) rfl

/-- Of the rows that act on a module that is off, all but the restart and an input low for 1 s keep it latched. -/
theorem latched_effect {i : Instr} {m : Sys} (h : latched m) (hr : i ≠ .i2cRestart) (ha : i ≠ .emergencyPowerOffArm 0x41 0x5A)
    (hlow : i ≠ .inputLow1s) : latched (effect i m) := by
  cases hi : actsWhenOff i with
  | false =>
    obtain ⟨hl, hh⟩ := off_of_latched h
    obtain ⟨t, ht⟩ := stillWhenOff_effect hi m hl hh
    exact latched_of_power_eq (congrArg Sys.power ht) h
  | true =>
    cases i with
    | emergencyPowerOffArm offset value => exact latched_i2cWrite h fun ⟨ho, hv⟩ => ha (by rw [ho, hv])
    | emergencyPowerOff => exact latched_i2cWrite h (by decide)
    | epoArmTimeout => exact latched_onPower h rfl rfl
    | i2cRestart => exact absurd rfl hr
    | vinPreMate => exact latched_preMate h
    | prechargeEnd vin => exact latched_onPower h (by split <;> rfl) (by split <;> rfl)
    | vinStart mv =>
      change latched (vinRises mv m)
      rwa [vinRises_latched mv h]
    | inputLow1s => exact absurd rfl hlow
    | powerFail src mv =>
      change latched (if trips src mv then takePowerFail src m else m)
      split
      · exact latched_takePowerFail src h
      · exact h
    | holdupRestart =>
      change latched (if m.power.run = .waitInput then startUp 1 m else m)
      rwa [if_neg (by simp [h.2])]
    | inputInterruption mv =>
      change latched (if m.power.run = .waitInput ∧ 62000 < mv then onPower (fun p => { p with path := .opened }) m else m)
      rwa [if_neg (by simp [h.2])]
    | _ => cases hi

/-- A turn leaves a latched module as it is. -/
theorem turnPasses_latched {m : Sys} (h : latched m) : turnPasses m = m := by
  obtain ⟨hl, hh⟩ := off_of_latched h
  simp [turnPasses, hl, hh]

/-- Settles O59: a turn of a module that is off does nothing, and of the inputs only the two that R22 and R23 name end the latch. -/
theorem latchHoldsTheModuleOff : Obligations.LatchHoldsTheModuleOff := by
  unfold Obligations.LatchHoldsTheModuleOff
  intro s t h hstep hr ha hlow
  unfold step at hstep
  split at hstep
  next =>
    injection hstep with hstep
    rw [← hstep]
    exact latched_of_power_eq (congrArg Sys.power (turnPasses_latched h)) h
  next i rest hp =>
    rw [exec_eq_done_effect, done_next] at hstep
    injection hstep with hstep
    rw [← hstep]
    rw [hp, List.head?_cons] at hr ha hlow
    exact latched_effect h (fun e => hr (congrArg some e)) (fun e => ha (congrArg some e)) fun e => hlow (congrArg some e)

end Sys2Proof.Machine
end

section
/-!
SUPPORT. The hold-up store, the cap period and the input refresh (R24, R26, R28, R35, R41, R375, R468).
-/
namespace Sys2Proof.Machine

/-- A measurement begins in a charged store that is not measuring (R35). -/
theorem beginMeasure_begins {m : Sys} (hc : m.power.charged = true) (hs : m.power.storeState ≠ 4) :
    beginMeasure m = setStoreState 4 (onPower (fun p => { p with storeBefore := p.storeState }) m) :=
  if_pos (by simpa [hc] using hs)

/-- The first charge begins a measurement (R24). -/
theorem storeCharged_first {m : Sys} (hc : m.power.charged = false) (hs : m.power.storeState ≠ 4) :
    storeCharged m =
      setStoreState 4 (onPower (fun p => { p with storeBefore := p.storeState }) (onPower (fun p => { p with charged := true }) m)) :=
  (if_neg (Bool.eq_false_iff.1 hc)).trans (beginMeasure_begins rfl hs)

/-- The store is good from 14 J on (R35). -/
theorem storeFor_bne_three (e : Nat) : (storeFor e != 3) = decide (1400 ≤ e) := by
  unfold storeFor
  split
  · simp; omega
  · split <;> simp [*]

/-- The end of a measurement (R35): energy and totals, the store's state, and the read-only causes. -/
theorem measured_ends (e : BitVec 16) {m : Sys} (h : m.power.storeState = 4) : measured e m =
    let n := onPower (fun p => { p with energy := e, measured := true, storeUsable := decide (1400 ≤ e.toNat) }) m
    let n := setTotal 161 (if total 160 n = 0 then e.toNat else min (total 161 n) e.toNat) n
    let n := setStoreState (storeFor e.toNat) (setTotal 160 e.toNat n)
    if 1400 ≤ e.toNat then (if critAct 5 n then setCause 0 false n else setCause 1 false (setCause 0 false n))
    else sealsReadOnly (setCause 1 true n) := by
  unfold measured
  rw [if_neg (not_not_intro h)]
  simp only [storeFor_bne_three, decide_eq_true_eq]

/-- The input is refreshed once the RAILS stage has ended (R468); power above the cap's bound is told when it begins (R28). -/
theorem refreshInput_eq (vin iin pin : BitVec 16) {m : Sys} (h : m.boot.stage ≠ 0) : refreshInput vin iin pin m =
    let n := onPower (fun p => { p with vin, iin, pin, capUnmet := decide (capBound p.cap.toNat < pin.toNat) }) m
    if capBound m.power.cap.toNat < pin.toNat ∧ m.power.capUnmet = false then notice 0x18 1 (leBytes 2 pin.toNat) n else n := by
  unfold refreshInput
  rw [if_neg h]
  simp only [judgeCap, onlyIf, Bool.and_eq_true, decide_eq_true_eq, Bool.not_eq_true']
  rfl

/-- Settles O18: each row is a change of a running module, which the lemmas above spell out. -/
theorem storeAndCapRows : Obligations.StoreAndCapRows := by
  unfold Obligations.StoreAndCapRows
  intro s hl m ev
  have hev : ev.power = m.power := takeEvent_power 10 m
  refine ⟨?charged, ?measurement, ?ended, ?period, ?refresh⟩
  case charged => exact fun hc hs => becomes_of_running hl rfl (storeCharged_first hc hs)
  case measurement => exact fun hc hs => becomes_of_event hl rfl (beginMeasure_begins (by rwa [hev]) (by rwa [hev]))
  case ended => exact fun e hs => becomes_of_running hl rfl (measured_ends e hs)
  case period => exact fun input arith => becomes_of_event hl rfl rfl
  case refresh =>
    intro vin iin pin hs
    refine becomes_of_event hl rfl ((refreshInput_eq vin iin pin (by rwa [takeEvent_boot])).trans ?_)
    rw [takeEvent_power]

end Sys2Proof.Machine
end

section
/-!
SUPPORT. Sensors and thermal limits (R38 to R41).
-/
namespace Sys2Proof.Machine

/-- A reading below the critical threshold (R38, R40). -/
theorem sensorCrosses_below {cls idx : Nat} {temp : Int} {m : Sys} (hl : live m = true) (h : temp < tenths (thresholds cls).2.2) :
    sensorCrosses cls idx temp m = resumeCores (halveFlash (takeReading cls idx temp m)) :=
  (if_neg (Int.not_le.2 h)).trans (whileLive_live _ m hl)

/-- A reading at or above the critical threshold is the thermal critical event (R40). -/
theorem thermalReached_critical {cls idx : Nat} {temp : Int} {m : Sys} (hl : live m = true) (h : tenths (thresholds cls).2.2 ≤ temp) :
    thermalReached cls idx temp m = takeCritical cls idx temp (takeEvent 3 m) :=
  (if_neg (Int.not_lt.2 h)).trans (asEvent_live 3 _ m hl)

/-- No temperature of a list is above a bound. -/
theorem any_above_eq_false (l : List Int) (b : Int) : (l.any fun t => decide (b < t)) = false ↔ ∀ t ∈ l, t ≤ b := by
  simp

/-- A second moves the allowance and counts in the histograms (R39). -/
theorem thermalSecond_eq (m : Sys) : thermalSecond m = forEach (List.range 6) classSecond (onPower (fun p => { p with
    thermAllow :=
      if classAt 0 100 m ∨ classAt 1 100 m ∨ classAt 2 90 m then max 8192 (p.thermAllow - 16384)
      else if (∀ t ∈ classTemps 0 m, t ≤ 970) ∧ (∀ t ∈ classTemps 1 m, t ≤ 970) ∧ (∀ t ∈ classTemps 2 m, t ≤ 870) then
        min 524288 (p.thermAllow + 8192)
      else p.thermAllow }) m) := by
  simp only [thermalSecond, nextAllowance, onPower, Bool.or_eq_true, or_assoc, Bool.and_eq_true, Bool.not_eq_true', List.any_append,
    Bool.or_eq_false_iff, any_above_eq_false, and_assoc]

/-- A sensor that stayed critical (R40). -/
theorem thermalShut_critical {cls idx : Nat} {t : Int} {m : Sys} (ht : sensorTemp cls idx m = some t)
    (h : tenths (thresholds cls).2.2 ≤ t) :
    thermalShut cls idx m = takePowerFail .thermalShutdown (notice 0x08 3 (thermalDetail cls idx t) m) := by
  simp only [thermalShut, ht]
  exact if_neg (Int.not_lt.2 h)

/-- A critical action in force ends below the throttle threshold (R41). -/
theorem endCritical_ends {cls : Nat} {m : Sys} (hact : critAct cls m = true) (hbelow : classAt cls (thresholds cls).2.1 m = false) :
    endCritical cls m =
      let n := onPower (fun p => { p with
        critActs := setBit p.critActs cls false, flashHalved := p.flashHalved || cls == 3, flashCooling := p.flashCooling || cls == 3 }) m
      if cls = 5 then beginMeasure n else if cls = 3 then resumeFlash (halveFlash n) else n :=
  if_neg (by simp [hact, hbelow])

/-- A transmitter that is off turns on once its engine is below its throttle threshold (R41). -/
theorem opticsCool_cooled {p : Nat} {m : Sys} (hoff : m.power.opticsOff.getLsbD p = true)
    (hcool : ∀ t, sensorTemp 4 p m = some t → t < 750) : opticsCool p m =
      let n := onPower (fun x => { x with opticsOff := setBit x.opticsOff p false }) m
      if (portOf n p).train = .disabled then n else fullTraining p n := by
  have hany : ((sensorTemp 4 p m).any fun t => decide (750 ≤ t)) = false := by
    cases hs : sensorTemp 4 p m with
    | none => rfl
    | some t => simpa using hcool t hs
  exact if_neg (by simp [hoff, hany])

/-- Settles O19: each row is a change of a running module, which the lemmas above spell out. -/
theorem thermalRows : Obligations.ThermalRows := by
  unfold Obligations.ThermalRows
  intro s hl m
  refine ⟨?reading, ?critical, ?second, ?shutdown, ?ended, ?cooled⟩
  case reading => exact fun cls idx temp h => becomes_of_done rfl (sensorCrosses_below hl h)
  case critical => exact fun cls idx temp h => becomes_of_done rfl (thermalReached_critical hl h)
  case second => exact becomes_of_event hl rfl (thermalSecond_eq _)
  case shutdown => exact fun cls idx t ht h => becomes_iff_effect.2 ((if_pos hl).trans (thermalShut_critical ht h))
  case ended => exact fun cls hact hbelow => becomes_of_running hl rfl (endCritical_ends hact hbelow)
  case cooled => exact fun port hoff hcool => becomes_of_event hl rfl (opticsCool_cooled hoff hcool)

end Sys2Proof.Machine
end

section
/-!
SUPPORT. The power states: the exit from P2, an abandoned entry and the entry to P3 (R32, R119 to R121, R469).
-/
namespace Sys2Proof.Machine

/-- An entry that is not complete is given up (R120). -/
theorem abandonEntry_incomplete {e : Entry} {m : Sys} (he : m.power.entry = some e) (hs : e.step ≠ .complete) : abandonEntry m =
    let n := endEntryWaits m
    let st : BitVec 2 := if n.jobs.job.isSome then 0 else 1
    endWith e.cmd stBusy (onPower (fun p => { p with entry := none, inTransition := false, current := st, target := st }) n) := by
  simp only [abandonEntry, he]
  exact if_neg hs

/-- Settles O20: each row is a change of a running module, under the condition that its hypothesis names. -/
theorem powerStateRows : Obligations.PowerStateRows := by
  unfold Obligations.PowerStateRows
  intro s hl m
  refine ⟨?exit, ?abandon, ?enter⟩
  case exit => exact fun h => becomes_of_running hl rfl (if_neg (by simp [m, h]))
  case abandon =>
    exact fun e he hs => becomes_of_event hl rfl (abandonEntry_incomplete (by rwa [takeEvent_power]) hs)
  case enter => exact fun h => becomes_of_running hl rfl (if_neg (by simp [m, h]))

end Sys2Proof.Machine
end

section
/-!
SUPPORT. Encode and decode agree on blocks, command blocks and frame headers: each field is read back from the layout that holds it
(R54, R64, R97).
-/
namespace Sys2Proof.Machine

/-! ### Fields that share bytes -/

/-- A flag as a number: its bit's weight, once or not at all. -/
theorem flagAt_eq (b : Bool) (lo : Nat) : flagAt b lo = 2 ^ lo * b.toNat := by
  cases b <;> simp [flagAt]

/-- A field of `w` bits is the value whose number its bits spell. -/
theorem ofNat_eq_of_mod {w n : Nat} {x : BitVec w} (h : n % 2 ^ w = x.toNat) : BitVec.ofNat w n = x :=
  BitVec.eq_of_toNat_eq ((BitVec.toNat_ofNat n w).trans h)

/-- A bit is the flag whose number it spells. -/
theorem testBit_eq_of_mod {n k : Nat} {b : Bool} (h : n / 2 ^ k % 2 = b.toNat) : n.testBit k = b := by
  rw [Nat.testBit_eq_decide_div_mod_eq, h]
  cases b <;> rfl

/-- A field that begins a list is the list when nothing follows. -/
theorem bytesAt_whole (n : Nat) (l : List Byte) (h : l.length = n) : bytesAt l 0 n = l := by
  simpa using bytesAt_here n l [] h

/-- A value of `w` bits is read back from bytes that hold it. -/
theorem ofNat_toNat_mod {w k : Nat} (x : BitVec w) (h : 2 ^ w ≤ k) : BitVec.ofNat w (x.toNat % k) = x := by
  rw [Nat.mod_eq_of_lt (Nat.lt_of_lt_of_le x.isLt h), BitVec.ofNat_toNat, BitVec.setWidth_eq]

/-! ### Blocks (R64) -/

theorem headerBytes_length (b : Block) (hops crc : Nat) : (headerBytes b hops crc).length = 32 := by
  simp [headerBytes]

theorem blockBytes_length (b : Block) : (blockBytes b).length = 32 + b.body.length := by
  rw [blockBytes, List.length_append, headerBytes_length]

/-- Byte 5 of a block: virtual channel, broadcast scope and hops left. -/
def routeByte (b : Block) : Nat := b.vc.toNat + 4 * b.bcast.toNat + 16 * b.hops.toNat

/-- Bytes 10 to 11 of a block: acknowledged channel, three flags and the endpoint. -/
def ackField (b : Block) : Nat :=
  b.ackVc.toNat + flagAt b.ackValid 2 + flagAt b.opens 3 + flagAt b.host 4 + 32 * b.ep.toNat

/-- A block as its fields in order, each a number of whole bytes. -/
theorem blockBytes_layout (b : Block) : blockBytes b =
    leBytes 2 b.dst.toNat ++ (leBytes 2 b.src.toNat ++ (leBytes 1 b.kind.toNat ++ (leBytes 1 (routeByte b) ++
      (leBytes 2 b.seq.toNat ++ (leBytes 2 b.ackSeq.toNat ++ (leBytes 2 (ackField b) ++ (leBytes 2 b.body.length ++
        (leBytes 2 b.scaleRef.toNat ++ (leBytes 8 b.target.toNat ++ (leBytes 4 b.tag.toNat ++
          (leBytes 4 b.bcrc.toNat ++ b.body))))))))))) := by
  simp only [blockBytes, headerBytes, List.append_assoc, byte_eq_leBytes b.kind]
  rfl

theorem blockBytes_body (b : Block) : (blockBytes b).drop 32 = b.body := by
  rw [blockBytes, List.drop_left' (headerBytes_length b _ _)]

/-- The header announces the body that follows it. -/
theorem bodyLength_blockBytes (b : Block) (h : b.body.length ≤ 4096) : bodyLength (blockBytes b) = b.body.length := by
  rw [bodyLength, blockBytes_layout]
  simp only [leAt_skip, leAt_here, leBytes_length, Nat.reduceLeDiff, Nat.reduceSub, Nat.reducePow]
  omega

/-- The fields of byte 5 read back. -/
theorem routeByte_fields (b : Block) : BitVec.ofNat 2 (routeByte b % 256) = b.vc ∧ BitVec.ofNat 2 (routeByte b % 256 / 4) = b.bcast ∧
    BitVec.ofNat 4 (routeByte b % 256 / 16) = b.hops := by
  have hvc := b.vc.isLt
  have hbcast := b.bcast.isLt
  have hhops := b.hops.isLt
  unfold routeByte
  exact ⟨ofNat_eq_of_mod (by omega), ofNat_eq_of_mod (by omega), ofNat_eq_of_mod (by omega)⟩

/-- The fields of bytes 10 to 11 read back. -/
theorem ackField_fields (b : Block) : BitVec.ofNat 2 (ackField b % 65536) = b.ackVc ∧
    (ackField b % 65536).testBit 2 = b.ackValid ∧ (ackField b % 65536).testBit 3 = b.opens ∧
    (ackField b % 65536).testBit 4 = b.host ∧ BitVec.ofNat 4 (ackField b % 65536 / 32) = b.ep := by
  have hvc := b.ackVc.isLt
  have hep := b.ep.isLt
  have hvalid := b.ackValid.toNat_le
  have hopens := b.opens.toNat_le
  have hhost := b.host.toNat_le
  simp only [ackField, flagAt_eq]
  exact ⟨ofNat_eq_of_mod (by omega), testBit_eq_of_mod (by omega), testBit_eq_of_mod (by omega), testBit_eq_of_mod (by omega),
    ofNat_eq_of_mod (by omega)⟩

/-- A block reads back from its bytes. -/
theorem readBlock_blockBytes (b : Block) (h : b.body.length ≤ 4096) : readBlock (blockBytes b) = some b := by
  obtain ⟨hvc, hbcast, hhops⟩ := routeByte_fields b
  obtain ⟨hackVc, hvalid, hopens, hhost, hep⟩ := ackField_fields b
  unfold readBlock
  rw [if_neg (by rw [blockBytes_length]; omega), if_neg (by rw [blockBytes_length, bodyLength_blockBytes b h]; simp)]
  simp only [blockBytes_body]
  simp only [blockBytes_layout, leAt_skip, leAt_here, leBytes_length, Nat.reduceLeDiff, Nat.reduceSub, Nat.reducePow,
    ofNat_toNat_mod, hvc, hbcast, hhops, hackVc, hvalid, hopens, hhost, hep]

theorem crcHolds_sealBlock (b : Block) : crcHolds (sealBlock b) = true := by
  simp [crcHolds, sealBlock, blockCrc, headerBytes]

/-! ### Command blocks (R97) -/

theorem crcBytes_length (l : List Byte) : (crcBytes l).length = 4 := leBytes_length _ _

/-- Bytes 0 to 123 of a command block, as its fields in order. -/
def commandFields (c : Cmd) : List Byte :=
  leBytes 1 c.opcode.toNat ++ (leBytes 1 (flagAt c.fence 0) ++ (leBytes 2 c.tag.toNat ++ (leBytes 2 c.exec.toNat ++ (zeros 2 ++
    (leBytes 8 c.tensor.toNat ++ (leBytes 8 c.hostAddr.toNat ++ (leBytes 4 c.length.toNat ++ (zeros 4 ++ fitBytes 92 c.param))))))))

theorem commandFields_length (c : Cmd) : (commandFields c).length = 124 := by
  simp [commandFields]

theorem commandBytes_eq (c : Cmd) : commandBytes c = commandFields c ++ crcBytes (commandFields c) := by
  have h : [c.opcode] ++ leBytes 1 (flagAt c.fence 0) ++ leBytes 2 c.tag.toNat ++ leBytes 2 c.exec.toNat ++ zeros 2 ++
      leBytes 8 c.tensor.toNat ++ leBytes 8 c.hostAddr.toNat ++ leBytes 4 c.length.toNat ++ zeros 4 ++ fitBytes 92 c.param =
      commandFields c := by
    simp only [commandFields, List.append_assoc, byte_eq_leBytes c.opcode]
  rw [commandBytes, h, withCrc]

theorem commandBytes_length (c : Cmd) : (commandBytes c).length = 128 := by
  rw [commandBytes_eq, List.length_append, commandFields_length, crcBytes_length]

theorem commandCrcHolds_commandBytes (c : Cmd) : commandCrcHolds (commandBytes c) = true := by
  have hfields : bytesAt (commandBytes c) 0 124 = commandFields c := by
    rw [commandBytes_eq, bytesAt_here _ _ _ (commandFields_length c)]
  have hcrc : bytesAt (commandBytes c) 124 4 = crcBytes (commandFields c) := by
    rw [commandBytes_eq, bytesAt_skip _ _ _ _ (Nat.le_of_eq (commandFields_length c)), commandFields_length]
    exact bytesAt_whole 4 _ (crcBytes_length _)
  rw [commandCrcHolds, hfields, hcrc, beq_self_eq_true]

/-- A flag alone in its byte reads back. -/
theorem testBit_flagAt_zero (b : Bool) : (flagAt b 0 % 256).testBit 0 = b := by
  cases b <;> rfl

/-- A command reads back from its block, given the fields that the block does not hold. -/
theorem readCommand_commandBytes (c : Cmd) (h : c.param.length = 92) :
    readCommand c.rook c.ep c.reg c.epoch (commandBytes c) = c := by
  simp only [readCommand, commandBytes_eq, commandFields, List.append_assoc, leAt_skip, leAt_here, bytesAt_skip, leBytes_length,
    zeros_length, Nat.reduceLeDiff, Nat.reduceSub, Nat.reducePow, ofNat_toNat_mod, testBit_flagAt_zero, fitBytes_self 92 c.param h,
    bytesAt_here 92 c.param _ h]

/-! ### Frame headers (R54) -/

/-- Bytes 0 to 3 of a frame header. -/
def frameWord (h : FrameHead) : Nat :=
  h.type.toNat + 64 * h.vc.toNat + 256 * h.trCredit.toNat + 131072 * h.trEp.toNat + flagAt h.trValid 21 + flagAt h.nak 22 +
    8388608 * h.first.toNat

/-- A frame header as its fields in order. -/
theorem frameHeadBytes_layout (h : FrameHead) (crc : Nat) : frameHeadBytes h crc =
    leBytes 4 (frameWord h) ++ (leBytes 2 h.no.toNat ++ (leBytes 2 h.ack.toNat ++ (leBytes 1 (h.credits.getD 0 0) ++
      (leBytes 1 (h.credits.getD 1 0) ++ (leBytes 1 (h.credits.getD 2 0) ++ (leBytes 1 (h.credits.getD 3 0) ++ leBytes 4 crc)))))) := by
  simp only [frameHeadBytes, List.append_assoc]
  rfl

theorem frameHeadBytes_length (h : FrameHead) (crc : Nat) : (frameHeadBytes h crc).length = 16 := by
  simp [frameHeadBytes_layout]

/-- The fields of the first four bytes read back. -/
theorem frameWord_fields (h : FrameHead) : BitVec.ofNat 6 (frameWord h % 4294967296) = h.type ∧
    BitVec.ofNat 2 (frameWord h % 4294967296 / 64) = h.vc ∧ BitVec.ofNat 9 (frameWord h % 4294967296 / 256) = h.trCredit ∧
    BitVec.ofNat 4 (frameWord h % 4294967296 / 131072) = h.trEp ∧ (frameWord h % 4294967296).testBit 21 = h.trValid ∧
    (frameWord h % 4294967296).testBit 22 = h.nak ∧ BitVec.ofNat 9 (frameWord h % 4294967296 / 8388608) = h.first := by
  have htype := h.type.isLt
  have hvc := h.vc.isLt
  have hcredit := h.trCredit.isLt
  have hep := h.trEp.isLt
  have hvalid := h.trValid.toNat_le
  have hnak := h.nak.toNat_le
  have hfirst := h.first.isLt
  simp only [frameWord, flagAt_eq]
  exact ⟨ofNat_eq_of_mod (by omega), ofNat_eq_of_mod (by omega), ofNat_eq_of_mod (by omega), ofNat_eq_of_mod (by omega),
    testBit_eq_of_mod (by omega), testBit_eq_of_mod (by omega), ofNat_eq_of_mod (by omega)⟩

/-- Four CREDIT fields of a byte each read back. -/
theorem credits_mod (l : List Nat) (hl : l.length = 4) (hb : l.all (· < 256) = true) :
    [l.getD 0 0 % 256, l.getD 1 0 % 256, l.getD 2 0 % 256, l.getD 3 0 % 256] = l := by
  match l, hl with
  | [a, b, c, d], _ =>
    simp only [List.all_cons, List.all_nil, Bool.and_true, Bool.and_eq_true, decide_eq_true_eq] at hb
    obtain ⟨ha, hb, hc, hd⟩ := hb
    simp only [List.getD_cons_zero, List.getD_cons_succ, Nat.mod_eq_of_lt, ha, hb, hc, hd]

/-- A frame header reads back from its bytes, whatever payload follows. -/
theorem readFrameHead_frameHeadBytes (h : FrameHead) (payload : List Byte) (hl : h.credits.length = 4)
    (hb : h.credits.all (· < 256) = true) : readFrameHead (frameHeadBytes h h.fcrc.toNat ++ payload) = h := by
  obtain ⟨htype, hvc, hcredit, hep, hvalid, hnak, hfirst⟩ := frameWord_fields h
  simp only [readFrameHead, frameHeadBytes_layout, List.append_assoc, leAt_skip, leAt_here, leBytes_length, Nat.reduceLeDiff,
    Nat.reduceSub, Nat.reducePow, ofNat_toNat_mod, htype, hvc, hcredit, hep, hvalid, hnak, hfirst, credits_mod h.credits hl hb]

/-- Settles O46: each layout is a list of fields, and each field is read back where it lies. -/
theorem blocksAndCommandsReadBack : Obligations.BlocksAndCommandsReadBack := by
  unfold Obligations.BlocksAndCommandsReadBack
  exact ⟨fun b hb => ⟨blockBytes_length b, readBlock_blockBytes b hb, crcHolds_sealBlock b⟩,
    fun c hc => ⟨commandBytes_length c, commandCrcHolds_commandBytes c, readCommand_commandBytes c hc⟩,
    fun h payload hl hb => ⟨frameHeadBytes_length h _, readFrameHead_frameHeadBytes h payload hl hb⟩⟩

end Sys2Proof.Machine
end

section
/-!
SUPPORT. Register accesses from the fabric: what a write, a read and a read's response do, case by case (R74, R114, R463, R465 to R467).
-/
namespace Sys2Proof.Machine

/-! ### Writes (R463, R465) -/

/-- Where registers work, a REG_WRITE is carried out once its block is taken. -/
theorem regWriteIn_open (b : Block) {m : Sys} (h : regsOpen m = true) :
    regWriteIn b m = writeAt b.target.toNat (writtenWord b) (consumed b m) :=
  if_pos (show regsOpen (consumed b m) = true from h)

theorem writeAt_misaligned {a : Nat} (v : Word) (m : Sys) (ha : a % 8 ≠ 0) : writeAt a v m = countMisaligned m := if_pos ha

theorem writeAt_register {a : Nat} (v : Word) {m : Sys} (ha : a % 8 = 0) (hw : windowAt a = none) (hr : (readReg a m).isSome = true) :
    writeAt a v m = writeReg a v m := by
  obtain ⟨x, hx⟩ := Option.isSome_iff_exists.1 hr
  simp [writeAt, ha, hw, hx]

theorem writeAt_hole {a : Nat} (v : Word) {m : Sys} (ha : a % 8 = 0) (hw : windowAt a = none) (hr : readReg a m = none) :
    writeAt a v m = countWriteHole m := by
  simp [writeAt, ha, hw, hr]

theorem writeAt_group {a o : Nat} {w : Window} (v : Word) {m : Sys} (ha : a % 8 = 0) (hw : windowAt a = some (w, false, o))
    (hr : (readCore w.first o m).isSome = true) : writeAt a v m = forEach (span w.first w.cores) (fun n => writeCore n o v) m := by
  obtain ⟨x, hx⟩ := Option.isSome_iff_exists.1 hr
  simp [writeAt, ha, hw, hx]

/-! ### Reads (R463, R466) -/

/-- Where registers work, a REG_READ that is no broadcast is carried out once its block is taken. -/
theorem regReadIn_open {b : Block} {m : Sys} (h : regsOpen m = true) (hb : b.bcast = 0) :
    regReadIn b m = readAt b (consumed b m) := by
  have hopen : readOpen b.target.toNat (consumed b m) = true := by
    simp [readOpen, show regsOpen (consumed b m) = true from h]
  simp [regReadIn, hopen, hb]

theorem readAt_misaligned {b : Block} (m : Sys) (ha : b.target.toNat % 8 ≠ 0) :
    readAt b m = respondRead b 0 stBadCommand (countMisaligned m) := if_pos ha

theorem readAt_hole {b : Block} {m : Sys} (ha : b.target.toNat % 8 = 0) (hw : windowAt b.target.toNat = none)
    (hr : readReg b.target.toNat m = none) : readAt b m = respondRead b 0 stBadCommand (countReadHole m) := by
  simp [readAt, ha, hw, hr]

/-- A register other than a relay reset's is answered at once (R114). -/
theorem readAt_register {b : Block} {v : Word} {m : Sys}
    (hreset : ¬(0x100000 ≤ b.target.toNat ∧ b.target.toNat < 0x200000 ∧ b.target.toNat % 0x10000 = 0x8040))
    (ha : b.target.toNat % 8 = 0) (hw : windowAt b.target.toNat = none) (hr : readReg b.target.toNat m = some v) :
    readAt b m = respondRead b v stDone m := by
  simp only [readAt, hw, hr]
  rw [if_neg (not_not_intro ha), if_neg hreset]

theorem readAt_group {b : Block} {w : Window} {mismatch : Bool} {o : Nat} {m : Sys} (ha : b.target.toNat % 8 = 0)
    (hw : windowAt b.target.toNat = some (w, mismatch, o)) (hr : (readCore w.first o m).isSome = true) :
    readAt b m = groupRead b w mismatch o m := by
  obtain ⟨x, hx⟩ := Option.isSome_iff_exists.1 hr
  simp [readAt, ha, hw, hx]

/-! ### Read responses (R74, R114) -/

/-- A host's read response passes the rook. -/
theorem readResponse_host {b : Block} {m : Sys} (hl : live m = true) (hh : b.host = true) (hr : m.fabric.rook = true) :
    readResponse b m = toHost b (consumed b m) := by
  simp [readResponse, show live (consumed b m) = true from hl, hh, show (consumed b m).fabric.rook = true from hr]

/-- The tag that the module's own relay-reset read of endpoint `e` carries (log entry 14). -/
theorem resetTag_toNat {e : Nat} (he : e < 16) : (BitVec.ofNat 32 (0x20000 + e)).toNat = 0x20000 + e := by
  rw [BitVec.toNat_ofNat]
  omega

/-- The answer to a relay reset of endpoint `e` is no longer awaited. -/
theorem readResponse_reset {b : Block} {e : Nat} {m : Sys} (hl : live m = true) (he : e < 16) (hh : b.host = false)
    (ht : b.tag = BitVec.ofNat 32 (0x20000 + e)) : readResponse b m =
      settleReset e (onEp e (fun x => { x with awaited := x.awaited.filter (· != b.src) }) (consumed b m)) := by
  have hrange : 0x20000 ≤ 0x20000 + e ∧ 0x20000 + e < 0x20010 := by omega
  simp only [readResponse, show live (consumed b m) = true from hl, hh, ht, resetTag_toNat he, if_pos hrange, Nat.add_sub_cancel_left]
  rfl

/-- Settles O13: a block of an access is taken, and its access is carried out as the case that the address names. -/
theorem registerAccesses : Obligations.RegisterAccesses := by
  unfold Obligations.RegisterAccesses
  refine ⟨fun b s ho => ?writes, fun b s ho hb => ?reads, fun b s hl => ?responses⟩
  case writes =>
    have h := regWriteIn_open b ho
    exact ⟨fun ha hw hr => becomes_of_done rfl (h.trans (writeAt_register _ ha hw hr)),
      fun ha => becomes_of_done rfl (h.trans (writeAt_misaligned _ _ ha)),
      fun ha hw hr => becomes_of_done rfl (h.trans (writeAt_hole _ ha hw hr)),
      fun w o ha hw hr => becomes_of_done rfl (h.trans (writeAt_group _ ha hw hr))⟩
  case reads =>
    have h := regReadIn_open ho hb
    exact ⟨fun ha => becomes_of_done rfl (h.trans (readAt_misaligned _ ha)),
      fun ha hw hr => becomes_of_done rfl (h.trans (readAt_hole ha hw hr)),
      fun v hreset ha hw hr => becomes_of_done rfl (h.trans (readAt_register hreset ha hw hr)),
      fun w mismatch o ha hw hr => becomes_of_done rfl (h.trans (readAt_group ha hw hr))⟩
  case responses =>
    exact ⟨fun hh hr => becomes_of_done rfl (readResponse_host hl hh hr),
      fun e he hh ht => becomes_of_done rfl (readResponse_reset hl he hh ht)⟩

end Sys2Proof.Machine
end

section
/-!
SUPPORT. Resets of the module, the loader's retry and the fabric reset (R91, R123, R126, R406, R410, R423, R426).
-/
namespace Sys2Proof.Machine

/-! ### What an event leaves unchanged -/

@[simp] theorem takeEvent_fabric (pos : Nat) (m : Sys) : (takeEvent pos m).fabric = m.fabric := by
  simp only [takeEvent, addTotal, apply_ite Sys.fabric, onHealth_fabric, ite_self]

/-! ### Module resets (R126, R406, R410) -/

/-- A module that is not halted resets with the frames that its cause lets leave. -/
theorem moduleReset_eq {cause : Nat} {m : Sys} (h : m.boot.stage ≠ stageHalted) : moduleReset cause m =
    onFabric (fun x => { x with ports := if 4 ≤ cause ∧ cause ≤ 7 then partingFrames (flushRecords m) else [] })
      (restart cause true (flushRecords m)) := if_neg h

/-- A lost clock resets a module that is not halted, and halts it at the third loss within 10 s. -/
theorem clockLost_eq {m : Sys} (h : m.boot.stage ≠ stageHalted) : clockLost m =
    let n := onBoot (fun b => { b with clockStarts := (0 :: b.clockStarts).take 3 })
      (onFabric (fun x => { x with ports := [] }) (restart 3 true (flushRecords m)))
    if clockTrouble n.boot then haltStart 5 (bootRead n) else n := by
  rw [clockLost, if_neg h, moduleReset_eq h]
  rfl

/-- The loader with peer recovery on and nothing under way seeks an image from its near peers. -/
theorem seekImage_seeks {m : Sys} (hs : m.boot.stage = stageLoader) (hr : m.boot.recoverPeer = true) (hf : m.boot.fetch = none)
    (hg : m.boot.staging = 0) : seekImage m = nextPeer (onBoot (fun b => { b with peers := nearPeers m }) m) :=
  if_pos ⟨hs, hr, Option.isNone_iff_eq_none.2 hf, hg⟩

/-- Settles O22: each row is a change of a running module, under the condition that its hypothesis names. -/
theorem moduleAndFabricResets : Obligations.ModuleAndFabricResets := by
  unfold Obligations.ModuleAndFabricResets
  intro s hl m ev parting
  have hboot : ev.boot = m.boot := takeEvent_boot 10 m
  refine ⟨fun hs => ?clock, fun hs => ?watchdog, fun ha hs => ?activation, fun hs hr hf hg => ?retry, ?fabric⟩
  case clock => exact becomes_of_running hl rfl (clockLost_eq hs)
  case watchdog =>
    refine becomes_of_event hl rfl ((if_pos (hboot ▸ hs)).trans (moduleReset_eq ?_))
    rw [takeEvent_boot, hs]
    decide
  case activation => exact becomes_of_event hl rfl ((if_pos (hboot ▸ ha)).trans (moduleReset_eq hs))
  case retry => exact becomes_of_event hl rfl (seekImage_seeks (hboot ▸ hs) (hboot ▸ hr) (hboot ▸ hf) (hboot ▸ hg))
  case fabric =>
    intro rook ended cut freed bare trained
    have hrook : (takeEvent 2 m).fabric.rook = rook := congrArg Fabric.rook (takeEvent_fabric 2 m)
    refine becomes_of_event hl rfl ?_
    rw [resetFabric, hrook]

end Sys2Proof.Machine
end

section
/-!
SUPPORT. The training of a port: what each row does to a port in the state that the row acts on (R48 to R50, R63, R76).
-/
namespace Sys2Proof.Machine

/-- A change of a port depends on what it makes of the port as it stands. -/
theorem onPort_congr {p : Nat} {f g : Port → Port} {m : Sys} (h : f (portOf m p) = g (portOf m p)) : onPort p f m = onPort p g m :=
  congrArg (fun x => onFabric (fun y => { y with ports := tset p x m.fabric.ports }) m) h

theorem trainStep_at {p : Nat} {at_ next : Train} (f : Port → Port) {m : Sys} (h : (portOf m p).train = at_) :
    trainStep p at_ next f m = onPort p (fun x => { f x with train := next }) m := if_pos h

theorem enterRetrain_up {p : Nat} {m : Sys} (h : (portOf m p).train = .up) : enterRetrain p m =
    countTraining p false (onPort p (fun x => { x with train := .retrain, resend := [], stalled := 0 }) m) :=
  if_pos (by simp [enterRetrain.portUp', h])

/-- A guarded change whose guard holds is the change. -/
theorem onlyIf_of {c : Bool} (f : Sys → Sys) (m : Sys) (h : c = true) : onlyIf c f m = f m := if_pos h

/-! ### HELLO (R49, R63, R76) -/

/-- A HELLO that asks for a retrain takes a port with a peer to RETRAIN. -/
theorem helloIn_retrain {p : Nat} {h : Hello} {m : Sys} (hr : h.retrain = true) : helloIn p h m =
    if (portOf m p).train = .up ∨ (portOf m p).train = .hello ∨ (portOf m p).train = .retrain then
      countTraining p false (onPort p (fun x =>
        if x.train = .up then { x with train := .retrain, resend := [], stalled := 0 } else { x with train := .retrain }) m)
    else m := by
  rw [helloIn, if_pos hr]
  by_cases hup : (portOf m p).train = .up
  · rw [if_pos hup, if_pos (.inl hup), enterRetrain_up hup]
    exact congrArg _ (onPort_congr (if_pos hup).symm)
  · simp only [hup, if_false, false_or]
    split
    · exact congrArg _ (onPort_congr (if_neg hup).symm)
    · rfl

/-- The replay that a HELLO begins is counted where frames are kept (R63). -/
theorem onlyIf_kept {α : Type} (l : List α) (f : Sys → Sys) (m : Sys) : onlyIf (!l.isEmpty) f m = if l = [] then m else f m := by
  cases l <;> rfl

/-- Any other HELLO brings a port in HELLO or in a fast retrain up. -/
theorem helloIn_up {p : Nat} {h : Hello} {m : Sys} (hr : h.retrain = false)
    (ht : (portOf m p).train = .hello ∨ (portOf m p).train = .retrain) : helloIn p h m =
    let k := if keptFrames h (portOf m p) = [] then m else addTotal 43 1 m
    let n := chooseHost (adoptGroup (onFabric (fun f => { f with firstUp := f.firstUp.orElse fun _ => some (now k) })
      (onPort p (helloPort h) k)))
    if (portOf m p).routed = true ∧ (portOf m p).peerId = h.identity then n else flood n := by
  rw [helloIn, hr]
  simp only [Bool.false_eq_true, if_false, if_pos ht, onlyIf_kept, Bool.and_eq_true, beq_iff_eq]

/-! ### Failed trainings (R49) -/

theorem trainingFailed_hello {p : Nat} {m : Sys} (h : (portOf m p).train = .hello) : trainingFailed p m =
    let fails := ((portOf m p).fails.filter fun t => decide (now m < t + secTurns)) ++ [now m]
    if 3 ≤ fails.length then
      notice 0x0F 2 (leBytes 1 p) (leaveRouting p (onPort p (fun x => { x with train := .failed, lanes := 0, fails := [] }) m))
    else fullTraining p (onPort p (fun x => { x with fails }) m) :=
  if_neg (by simp [inTraining, h])

/-- Settles O23: each row acts while the module runs, on a port in the state that its hypothesis names. -/
theorem portTraining : Obligations.PortTraining := by
  unfold Obligations.PortTraining
  intro s port hl m p
  refine ⟨fun ht => ?signal, fun ht => ?lane, fun ht => ?relock, fun ht => ?equalise, fun ht => ?frame, fun h hr ht => ?up,
    fun h hr => ?retrain, fun ht => ?trigger, fun ht => ?timeout, fun ht => ?retry, fun ht => ?failed⟩
  case signal => exact becomes_of_running hl rfl (trainStep_at id ht)
  case lane =>
    have hne : (portOf m p).train ≠ .retrain := by rw [ht]; decide
    exact becomes_of_running hl rfl ((if_neg hne).trans (trainStep_at _ ht))
  case relock => exact becomes_of_running hl rfl (if_pos ht)
  case equalise => exact becomes_of_running hl rfl (trainStep_at _ ht)
  case frame => exact becomes_of_running hl rfl (trainStep_at id ht)
  case up => exact becomes_of_running hl rfl (helloIn_up hr ht)
  case retrain => exact becomes_of_running hl rfl (helloIn_retrain hr)
  case trigger => exact ⟨becomes_of_running hl rfl (enterRetrain_up ht), fun locked => becomes_of_running hl rfl rfl⟩
  case timeout => exact becomes_of_running hl rfl (onlyIf_of _ _ (beq_iff_eq.2 ht))
  case retry => exact becomes_of_running hl rfl (onlyIf_of _ _ (beq_iff_eq.2 ht))
  case failed => exact becomes_of_running hl rfl (trainingFailed_hello ht)

end Sys2Proof.Machine
end

section
/-!
SUPPORT. Frames, replays, streams and their acknowledgements: what each row does once its condition holds (R52, R54, R55, R61, R62, R66 to
R69, R71).
-/
namespace Sys2Proof.Machine

/-! ### Frames (R52, R61, R62) -/

/-- What a frame of 320 bytes does at a port that is UP. -/
theorem frameIn_up {p : Nat} {m : Sys} (raw : List Byte) (h : (portOf m p).train = .up) : frameIn p raw m =
    match fecDecode (fitBytes 320 raw) with
    | none => frameBad p m
    | some (content, fixed) =>
      let h := readFrameHead content
      let payload := content.drop 16
      let n := headerIn p h (countCorrections p (h.type == 0) fixed m)
      if frameCrc h payload ≠ h.fcrc then frameBad p m else if h.type = 0x01 then dataIn p h payload n else n :=
  if_neg (not_not_intro h)

/-- A port has to replay when it is UP with frames outstanding. -/
theorem replay_guard_of_up {x : Port} (hu : x.train = .up) (hr : x.retry ≠ []) : (x.train == .up && !x.retry.isEmpty) = true := by
  simp [hu, hr]

/-! ### Streams (R66 to R68) -/

theorem txOf_takeEvent (pos : Nat) (m : Sys) (k : StreamKey) : txOf (takeEvent pos m) k = txOf m k := by
  simp only [txOf, takeEvent_fabric]

/-- A stream's time-out, with its tests as propositions. -/
theorem streamTimeout_eq (k : StreamKey) (m : Sys) : streamTimeout k m =
    let n := if k.bcast = 0 then m else releaseAcked k (ackedByAll m k (txOf m k).acks) (txOf m k).acks m
    let t := txOf n k
    if t.unacked = [] then n else if 8 ≤ t.resends then breakStream k n
    else resendStream k (setTx k { t with resends := t.resends + 1 } n) := by
  simp only [streamTimeout, List.isEmpty_iff]

/-- A stream closes at this end where no block is outstanding and none waits. -/
theorem closeStream_eq (k : StreamKey) (m : Sys) : closeStream k m =
    onFabric (fun x => { x with
      tx := if (txOf m k).unacked = [] ∧ ∀ b ∈ m.fabric.waiting, streamKey b ≠ k then x.tx.filter (fun e => e.1 != k) else x.tx,
      rx := x.rx.filter fun e => e.1 != k }) m := by
  have hopen : (!(txOf m k).unacked.isEmpty || m.fabric.waiting.any fun b => streamKey b == k) = true ↔
      ¬((txOf m k).unacked = [] ∧ ∀ b ∈ m.fabric.waiting, streamKey b ≠ k) := by
    simp only [Bool.or_eq_true, Bool.not_eq_true', List.isEmpty_eq_false_iff, List.any_eq_true, beq_iff_eq,
      Classical.not_and_iff_not_or_not, Classical.not_forall, Classical.not_not, exists_prop, ne_eq]
  simp only [closeStream, hopen, ite_not]

/-- An E2E_ACK is used where its BCRC holds, and counted where it fails. -/
theorem e2eAck_eq (b : Block) (m : Sys) : e2eAck b m =
    let n := consumed b m
    let flags := leAt b.body 0 1
    let o := if flags.testBit 1 then resendScale b.src (BitVec.ofNat 16 (leAt b.body 2 2)) n else n
    if crcHolds b = false then bcrcError n
    else if b.ackValid then ackTaken (ackKey b) b.src b.ackSeq (flags.testBit 0) o else o := by
  simp only [e2eAck, onlyIf, Bool.not_eq_true']

/-- Settles O24: each row is a change of a running module, under the condition that its hypothesis names. -/
theorem framesAndStreams : Obligations.FramesAndStreams := by
  unfold Obligations.FramesAndStreams
  intro s hl m ev
  refine ⟨fun port raw hu => ?frame, fun port hu hr => ?replay, fun k => ?resend, fun k => ?close, ?reissue, fun vc => ?room, fun b => ?ack⟩
  case frame =>
    have h := frameIn_up raw hu
    exact ⟨becomes_of_running hl rfl h, becomes_of_running hl rfl h⟩
  case replay => exact becomes_of_running hl rfl (onlyIf_of _ _ (replay_guard_of_up hu hr))
  case resend => exact becomes_of_event hl rfl (streamTimeout_eq k ev)
  case close =>
    have h := closeStream_eq k ev
    simp only [ev, txOf_takeEvent, takeEvent_fabric] at h
    exact becomes_of_event hl rfl h
  case reissue =>
    refine becomes_of_event hl rfl ?_
    rw [reissueControl, takeEvent_fabric]
  case room => exact becomes_of_running hl rfl rfl
  case ack => exact becomes_of_running hl rfl (e2eAck_eq b m)

end Sys2Proof.Machine
end

section
/-!
SUPPORT. Arrivals of TENSOR_READ, TENSOR_READ_RESP and TENSOR_WRITE, case by case (R86, R103 to R105, R338, R425).
-/
namespace Sys2Proof.Machine

/-! ### TENSOR_READ (R86, R105, R425) -/

theorem tensorRead_host {b : Block} {m : Sys} (hh : b.host = true) (hr : (consumed b m).fabric.rook = true)
    (hsrc : b.src ≠ ownAddr (consumed b m)) : tensorRead b m = toHost b (consumed b m) := by
  simp [tensorRead, hh, hr, hsrc]

theorem tensorRead_image {b : Block} {m : Sys} (hh : b.host = false) (ht : tnumOf b.target = imageTensor)
    (hlen : leAt b.body 0 4 ≤ 4096) (hend : offsetOf b.target + leAt b.body 0 4 ≤ 268435456) : tensorRead b m =
      answerRead b (imageBytes (offsetOf b.target) (leAt b.body 0 4) (consumed b m)) (consumed b m) := by
  simp only [tensorRead, hh, Bool.false_eq_true, if_false, if_pos ht]
  exact if_pos ⟨hlen, hend⟩

theorem tensorRead_lease {b : Block} {m : Sys} {n off : Nat} {l : Lease} (hh : b.host = false) (ht : tnumOf b.target ≠ imageTensor)
    (hr : leaseRange (consumed b m) b.target (leAt b.body 0 4) = some (n, off, l)) (hlen : leAt b.body 0 4 ≤ 4096) :
    tensorRead b m = answerRead b ((span off (leAt b.body 0 4)).map (leaseByte l)) (consumed b m) := by
  simp only [tensorRead, hh, Bool.false_eq_true, if_false, if_neg ht, hr, if_pos hlen]

/-! ### TENSOR_READ_RESP (R105, R425) -/

/-- The piece that a fetch asked for at the block's offset is put in place. -/
theorem tensorResp_piece {b : Block} {m : Sys} {f : Fetch} {n : Nat} (hh : b.host = true) (hf : fetchOf b (consumed b m) = some f)
    (ha : f.asked.find? (fun a => a.1 == (b.target - f.cmd.hostAddr).toNat) = some ((b.target - f.cmd.hostAddr).toNat, n)) :
    tensorResp b m = pieceIn f (b.target - f.cmd.hostAddr).toNat n (fitBytes n b.body) (consumed b m) := by
  simp only [tensorResp, hh, if_true, hf, ha]

theorem tensorResp_host {b : Block} {m : Sys} (hh : b.host = true) (hf : fetchOf b (consumed b m) = none)
    (hr : (consumed b m).fabric.rook = true) (hsrc : b.src ≠ ownAddr (consumed b m)) : tensorResp b m = toHost b (consumed b m) := by
  have hpass : ((consumed b m).fabric.rook && b.src != ownAddr (consumed b m)) = true := by simp [hr, hsrc]
  simp only [tensorResp, hh, if_true, hf, hpass, onlyIf_true]

theorem tensorResp_module {b : Block} (m : Sys) (hh : b.host = false) : tensorResp b m =
    if b.tag = imageTag ∧ tnumOf b.target = imageTensor then imagePiece b (consumed b m) else leaseData b (consumed b m) :=
  if_neg (Bool.eq_false_iff.1 hh)

/-! ### TENSOR_WRITE (R86, R103, R104, R338) -/

/-- A relay lies at the beginning of the relay window, whose tensor number no tensor has. -/
theorem tensorWrite_relay {b : Block} (m : Sys) (ht : b.target = relayWindow) (hlen : 160 ≤ b.body.length) : tensorWrite b m =
    let c := relayedCmd b.body
    let n := consumed b m
    if takesRelays n = false then relayBusy b c n
    else if isSubSearch n c then subBytes b b.body n
    else answerWrite b stDone (holdRelay c n) := by
  have hnum : tnumOf relayWindow = 0xFFFFFF := by decide
  have hoff : offsetOf relayWindow = 0 := by decide
  simp only [tensorWrite, ht, hnum, if_true, relayIn, hoff, Bool.not_eq_true']
  exact if_neg (Nat.not_lt.2 hlen)

theorem tensorWrite_lease {b : Block} {m : Sys} {n off : Nat} {l : Lease} (ht : tnumOf b.target ≠ 0xFFFFFF)
    (hr : leaseRange (consumed b m) b.target b.body.length = some (n, off, l)) : tensorWrite b m =
      let bytes := (b.body.foldl (fun (acc : Nat × Tab Byte) v => (acc.1 + 1, tset acc.1 v acc.2)) (off, l.bytes)).2
      answerWrite b stDone (onFabric (fun x => { x with lent := tset n { l with bytes } x.lent }) (consumed b m)) := by
  simp only [tensorWrite, if_neg ht, leaseWrite, hr]

/-- Settles O25: a block is taken, and what its target and its sender call for happens. -/
theorem tensorBlocksArrive : Obligations.TensorBlocksArrive := by
  unfold Obligations.TensorBlocksArrive
  intro b s hl m len
  refine ⟨fun hh hr hsrc => ?host, fun hh ht hlen hend => ?image, fun n off l hh ht hr hlen => ?lease, fun f n hh hf ha => ?piece,
    fun hh hf hr hsrc => ?hostData, fun hh => ?data, fun ht hlen => ?relay, fun n off l ht hr => ?write⟩
  case host => exact becomes_of_running hl rfl (tensorRead_host hh hr hsrc)
  case image => exact becomes_of_running hl rfl (tensorRead_image hh ht hlen hend)
  case lease => exact becomes_of_running hl rfl (tensorRead_lease hh ht hr hlen)
  case piece => exact becomes_of_running hl rfl (tensorResp_piece hh hf ha)
  case hostData => exact becomes_of_running hl rfl (tensorResp_host hh hf hr hsrc)
  case data => exact becomes_of_running hl rfl (tensorResp_module s.sys hh)
  case relay =>
    have h := tensorWrite_relay s.sys ht hlen
    exact ⟨fun htake hsub => becomes_of_running hl rfl
        (h.trans ((if_neg (ne_false_of_eq_true htake)).trans (if_neg (Bool.eq_false_iff.1 hsub)))),
      fun htake hsub => becomes_of_running hl rfl (h.trans ((if_neg (ne_false_of_eq_true htake)).trans (if_pos hsub))),
      fun htake => becomes_of_running hl rfl (h.trans (if_pos htake))⟩
  case write => exact becomes_of_running hl rfl (tensorWrite_lease ht hr)

end Sys2Proof.Machine
end

section
/-!
SUPPORT. Collective blocks and their time-outs (R71, R259, R262, R263, R339, R340).
-/
namespace Sys2Proof.Machine

/-- A block's row that acts while the module runs makes of a running module what its effect does once the block is taken. -/
theorem becomes_of_arrival {i : Instr} {s : State} {b : Block} {f : Sys → Sys} {m : Sys} (hl : live s.sys = true)
    (h : exec i s = done s fun m => whileLive f (consumed b m)) (hf : f (consumed b s.sys) = m) : Becomes i s m :=
  becomes_of_done h ((whileLive_live f _ (show live (consumed b s.sys) = true from hl)).trans hf)

/-- A COLL_RAW goes to the sharded search or the running collective that it names, and is held when neither is there. -/
theorem rawBlock_eq (b : Block) (m : Sys) : rawBlock b m = match shardAwaiting m (leAt b.body 0 4) b.src with
    | some x => shardList x b m
    | none => match collOf m (BitVec.ofNat 32 (leAt b.body 0 4)) with
      | some c => rawArrives c b m
      | none => onFabric (fun x => { x with early := x.early ++ [b] }) m := rfl

theorem scaleTimeout_waited {src : Addr} {ref : BitVec 16} {m : Sys}
    (h : (m.fabric.waitData.any fun d => d.src == src && d.scaleRef == ref) = true) : scaleTimeout src ref m =
      launch (sealBlock { newBlock (ownAddr m) src kE2eAck with ackVc := 2, body := leBytes 1 2 ++ zeros 1 ++ leBytes 2 ref.toNat })
        (onFabric (fun x => { x with
          waitData := x.waitData.filter fun d => !(d.src == src && d.scaleRef == ref),
          scales := x.scales.filter fun k => !(k.src == src && seqBefore k.seq ref) }) m) := if_pos h

theorem collTimeout_running {id : BitVec 32} {c : Coll} {m : Sys} (h : collOf m id = some c) : collTimeout id m = breakColl c m := by
  rw [collTimeout, h]

/-- Settles O26: a block is taken and arrives; a time-out is an event of a running module. -/
theorem collectiveBlocksArrive : Obligations.CollectiveBlocksArrive := by
  unfold Obligations.CollectiveBlocksArrive
  intro s hl ev
  refine ⟨fun b => ?scale, fun b => ?data, fun b => ?raw, fun src ref h => ?scaleTimeout, fun id c h => ?timeout, fun id a x h => ?shard⟩
  case scale => exact becomes_of_arrival (f := scaleArrives b) hl rfl rfl
  case data => exact becomes_of_arrival (f := dataArrives b) hl rfl rfl
  case raw => exact becomes_of_arrival hl rfl (rawBlock_eq b _)
  case scaleTimeout => exact becomes_of_event hl rfl (scaleTimeout_waited h)
  case timeout => exact becomes_of_event hl rfl (collTimeout_running h)
  case shard => exact becomes_of_event hl rfl (by rw [h])

end Sys2Proof.Machine
end

section
/-!
SUPPORT. Membership, roles and routes: link states, assignment, election, hand-over of roles, and the route tables (R72, R76 to R82, R124,
R126, R426).
-/
namespace Sys2Proof.Machine

/-- A change of the fabric depends on what it makes of the fabric as it stands. -/
theorem onFabric_congr {f g : Fabric → Fabric} {m : Sys} (h : f m.fabric = g m.fabric) : onFabric f m = onFabric g m :=
  congrArg (fun x => { m with fabric := x }) h

/-! ### Link state (R76, R126) -/

/-- The blocks that carry a module's LINK_STATE. -/
def showsLink (l : LinkInfo) (b : Block) : Bool := b.kind == kLinkState && leAt b.body 0 8 == l.identity.toNat

/-- The module once a new LINK_STATE is held and forwarded. -/
def linkKept (p : Nat) (l : LinkInfo) (m : Sys) : Sys :=
  forwardLink ((m.fabric.taken.find? (showsLink l)).getD (linkBlock (l.addr.getD 0) l)) (some p)
    (onFabric (fun x => { x with links := tset l.identity.toNat l x.links }) (useTaken (showsLink l) m))

/-- The module's own LINK_STATE, and one already known, is only taken. -/
theorem linkIn_known {p : Nat} {l : LinkInfo} {m : Sys} (h : l.identity = identity ∨ tfind l.identity.toNat m.fabric.links = some l) :
    linkIn p l m = useTaken (showsLink l) m := by
  by_cases hown : l.identity = identity
  · exact if_pos hown
  · exact (if_neg hown).trans (if_pos (h.resolve_left hown))

/-- A new one is held and forwarded; a higher start count tells that its module has restarted. -/
theorem linkIn_new {p : Nat} {l : LinkInfo} {m : Sys} (hown : l.identity ≠ identity)
    (hnew : tfind l.identity.toNat m.fabric.links ≠ some l) : linkIn p l m =
      countGroup (noteRook l
        (match (tfind l.identity.toNat m.fabric.links).bind fun o => if o.starts < l.starts then o.addr else none with
        | some a => moduleLost a (linkKept p l m)
        | none => linkKept p l m)) := by
  refine (if_neg hown).trans ((if_neg hnew).trans (congrArg (fun n => countGroup (noteRook l n)) ?_))
  change (match tfind l.identity.toNat m.fabric.links with
    | some o => match o.addr with
      | some a => if o.starts < l.starts then moduleLost a (linkKept p l m) else linkKept p l m
      | none => linkKept p l m
    | none => linkKept p l m) = _
  cases tfind l.identity.toNat m.fabric.links with
  | none => rfl
  | some o =>
    by_cases hs : o.starts < l.starts <;> cases ha : o.addr <;> simp [hs, ha]

/-! ### Assignment and election (R77, R78) -/

/-- The election with the rivals that it weighs named in one search of the voters. -/
theorem electNow_eq (m : Sys) : electNow m =
    let all := voters m
    let mine := joined m (all.map (·.1)) all.length [identity.toNat]
    let part := all.filter fun v => mine.contains v.1
    match assignerOf part with
    | none => m
    | some a =>
      if (all.any fun v => !mine.contains v.1 && v.2.1 == some 0 && decide (v.1 < a)) = true then dropNumbers m
      else
        let n := onFabric (fun x => { x with conflict := false }) m
        countGroup (if a = identity.toNat then assignAll part n else n) := by
  cases h : assignerOf ((voters m).filter fun v =>
    (joined m ((voters m).map (·.1)) (voters m).length [identity.toNat]).contains v.1) with
  | none => simp only [electNow, h]
  | some a => simp only [electNow, h, List.any_filter]

/-- A rook hands over where it has no host port. -/
theorem rookHandover_eq (m : Sys) : rookHandover m = match nextRook m with
    | none => m
    | some a =>
      if m.fabric.rook = true then (if activeHost m = none then handOver (some a) m else m)
      else if a = ownAddr m then
        becomeRook (onTask (fun t => { t with
          eps := tmap (fun x => { x with held := [], epoch := 0, resetBusy := false, awaited := [] }) t.eps }) m)
      else onFabric (fun x => { x with rookAddr := some a }) m := by
  unfold rookHandover
  cases activeHost m <;> rfl

/-! ### Routes (R79, R81) -/

theorem recompute_auto {m : Sys} (h : m.fabric.routeAuto = true) : recompute m =
    let l := (paths m).filterMap fun e => (tfind e.1 m.fabric.links).map fun k => (k, e)
    let grp := (List.range 1024).map fun g =>
      (g, bestRoute ((l.filter fun e => e.1.group.toNat == g && e.1.group != m.fabric.group).map (·.2)))
    let mbr := (List.range 64).map fun k =>
      (k, if m.fabric.assigned && m.fabric.member.toNat == k then localRoute
        else bestRoute ((l.filter fun e => e.1.addr == some (m.fabric.group ++ BitVec.ofNat 6 k)).map (·.2)))
    onFabric (fun x => { x with grp := setRoutes x.grp grp, mbr := setRoutes x.mbr mbr }) m :=
  if_neg (by simp [h])

/-- The first end of discovery after a port has been UP fixes DISC_TIME. -/
theorem discoveryDone_first {t : Nat} {m : Sys} (hd : m.fabric.done = false) (ht : m.fabric.firstUp = some t) : discoveryDone m =
    onFabric (fun x => { x with done := true, discTime := satOf 32 ((now m - t) * 16 / 1000) }) m :=
  onFabric_congr (by simp [hd, ht])

/-- Settles O27: membership, roles and routes, each row by what it does to a running module. -/
theorem membershipAndRouteRows : Obligations.MembershipAndRouteRows := by
  unfold Obligations.MembershipAndRouteRows
  refine ⟨fun s hl => ?members, fun s hl => ?routes⟩
  case members =>
    intro m ev
    refine ⟨fun port l => ?link, fun id member => ?assign, ?election, fun hne => ?failover, ?handover, fun a pf hr => ?unreachable⟩
    case link =>
      exact ⟨fun h => becomes_of_running hl rfl (linkIn_known h), fun hown hnew => becomes_of_running hl rfl (linkIn_new hown hnew)⟩
    case assign =>
      refine ⟨fun hid => becomes_of_running hl rfl (congrArg countGroup (if_pos hid)),
        fun l hid hk => becomes_of_running hl rfl (congrArg countGroup ((if_neg hid).trans ?_))⟩
      rw [hk]
    case election => exact becomes_of_event hl rfl (electNow_eq ev)
    case failover => exact becomes_of_event hl rfl (if_neg hne)
    case handover => exact becomes_of_event hl rfl (rookHandover_eq ev)
    case unreachable => exact becomes_of_event hl rfl (if_pos hr)
  case routes =>
    intro m ev
    refine ⟨fun ha => ?recompute, fun t hd ht => ?discovery, fun b => ?blocks, fun epoch => ?expire⟩
    case recompute => exact becomes_of_running hl rfl (recompute_auto ha)
    case discovery =>
      have hfab : ev.fabric = m.fabric := takeEvent_fabric 10 m
      exact becomes_of_event hl rfl (congrArg seekImage (discoveryDone_first (hfab ▸ hd) (hfab ▸ ht)))
    case blocks => exact ⟨becomes_of_running hl rfl rfl, becomes_of_running hl rfl rfl⟩
    case expire => exact becomes_of_event hl rfl rfl

end Sys2Proof.Machine
end

section
/-!
SUPPORT. Leases: grants, refusals, recalls, and the loss of either side (R86 to R88, R161).
-/
namespace Sys2Proof.Machine

/-- A grant closes the request that it answers; a grant of 0 GiB lets that request go on, one beyond what may be borrowed is returned, and
any other is held (R86, R161). -/
theorem leaseGrant_eq (id : Word) (addr : Addr) (lease gib : Nat) (m : Sys) : leaseGrant id addr lease gib m =
    let n := useTaken (fun b => b.kind == kLeaseGrant && leAt b.body 0 8 == id.toNat) m
    let ask := answeredAsk id gib n
    let o := ask.elim n fun x => onFabric (fun f => { f with leaseAsks := f.leaseAsks.erase x }) n
    if gib = 0 then ask.elim o fun x => leaseGoesOn x o
    else if min 256 o.fabric.borrowMax.toNat < borrowedGib o + gib then sendLease kLeaseRelease addr lease gib o
    else
      let held := ((borrowedAs o lease).find? fun e => e.2.peer == id).map (·.1)
      retryWaits (onFabric (fun x => { x with
        borrowed := tset (held.getD (freeHandle o))
          { number := lease, peer := id, peerAddr := addr, gib, recalled := false, writes := 0, bytes := [] } x.borrowed }) o) := by
  unfold leaseGrant
  dsimp only
  cases answeredAsk id gib (useTaken (fun b => b.kind == kLeaseGrant && leAt b.body 0 8 == id.toNat) m) <;> rfl

/-- The oldest open request is given up. -/
theorem grantTimeout_cons {x : LeaseAsk} {rest : List LeaseAsk} {m : Sys} (h : m.fabric.leaseAsks = x :: rest) : grantTimeout m =
    retryWaits (skipTensor x.tensor (onFabric (fun f => { f with leaseAsks := rest }) m)) := by
  rw [grantTimeout, h]

/-- A recall has overrun at the lender, or else at the borrower. -/
theorem recallOverrun_recalled {lease : Nat} {l : Lease} {m : Sys}
    (h : (tfind lease m.fabric.lent).filter (·.recalled) = some l ∨
      ((tfind lease m.fabric.lent).filter (·.recalled) = none ∧ ((borrowedAs m lease).map (·.2)).find? (·.recalled) = some l)) :
    recallOverrun lease m = ledgerRec 0x12 false (leaseDetail l lease) (notice 0x12 1 (leaseDetail l lease)
      (addTotal 50 1 (onFabric (fun x => { x with recallLate := satInc x.recallLate }) m))) := by
  obtain hlent | ⟨hlent, hborrowed⟩ := h
  · simp only [recallOverrun, hlent, Option.orElse_some]
  · simp only [recallOverrun, hlent, hborrowed, Option.orElse_none]

/-- The leases of a lost borrower end. -/
theorem borrowerLost_lent {id : Word} {m : Sys} (h : (m.fabric.lent.any fun e => e.2.peer == id) = true) : borrowerLost id m =
    retryWaits (forEach (m.fabric.lent.filter fun e => e.2.peer == id) (fun e => leaseLost e.2)
      (onFabric (fun x => { x with lent := x.lent.filter fun e => e.2.peer != id }) m)) := by
  refine if_neg fun hnone => ?_
  rw [List.isEmpty_iff, List.filter_eq_nil_iff] at hnone
  obtain ⟨e, he, hid⟩ := List.any_eq_true.1 h
  exact hnone e he hid

/-- Settles O28: each row is a change of a running module, under the condition that its hypothesis names. -/
theorem leaseRows : Obligations.LeaseRows := by
  unfold Obligations.LeaseRows
  intro s hl m ev
  refine ⟨fun id addr gib => ?request, fun id addr lease gib => ?grant, fun x rest h => ?timeout, fun lease => ?recalled, fun lease => ?release,
    fun lease => ?idle, fun lease l h => ?late, fun id => ?lender, fun id h => ?borrower⟩
  case request => exact becomes_of_running (f := leaseReq id addr gib.toNat) hl rfl rfl
  case grant =>
    have h := leaseGrant_eq id addr lease.toNat gib.toNat s.sys
    have hz : gib.toNat = 0 ↔ gib = 0 := BitVec.toNat_inj (y := 0)
    exact ⟨fun hg => becomes_of_running hl rfl (h.trans (if_pos (hz.2 hg))),
      fun hg hmax => becomes_of_running hl rfl (h.trans ((if_neg (mt hz.1 hg)).trans (if_pos hmax))),
      fun hg hmax => becomes_of_running hl rfl (h.trans ((if_neg (mt hz.1 hg)).trans (if_neg (Nat.not_lt.2 hmax))))⟩
  case timeout => exact becomes_of_event hl rfl (grantTimeout_cons h)
  case recalled => exact becomes_of_running (f := leaseRecall lease.toNat) hl rfl rfl
  case release => exact becomes_of_running (f := leaseReleased lease.toNat) hl rfl rfl
  case idle => exact becomes_of_event hl rfl rfl
  case late => exact becomes_of_event hl rfl (recallOverrun_recalled h)
  case lender => exact becomes_of_event (f := lenderLost id) hl rfl rfl
  case borrower => exact becomes_of_event hl rfl (borrowerLost_lent h)

end Sys2Proof.Machine
end

section
/-!
SUPPORT. Endpoints and their task registers: what a change of one endpoint leaves of each (R93, R94).
-/
namespace Sys2Proof.Machine

@[simp] theorem takeEvent_task (pos : Nat) (m : Sys) : (takeEvent pos m).task = m.task := by
  simp only [takeEvent, addTotal, apply_ite Sys.task, onHealth_task, ite_self]

@[simp] theorem epOf_onEp_same (e : Nat) (f : Endpoint → Endpoint) (m : Sys) : epOf (onEp e f m) e = f (epOf m e) :=
  tget_tupd_same _ e f m.task.eps

theorem epOf_onEp_other {e d : Nat} (f : Endpoint → Endpoint) (m : Sys) (h : d ≠ e) : epOf (onEp e f m) d = epOf m d :=
  tget_tupd_other _ e d f m.task.eps h

/-- A change of one endpoint keeps in every endpoint what it keeps in its own. -/
theorem epOf_onEp_keeps {β : Type} (g : Endpoint → β) (e : Nat) (f : Endpoint → Endpoint) (m : Sys) (d : Nat)
    (h : ∀ x, g (f x) = g x := by intro; rfl) : g (epOf (onEp e f m) d) = g (epOf m d) := by
  by_cases hd : d = e
  · rw [hd, epOf_onEp_same, h]
  · rw [epOf_onEp_other f m hd]

/-- A change of one table entry in place is read back there. -/
theorem tfind_mapAt {α : Type} (k : Nat) (f : α → α) (t : Tab α) :
    tfind k (t.map fun e => if e.1 = k then (k, f e.2) else e) = (tfind k t).map f := by
  induction t with
  | nil => rfl
  | cons e t ih =>
    by_cases hk : e.1 = k
    · simp [tfind, hk]
    · simp [tfind, hk, ih]

/-- The register whose phase changes holds the same command in its new phase. -/
theorem heldOf_setPhase (ep reg : Nat) (p : Phase) (m : Sys) :
    heldOf (setPhase ep reg p m) ep reg = (heldOf m ep reg).map fun h => { h with phase := p } := by
  rw [heldOf, setPhase, epOf_onEp_same]
  exact tfind_mapAt reg (fun h : Held => { h with phase := p }) _

end Sys2Proof.Machine
end

section
/-!
SUPPORT. The one completion record of a command (R94, R106, R107, R109, R113, R123, R125).
-/
namespace Sys2Proof.Machine

/-! ### The two ways in which a command ends -/

/-- A command with no record due is only forgotten (R123, R125). -/
theorem complete_not_due {c : Cmd} {m : Sys} (e : Ending) (h : live m = false ∨ hasRecord m c = false) : complete c e m = dropCmd c m :=
  if_pos (by rcases h with h | h <;> simp [h])

/-- One with a record due is forgotten and counted, and its record leaves: out of the host port, or for its rook (R106, R109). -/
theorem complete_due {c : Cmd} {m : Sys} (e : Ending) (hl : live m = true) (hr : hasRecord m c = true) :
    complete c e m =
      let b := completionBlock m c (recordBytes (ownAddr m) c e)
      let n := takeEvent 8 (dropCmd c m)
      if c.rook = ownAddr m then toHost b (setPhase c.ep.toNat c.reg.toNat .recordSent n)
      else sendBlock b (onTask (fun t => { t with ended := t.ended ++ [c] }) n) :=
  if_neg (by simp [hl, hr])

/-- The module when a record that is due leaves: the command is forgotten, its completion counted, and its register marked at its rook, or
its end kept until the record is acknowledged. -/
def readyToReport (c : Cmd) (m : Sys) : Sys :=
  let n := takeEvent 8 (dropCmd c m)
  if c.rook = ownAddr m then setPhase c.ep.toNat c.reg.toNat .recordSent n else onTask (fun t => { t with ended := t.ended ++ [c] }) n

/-- From there on the record is only sent. -/
theorem complete_due_sends {c : Cmd} {m : Sys} (e : Ending) (hl : live m = true) (hr : hasRecord m c = true) :
    sends (readyToReport c m) (complete c e m) := by
  rw [complete_due e hl hr, readyToReport]
  by_cases hown : c.rook = ownAddr m
  · simp only [if_pos hown]
    exact sends_toHost _ _
  · simp only [if_neg hown]
    exact sends_sendBlock _ _

theorem readyToReport_frame (c : Cmd) (m : Sys) : (readyToReport c m).fabric = m.fabric ∧ (readyToReport c m).health = (takeEvent 8 m).health ∧
    (readyToReport c m).task.running = m.task.running.filter fun d => !sameCmd c d := by
  unfold readyToReport
  dsimp only
  split <;> exact ⟨rfl, rfl, rfl⟩

/-! ### No record after the end -/

/-- Whether a command's record is to come depends on the task registers and on the module's own address. -/
theorem hasRecord_congr {m n : Sys} (ht : n.task = m.task) (ha : ownAddr n = ownAddr m) (c : Cmd) : hasRecord n c = hasRecord m c := by
  simp only [hasRecord, heldOf, epOf, ht, ha]

/-- A command is not among those that are left when it is forgotten. -/
theorem not_any_forgotten (c : Cmd) (l : List Cmd) : (l.filter fun d => !sameCmd c d).any (sameCmd c) = false := by
  simp [List.any_eq_false]

/-- A command that is forgotten gains no record. -/
theorem hasRecord_dropCmd {c : Cmd} {m : Sys} (h : hasRecord m c = false) : hasRecord (dropCmd c m) c = false := by
  by_cases hown : c.rook = ownAddr m
  · exact (if_pos hown).trans ((if_pos hown).symm.trans h)
  · exact (if_neg hown).trans (not_any_forgotten c m.task.relayed)

/-- A command whose record leaves has no further record to come: its register says so, or it is no longer held as a relay. -/
theorem hasRecord_readyToReport (c : Cmd) (m : Sys) : hasRecord (readyToReport c m) c = false := by
  obtain ⟨hfabric, -, -⟩ := readyToReport_frame c m
  rw [hasRecord, show ownAddr (readyToReport c m) = ownAddr m by rw [ownAddr, hfabric, ← ownAddr]]
  by_cases hown : c.rook = ownAddr m
  · simp only [readyToReport, if_pos hown, heldOf_setPhase]
    cases heldOf (takeEvent 8 (dropCmd c m)) c.ep.toNat c.reg.toNat <;> simp
  · simp only [readyToReport, if_neg hown]
    exact not_any_forgotten c m.task.relayed

/-- A command that has ended has no record to come. -/
theorem hasRecord_complete (c : Cmd) (e : Ending) {m : Sys} (hl : live m = true) : hasRecord (complete c e m) c = false := by
  cases hr : hasRecord m c with
  | false => exact complete_not_due e (.inr hr) ▸ hasRecord_dropCmd hr
  | true =>
    have hsend := complete_due_sends e hl hr
    obtain ⟨-, htask, -, -⟩ := sends_frame hsend
    exact (hasRecord_congr htask hsend.2 c).trans (hasRecord_readyToReport c m)

/-- A command that has ended does not run. -/
theorem complete_running (c : Cmd) (e : Ending) (m : Sys) :
    (complete c e m).task.running = m.task.running.filter fun d => !sameCmd c d := by
  by_cases h : live m = false ∨ hasRecord m c = false
  · rw [complete_not_due e h]
    rfl
  · simp only [not_or, Bool.not_eq_false] at h
    obtain ⟨-, htask, -, -⟩ := sends_frame (complete_due_sends e h.1 h.2)
    obtain ⟨-, -, hrunning⟩ := readyToReport_frame c m
    rw [htask, hrunning]

/-- Ending a command again only forgets it. -/
theorem complete_complete (c : Cmd) (e f : Ending) (m : Sys) : complete c f (complete c e m) = dropCmd c (complete c e m) := by
  cases hl : live m with
  | false => exact complete_not_due f (.inl (complete_not_due e (.inl hl) ▸ hl))
  | true => exact complete_not_due f (.inr (hasRecord_complete c e hl))

/-- Settles O47: a command with no record due is only forgotten; one with a record due is counted and reported, and has none due after
that. -/
theorem oneCompletionRecord : Obligations.OneCompletionRecord := by
  unfold Obligations.OneCompletionRecord
  intro c e f m r b
  have hagain : complete c f r = dropCmd c r := complete_complete c e f m
  refine ⟨sameContents_complete c e m, ?stopped, complete_not_due e, fun hl hr => ⟨?counted, complete_due e hl hr⟩,
    hasRecord_complete c e, hagain ▸ rfl, hagain ▸ rfl⟩
  case stopped => exact complete_running c e m ▸ not_any_forgotten c _
  case counted =>
    obtain ⟨-, -, -, hsent⟩ := sends_frame (complete_due_sends e hl hr)
    obtain ⟨-, hcounted, -⟩ := readyToReport_frame c m
    exact hsent.trans hcounted

end Sys2Proof.Machine
end

section
/-!
SUPPORT. The commands that only ask: each ends, with data or without, and changes no contents (R100, R286, R378, R414, R415, R460).
-/
namespace Sys2Proof.Machine

/-- A command whose own effect changes no contents answers a next state with the contents as they were. -/
theorem answers_sameContents {i : Instr} {c : Cmd} {f : Sys → Sys} {s : State} (h : exec i s = done s (asCommand c f))
    (hf : ∀ m, sameContents m (f m)) : Answers i s (sameContents s.sys) :=
  ⟨_, h, sameContents_asCommand c f hf s.sys⟩

/-- A choice between two changes that change no contents. -/
theorem sameContents_ite (p : Prop) [Decidable p] {m a b : Sys} (ha : sameContents m a) (hb : sameContents m b) :
    sameContents m (if p then a else b) := by
  split
  · exact ha
  · exact hb

/-- JOB_QUERY answers for the running job or for one that waits, whose current step is a free value (R286; log entry 2). -/
theorem sameContents_jobQuery (c : Cmd) (m : Sys) : sameContents m (jobQuery c m) := by
  unfold jobQuery
  dsimp only
  split
  · exact sameContents_complete c _ m
  · split
    · exact sameContents_trans (sameContents_onHealth _ m) (sameContents_complete c _ _)
    · exact sameContents_endWith c _ m

theorem sameContents_nsQuery (c : Cmd) (m : Sys) : sameContents m (nsQuery c m) :=
  sameContents_ite _ (sameContents_endWith c _ m) (sameContents_complete c _ m)

theorem sameContents_mediaQuery (c : Cmd) (m : Sys) : sameContents m (mediaQuery c m) := by
  unfold mediaQuery
  exact sameContents_complete c _ m

theorem sameContents_certRead (c : Cmd) (m : Sys) : sameContents m (certRead c m) :=
  sameContents_ite _ (sameContents_endWith c _ m) (sameContents_deliver c _ _ m)

theorem sameContents_calRead (c : Cmd) (m : Sys) : sameContents m (calRead c m) :=
  sameContents_ite _ (sameContents_endWith c _ m) (sameContents_deliver c _ _ m)

theorem sameContents_cfgRead (c : Cmd) (m : Sys) : sameContents m (cfgRead c m) :=
  sameContents_ite _ (sameContents_complete c _ m) (sameContents_ite _ (sameContents_complete c _ m) (sameContents_endWith c _ m))

theorem sameContents_healthQuery (c : Cmd) (m : Sys) : sameContents m (healthQuery c m) :=
  sameContents_ite _ (sameContents_endWith c _ m) (sameContents_deliver c _ _ m)

theorem sameContents_ledgerRead (c : Cmd) (m : Sys) : sameContents m (ledgerRead c m) :=
  sameContents_ite _ (sameContents_endWith c _ m) (sameContents_deliver c _ _ m)

/-- Settles O48: each command's own effect changes no contents, and so neither does running it. -/
theorem queriesChangeNoContents : Obligations.QueriesChangeNoContents := by
  unfold Obligations.QueriesChangeNoContents
  intro s c i h
  obtain rfl | rfl | rfl | rfl | rfl | rfl | rfl | rfl | rfl | rfl := h
  · exact answers_sameContents (f := nopCmd c) rfl (sameContents_complete c _)
  · exact answers_sameContents rfl (sameContents_jobQuery c)
  · exact answers_sameContents rfl (sameContents_nsQuery c)
  · exact answers_sameContents rfl (sameContents_mediaQuery c)
  · exact answers_sameContents rfl fun m => sameContents_complete c _ m
  · exact answers_sameContents rfl (sameContents_certRead c)
  · exact answers_sameContents rfl (sameContents_calRead c)
  · exact answers_sameContents rfl (sameContents_cfgRead c)
  · exact answers_sameContents rfl (sameContents_healthQuery c)
  · exact answers_sameContents rfl (sameContents_ledgerRead c)

end Sys2Proof.Machine
end

section
/-!
SUPPORT. The arrival of a TASK_WRITE: discarded, refused or accepted, and what each leaves of the task registers (R73, R74, R93 to R95,
R99).
-/
namespace Sys2Proof.Machine

/-! ### The checks of R95 -/

/-- Task register `i` of an endpoint lies 128 bytes times `i` above the endpoint's first (R93). -/
theorem taskRegister_iff (ep : BitVec 4) (a : Word) (i : Nat) :
    taskRegister ep a = some i ↔ i < 256 ∧ a.toNat = 0x100000 + 0x10000 * ep.toNat + 0x80 * i := by
  unfold taskRegister
  dsimp only
  split
  · rw [Option.some.injEq]
    omega
  · simp only [reduceCtorEq, false_iff]
    omega

/-- A register is named by `acceptable` when every check holds and the register is FREE. -/
theorem acceptable_eq_some {port : Nat} {b : Block} {m : Sys} {i : Nat} : acceptable port b m = some i ↔
    (activeHost m = some port ∧ rookServes m = true ∧ b.host = true ∧ b.dst = ownAddr m ∧ b.ep.toNat < (portOf m port).endpoints.toNat ∧
      b.body.length = 128 ∧ (epOf m b.ep.toNat).credit ≠ 0 ∧ (epOf m b.ep.toNat).resetBusy = false) ∧
    taskRegister b.ep b.target = some i ∧ tfind i (epOf m b.ep.toNat).held = none := by
  unfold acceptable
  dsimp only
  split
  case isFalse h =>
    simp only [reduceCtorEq, false_iff]
    exact fun hall => h hall.1
  case isTrue h =>
    simp only [and_iff_right h]
    cases taskRegister b.ep b.target with
    | none => simp
    | some j =>
      simp only [Option.ite_none_right_eq_some, Option.isNone_iff_eq_none, Option.some.injEq]
      constructor
      · rintro ⟨hfree, rfl⟩
        exact ⟨rfl, hfree⟩
      · rintro ⟨rfl, hfree⟩
        exact ⟨hfree, rfl⟩

/-- A rook that serves is a rook. -/
theorem rook_of_rookServes {m : Sys} (h : rookServes m = true) : m.fabric.rook = true := by
  simp only [rookServes, Bool.and_eq_true] at h
  obtain ⟨⟨⟨-, hrook⟩, -⟩, -⟩ := h
  exact hrook

/-! ### What becomes of the block -/

@[simp] theorem ownAddr_takeEvent (pos : Nat) (m : Sys) : ownAddr (takeEvent pos m) = ownAddr m := by
  rw [ownAddr, takeEvent_fabric, ← ownAddr]

/-- A TASK_WRITE for another module, or a broadcast, is discarded and counted (R74). -/
theorem taskWrite_elsewhere {port : Nat} {b : Block} {m : Sys} (hl : live m = true) (h : b.dst ≠ ownAddr m ∨ b.bcast ≠ 0) :
    taskWrite port b m = badBlock (takeEvent 7 (consumed b m)) := by
  rw [taskWrite, asEvent_live _ _ _ (show live (consumed b m) = true from hl), if_pos (by rwa [ownAddr_takeEvent])]

/-- One for this module is accepted in the register that it names, or refused (R95). -/
theorem taskWrite_here {port : Nat} {b : Block} {m : Sys} (hl : live m = true) (hd : b.dst = ownAddr m) (hb : b.bcast = 0) :
    taskWrite port b m = (acceptable port b (takeEvent 7 (consumed b m))).elim (refuseTask b (takeEvent 7 (consumed b m)))
      fun i => acceptTask i b (takeEvent 7 (consumed b m)) := by
  have hhere : ¬(b.dst ≠ ownAddr (takeEvent 7 (consumed b m)) ∨ b.bcast ≠ 0) := by
    rw [ownAddr_takeEvent]
    exact not_or.2 ⟨not_not_intro hd, not_not_intro hb⟩
  rw [taskWrite, asEvent_live _ _ _ (show live (consumed b m) = true from hl), if_neg hhere]
  cases acceptable port b (takeEvent 7 (consumed b m)) <;> rfl

theorem taskWrite_refused {port : Nat} {b : Block} {m : Sys} (hl : live m = true) (hd : b.dst = ownAddr m) (hb : b.bcast = 0)
    (h : acceptable port b (takeEvent 7 (consumed b m)) = none) : taskWrite port b m = refuseTask b (takeEvent 7 (consumed b m)) := by
  rw [taskWrite_here hl hd hb, h]
  rfl

theorem taskWrite_accepted {port : Nat} {b : Block} {m : Sys} {i : Nat} (hl : live m = true) (hd : b.dst = ownAddr m) (hb : b.bcast = 0)
    (h : acceptable port b (takeEvent 7 (consumed b m)) = some i) :
    taskWrite port b m = acceptTask i b (takeEvent 7 (consumed b m)) := by
  rw [taskWrite_here hl hd hb, h]
  rfl

/-! ### What a refusal leaves -/

theorem sends_refuseTask (b : Block) (m : Sys) :
    sends (onEp b.ep.toNat (fun x => { x with refused := satInc x.refused }) m) (refuseTask b m) := sends_toHost _ _

/-- A refusal changes no endpoint but by its own count. -/
theorem epOf_refuseTask (b : Block) (m : Sys) (e : Nat) :
    epOf (refuseTask b m) e = epOf (onEp b.ep.toNat (fun x => { x with refused := satInc x.refused }) m) e := by
  simp only [epOf, (sends_frame (sends_refuseTask b m)).2.1]

theorem held_refuseTask (b : Block) (m : Sys) (e : Nat) : (epOf (refuseTask b m) e).held = (epOf m e).held :=
  (congrArg Endpoint.held (epOf_refuseTask b m e)).trans (epOf_onEp_keeps Endpoint.held _ _ m e)

theorem refused_refuseTask (b : Block) (m : Sys) : (epOf (refuseTask b m) b.ep.toNat).refused = satInc (epOf m b.ep.toNat).refused := by
  rw [epOf_refuseTask, epOf_onEp_same]

theorem sameContents_refuseTask (b : Block) (m : Sys) : sameContents m (refuseTask b m) :=
  sameContents_trans (sameContents_onTask _ m) (sends_frame (sends_refuseTask b m)).1

/-! ### What an acceptance leaves -/

/-- The command that a TASK_WRITE submits in register `i` (R97). -/
def submitted (i : Nat) (b : Block) (m : Sys) : Cmd :=
  readCommand (ownAddr m) b.ep (BitVec.ofNat 8 i) (epOf m b.ep.toNat).epoch b.body

/-- The register's entry for it (R94). -/
def submittedHeld (i : Nat) (b : Block) (m : Sys) : Held :=
  { block := b.body, cmd := submitted i b m, order := m.task.order, turn := now m, phase := .waiting }

/-- The module once register `i` is HELD by the command submitted, and the endpoint's credit is reported (R94). -/
def registerHeld (i : Nat) (b : Block) (m : Sys) : Sys :=
  reportCredit b.ep.toNat (onTask (fun t => { t with order := t.order + 1 })
    (onEp b.ep.toNat (fun x => { x with held := tset i (submittedHeld i b m) x.held, accepted := satInc x.accepted }) m))

/-- A command accepted that fails a check of R99 ends at once. -/
theorem acceptTask_eq (i : Nat) (b : Block) (m : Sys) : acceptTask i b m =
    if acceptChecks (submitted i b m) b.body m then registerHeld i b m
    else endWith (submitted i b m) stBadCommand (registerHeld i b m) := by
  change onlyIf (!acceptChecks (submitted i b m) b.body m) (endWith (submitted i b m) stBadCommand) (registerHeld i b m) = _
  cases acceptChecks (submitted i b m) b.body m <;> rfl

theorem held_reportCredit (e : Nat) (m : Sys) (d : Nat) : (epOf (reportCredit e m) d).held = (epOf m d).held :=
  epOf_onEp_keeps Endpoint.held e _ m d

theorem refused_reportCredit (e : Nat) (m : Sys) (d : Nat) : (epOf (reportCredit e m) d).refused = (epOf m d).refused :=
  epOf_onEp_keeps Endpoint.refused e _ m d

/-- The submission order has no part in an endpoint. -/
theorem epOf_onOrder (f : Nat → Nat) (m : Sys) (e : Nat) : epOf (onTask (fun t => { t with order := f t.order }) m) e = epOf m e := rfl

/-- The registers that the endpoint holds after an acceptance. -/
theorem held_registerHeld (i : Nat) (b : Block) (m : Sys) :
    (epOf (registerHeld i b m) b.ep.toNat).held = tset i (submittedHeld i b m) (epOf m b.ep.toNat).held := by
  rw [registerHeld, held_reportCredit, epOf_onOrder (· + 1), epOf_onEp_same]

/-- No other register changes. -/
theorem tfind_registerHeld_other {i j e : Nat} {b : Block} (m : Sys) (h : e ≠ b.ep.toNat ∨ j ≠ i) :
    tfind j (epOf (registerHeld i b m) e).held = tfind j (epOf m e).held := by
  by_cases he : e = b.ep.toNat
  · rw [he, held_registerHeld, tfind_tset_other _ _ _ _ (h.resolve_left (not_not_intro he))]
  · rw [registerHeld, held_reportCredit, epOf_onOrder (· + 1), epOf_onEp_other _ m he]

/-- An acceptance is no refusal. -/
theorem refused_registerHeld (i : Nat) (b : Block) (m : Sys) (e : Nat) : (epOf (registerHeld i b m) e).refused = (epOf m e).refused := by
  rw [registerHeld, refused_reportCredit, epOf_onOrder (· + 1)]
  exact epOf_onEp_keeps Endpoint.refused _ _ m e

/-- Settles O58: the block is discarded, or it is accepted where `acceptable` names its register and refused where it names none. -/
theorem taskWriteAcceptance : Obligations.TaskWriteAcceptance := by
  unfold Obligations.TaskWriteAcceptance
  refine ⟨taskRegister_iff, fun port b s hl => ?_⟩
  intro m x met
  refine ⟨fun h => ?elsewhere, fun hd hb hnone => ?refused, fun i hd hb hmet hserves => ?accepted⟩
  case elsewhere => exact becomes_of_done rfl (taskWrite_elsewhere hl h)
  case refused =>
    have hacc : acceptable port.toNat b m = none := by
      refine Option.eq_none_iff_forall_ne_some.2 fun i hi => hnone ⟨i, ?_⟩
      obtain ⟨⟨hport, hserves, hhost, -, hep, hlen, hcredit, hbusy⟩, hreg, hfree⟩ := acceptable_eq_some.1 hi
      exact ⟨rook_of_rookServes hserves, hport, hhost, hep, hreg, hlen, hfree, hcredit, hbusy⟩
    obtain ⟨hrange, hcores, hjobs, -⟩ := sameContents_refuseTask b m
    exact ⟨_, becomes_of_done rfl (taskWrite_refused hl hd hb hacc), hcores, hjobs, hrange, held_refuseTask b m, refused_refuseTask b m, rfl⟩
  case accepted =>
    obtain ⟨-, hport, hhost, hep, hreg, hlen, hfree, hcredit, hbusy⟩ := hmet
    have haddr : ownAddr m = ownAddr s.sys := ownAddr_takeEvent 7 (consumed b s.sys)
    have hacc : acceptable port.toNat b m = some i :=
      acceptable_eq_some.2 ⟨⟨hport, hserves, hhost, hd.trans haddr.symm, hep, hlen, hcredit, hbusy⟩, hreg, hfree⟩
    refine ⟨registerHeld i b m, ?register, refused_registerHeld i b m b.ep.toNat, fun e j => tfind_registerHeld_other m, ?effect⟩
    case register => rw [held_registerHeld, tfind_tset_same]; rfl
    case effect => exact becomes_of_done rfl ((taskWrite_accepted hl hd hb hacc).trans (acceptTask_eq i b m))

end Sys2Proof.Machine
end

section
/-!
SUPPORT. Dispatch at the rook, and the freeing of a task register (R94, R99, R101, R103, R117).
-/
namespace Sys2Proof.Machine

/-! ### Dispatch -/

/-- A rook that serves dispatches the next command. -/
theorem commandDispatch_next {m : Sys} {e : Nat} {h : Held} (hs : rookServes m = true) (hn : nextCommand m = some (e, h)) :
    commandDispatch m = dispatchHeld e h m := by
  rw [commandDispatch, if_pos hs, hn]

/-- The module once endpoint `e` has been served; an ABORT_TAG does not count in the round-robin (R101, R118). -/
def servedAt (e : Nat) (h : Held) (m : Sys) : Sys :=
  onTask (fun t => { t with lastEp := if h.cmd.opcode = 0x0A then t.lastEp else e }) m

/-- A command without a route to its EXEC_ADDR ends (R99). -/
theorem dispatchHeld_unrouted {e : Nat} {h : Held} {m : Sys} (hr : routeGood h.cmd (servedAt e h m) = false) :
    dispatchHeld e h m = endWith h.cmd stBadCommand (servedAt e h m) :=
  if_pos (show (!routeGood h.cmd (servedAt e h m)) = true by rw [hr]; rfl)

/-- One with a route starts here or is relayed (R103). -/
theorem dispatchHeld_routed {e : Nat} {h : Held} {m : Sys} (hr : routeGood h.cmd (servedAt e h m) = true) (ho : h.cmd.opcode ≠ 0x0A) :
    dispatchHeld e h m =
      if h.cmd.exec = ownAddr m then startCmd h.cmd (setPhase e h.cmd.reg.toNat .running (servedAt e h m))
      else sendRelay e h h.cmd.exec (servedAt e h m) :=
  (if_neg (show ¬(!routeGood h.cmd (servedAt e h m)) = true by rw [hr]; decide)).trans (if_neg ho)

/-- An ABORT_TAG is settled here, or relayed to the module that holds its target (R117). -/
theorem dispatchHeld_abort {e : Nat} {h : Held} {m : Sys} (hr : routeGood h.cmd (servedAt e h m) = true) (ho : h.cmd.opcode = 0x0A) :
    dispatchHeld e h m = match abortAt e h (servedAt e h m) with
      | some d => sendRelay e h d (servedAt e h m)
      | none => abortTagCmd h.cmd (servedAt e h m) :=
  (if_neg (show ¬(!routeGood h.cmd (servedAt e h m)) = true by rw [hr]; decide)).trans (if_pos ho)

/-! ### A register becomes FREE -/

/-- A register whose record has left is freed (R94). -/
theorem taskFree_sent {e reg : Nat} {h : Held} {m : Sys} (hl : live m = true) (hh : heldOf m e reg = some h) (hp : h.phase = .recordSent)
    (hw : recordWaits e reg m = false) : taskFree e reg m =
      let n := takeEvent 8 m
      settleReset e (reportCredit e (onEp e (fun x => { x with
        held := tdel reg x.held,
        latMax := if h.cmd.opcode = 0x01 ∨ h.cmd.opcode = 0x02 then satMax x.latMax (now n - h.turn) else x.latMax }) n)) := by
  rw [taskFree, hh]
  exact (if_pos ⟨hp, hw⟩).trans (asEvent_live _ _ m hl)

/-- Settles O10: an arrival that meets the checks is accepted; the next command is dispatched by its route and its opcode; a register whose
record has left is freed. -/
theorem commandsArriveAndAreDispatched : Obligations.CommandsArriveAndAreDispatched := by
  unfold Obligations.CommandsArriveAndAreDispatched
  refine ⟨fun port b s i hl => ?arrival, fun s e h hs hn => ?dispatch, fun s ep reg h hl hh hp hw => ?freed⟩
  case arrival =>
    intro m e hport hserves hhost hd hb hep hlen hcredit hbusy hreg hfree
    have hacc : acceptable port.toNat b m = some i :=
      acceptable_eq_some.2 ⟨⟨hport, hserves, hhost, hd, hep, hlen, hcredit, hbusy⟩, hreg, hfree⟩
    have haddr : ownAddr m = ownAddr s.sys := ownAddr_takeEvent 7 (consumed b s.sys)
    exact becomes_of_done rfl (taskWrite_accepted hl (hd.trans haddr) hb hacc)
  case dispatch =>
    have hnext : commandDispatch s.sys = dispatchHeld e h s.sys := commandDispatch_next hs hn
    exact ⟨fun hr => becomes_of_done rfl (hnext.trans (dispatchHeld_unrouted hr)),
      fun hr ho => becomes_of_done rfl (hnext.trans (dispatchHeld_routed hr ho)),
      fun hr ho => becomes_of_done rfl (hnext.trans (dispatchHeld_abort hr ho))⟩
  case freed => exact becomes_of_done rfl (taskFree_sent hl hh hp hw)

end Sys2Proof.Machine
end

section
/-!
SUPPORT. READ, WRITE, POWER_STATE and ABORT_TAG once nothing holds them back (R100, R105, R117, R119).
-/
namespace Sys2Proof.Machine

/-- A command's row makes of a module that serves commands what its own effect makes of the module once the command has started. -/
theorem becomes_of_served {i : Instr} {c : Cmd} {f : Sys → Sys} {s : State} {m : Sys} (hs : serves s.sys = true)
    (h : exec i s = done s (asCommand c f)) (hf : f (startCmd c s.sys) = m) : Becomes i s m :=
  becomes_of_done h ((asCommand_serves c f s.sys hs).trans hf)

/-! ### READ and WRITE -/

/-- A READ of bytes that lie in a tensor, and for which nothing makes it wait, delivers them or ends with their condition (R100, R105). -/
theorem readCmd_reached {c : Cmd} {m : Sys} {t : Tensor} (hn : userNumber (tnumOf c.tensor) = true) (ht : tensorOf m (tnumOf c.tensor) = some t)
    (hin : offsetOf c.tensor + c.length.toNat ≤ t.size) (hst : t.state ≠ .building) (hlen : c.length ≠ 0)
    (hbusy : unitsBusy c (tnumOf c.tensor) (offsetOf c.tensor) c.length.toNat m = false)
    (hstack : stackWaits m t (offsetOf c.tensor) c.length.toNat = false) (hrace : readRaces m (tnumOf c.tensor) = false) :
    let r := readTensor (tnumOf c.tensor) (offsetOf c.tensor) c.length.toNat m
    let e := readEnding (tnumOf c.tensor) r.1
    readCmd c m = if e.status = stDone then deliver c r.1.bytes [] r.2 else complete c e r.2 := by
  have hpos : c.length.toNat ≠ 0 := BitVec.toNat_ne.1 hlen
  simp only [readCmd, hn, ht, hbusy, hstack, hrace, Nat.not_lt.2 hin, hst, hpos, Bool.not_true, Bool.or_false, Bool.false_eq_true,
    if_false]

/-- A WRITE of bytes that lie in a tensor begins their fetch; a sealed tensor stays as it is (R100, R105). -/
theorem writeCmd_reached {c : Cmd} {m : Sys} {t : Tensor} (hn : userNumber (tnumOf c.tensor) = true) (ht : tensorOf m (tnumOf c.tensor) = some t)
    (hin : offsetOf c.tensor + c.length.toNat ≤ t.size) (hst : t.state ≠ .lost) (hlen : c.length ≠ 0)
    (hbusy : unitsBusy c (tnumOf c.tensor) (offsetOf c.tensor) c.length.toNat m = false)
    (hfetch : (m.task.fetches.any fun f => sameCmd f.cmd c) = false) :
    writeCmd c m = if t.isSealed then endWith c stReadOnly m else beginFetch c m := by
  have hpos : c.length.toNat ≠ 0 := BitVec.toNat_ne.1 hlen
  simp only [writeCmd, hn, ht, hbusy, hfetch, Nat.not_lt.2 hin, hst, hpos, Bool.not_true, Bool.false_eq_true, if_false]

/-! ### POWER_STATE -/

/-- POWER_STATE for P1 in P1 has nothing to do (R119). -/
theorem powerStateCmd_p1 {c : Cmd} {m : Sys} (hw : BitVec.ofNat 2 (par c 32 1) = 1) (ht : m.power.inTransition = false)
    (hp : m.power.current = 1) : powerStateCmd c m = endWith c stDone m := by
  simp [powerStateCmd, hw, ht, hp]

/-- An entry to P2 or P3 that nothing refuses begins with its first step (R33, R119, R163). -/
theorem powerStateCmd_entry {c : Cmd} {m : Sys} {want : BitVec 2} (hw : want = BitVec.ofNat 2 (par c 32 1)) (ht : m.power.inTransition = false)
    (hp : m.power.current = 1) (hwant : (want = 2 ∧ t0Leaves m = true) ∨ want = 3) (hlow : lowBlocked m = false) :
    powerStateCmd c m = onPower (fun p => { p with
      inTransition := true, target := want, entry := some { target := want, cmd := c, step := .waitJobs, waitSeq := 0 } }) m := by
  obtain ⟨h2, hleaves⟩ | h3 := hwant
  · simp [powerStateCmd, ← hw, h2, ht, hp, hlow, hleaves]
  · simp [powerStateCmd, ← hw, h3, ht, hp, hlow]

/-! ### ABORT_TAG -/

/-- At the rook an ABORT_TAG without a target has missed (R117). -/
theorem abortTagCmd_missed {c : Cmd} {m : Sys} {h : Held} (hown : c.rook = ownAddr m)
    (hh : tfind c.reg.toNat (epOf m c.ep.toNat).held = some h)
    (hx : abortTarget (epOf m c.ep.toNat) (BitVec.ofNat 16 (par c 32 2)) h.order = none) :
    abortTagCmd c m = endWith c stAbortMissed m := by
  simp only [abortTagCmd, if_pos hown, hh, Option.map_some, Option.getD_some, hx]

/-- At the rook an undispatched target ends first, and the ABORT_TAG after it (R117). -/
theorem abortTagCmd_caught {c : Cmd} {m : Sys} {h x : Held} (hown : c.rook = ownAddr m)
    (hh : tfind c.reg.toNat (epOf m c.ep.toNat).held = some h)
    (hx : abortTarget (epOf m c.ep.toNat) (BitVec.ofNat 16 (par c 32 2)) h.order = some x) (hp : x.phase = .waiting)
    (ho : x.cmd.opcode ≠ 0x0A) : abortTagCmd c m = endWith c stAborted (endWith x.cmd stAborted m) := by
  simp only [abortTagCmd, if_pos hown, hh, Option.map_some, Option.getD_some, hx]
  exact if_pos ⟨hp, ho⟩

/-- At a module that executes for another rook it ends the oldest relayed command of its tag that has not started (R117). -/
theorem abortTagCmd_relayed {c d : Cmd} {m : Sys} (hown : c.rook ≠ ownAddr m)
    (hd : ((m.task.relayed.takeWhile fun d => !sameCmd d c).find? fun d => d.rook == c.rook && d.ep == c.ep &&
      d.tag == BitVec.ofNat 16 (par c 32 2)) = some d)
    (ho : d.opcode ≠ 0x0A) (hr : m.task.running.any (sameCmd d) = false) :
    abortTagCmd c m = endWith c stAborted (endWith d stAborted m) := by
  simp only [abortTagCmd, if_neg hown, hd]
  exact if_pos ⟨ho, hr⟩

/-- Settles O3: each command runs, and its own effect is the one that its lemma names. -/
theorem taskFlowCommandsTakeEffect : Obligations.TaskFlowCommandsTakeEffect := by
  unfold Obligations.TaskFlowCommandsTakeEffect
  refine ⟨fun c s hs => ?nop, fun c s t hs hn ht hin hst hlen hbusy hstack hrace => ?read,
    fun c s t hs hn ht hin hst hlen hbusy hfetch => ?write, fun c s want hs hw htrans hp => ⟨fun h1 => ?p1, fun hwant hrook hlent => ?entry⟩,
    fun c s h hs hown hh => ⟨fun hx => ?missed, fun x hx hp ho => ?caught⟩, fun c s d hs hown hd ho hr => ?relayed⟩
  case nop => exact becomes_of_served (f := nopCmd c) hs rfl rfl
  case read => exact becomes_of_served hs rfl (readCmd_reached hn ht hin hst hlen hbusy hstack hrace)
  case write =>
    have hnone : (s.sys.task.fetches.any fun f => sameCmd f.cmd c) = false := by simpa using hfetch
    exact becomes_of_served hs rfl (writeCmd_reached hn ht hin hst hlen hbusy hnone)
  case p1 => exact becomes_of_served hs rfl (powerStateCmd_p1 (hw.symm.trans h1) htrans hp)
  case entry =>
    have hlow : lowBlocked s.sys = false := by simp [lowBlocked, hrook, hlent]
    exact becomes_of_served hs rfl (powerStateCmd_entry hw htrans hp hwant hlow)
  case missed => exact becomes_of_served hs rfl (abortTagCmd_missed hown hh hx)
  case caught => exact becomes_of_served hs rfl (abortTagCmd_caught hown hh hx hp ho)
  case relayed => exact becomes_of_served hs rfl (abortTagCmd_relayed hown hd ho hr)

end Sys2Proof.Machine
end

section
/-!
SUPPORT. Completion records and relay answers that arrive at the rook (R104, R106, R110, R114).
-/
namespace Sys2Proof.Machine

/-- The record of a dispatched command, in its epoch, leaves for the host (R106). -/
theorem completionArrives_held {b : Block} {m : Sys} {h : Held} (hl : live m = true) :
    let n := takeEvent 8 (consumed b m)
    let e := (recordEp b.body).toNat
    let reg := (recordReg b.body).toNat
    heldOf n e reg = some h → h.phase ≠ .recordSent → h.phase ≠ .waiting → h.cmd.epoch = recordEpoch b.body →
    (epOf n e).epoch = recordEpoch b.body → completionArrives b m = toHost b (setPhase e reg .recordSent n) := by
  intro n e reg hh hsent hwait hepoch hep
  have hfresh : ¬(!(epOf n e).resetBusy && recordEpoch b.body != (epOf n e).epoch) = true := by simp [hep]
  rw [completionArrives, asEvent_live _ _ _ (show live (consumed b m) = true from hl)]
  refine (if_neg hfresh).trans ?_
  rw [show tfind reg (epOf n e).held = some h from hh]
  exact if_neg (by simp [hsent, hwait, hepoch])

/-- The tag of a relayed command names its endpoint and register (log entry 14). -/
theorem relayTag_fields {tag e reg : Nat} (he : e < 16) (hr : reg < 256) (ht : tag = 0x10000 + 256 * e + reg) :
    (0x10000 ≤ tag ∧ tag < 0x11000) ∧ (tag - 0x10000) / 256 = e ∧ (tag - 0x10000) % 256 = reg := by
  omega

/-- The answer of the module to which a command is relayed: BUSY ends it, any other marks it as started (R104). -/
theorem relayAnswer_relayed {b : Block} {m : Sys} {e reg : Nat} {h : Held} (hl : live m = true) (he : e < 16) (hr : reg < 256)
    (ht : b.tag.toNat = 0x10000 + 256 * e + reg) (hh : heldOf (consumed b m) e reg = some h) (hp : h.phase = .relayed b.src) :
    relayAnswer b m =
      if leAt b.body 0 1 = stBusy.toNat then settleReset e (endWith h.cmd stBusy (consumed b m))
      else setPhase e reg (.relayStarted b.src) (consumed b m) := by
  obtain ⟨hrange, hdiv, hmod⟩ := relayTag_fields he hr ht
  simp only [relayAnswer, show live (consumed b m) = true from hl, if_pos hrange, hdiv, hmod, hh, hp]
  simp

/-- Settles O11: a record, a repeat or an answer arrives, and nothing stands in the way of its effect. -/
theorem recordsAndRelayAnswers : Obligations.RecordsAndRelayAnswers := by
  unfold Obligations.RecordsAndRelayAnswers
  refine ⟨fun b s h hl => ?record, fun s r hl => ?resend, fun b s e reg h hl => ?answer, fun s a hl => ?lost⟩
  case record =>
    intro m e reg hshard hh hsent hwait hepoch hep
    refine becomes_of_done rfl ?_
    rw [completionBlockArrives, hshard]
    exact completionArrives_held hl hh hsent hwait hepoch hep
  case resend =>
    intro m hr
    refine becomes_of_event hl rfl ?_
    rw [resendRecord, hr]
  case answer =>
    intro m hshard he hreg ht hh hp
    refine becomes_of_done rfl ?_
    rw [writeAck, hshard]
    exact relayAnswer_relayed hl he hreg ht hh hp
  case lost => exact becomes_of_event hl rfl rfl

end Sys2Proof.Machine
end

section
/-!
SUPPORT. The reset of a command queue at the rook, and the relay reset at an executing module (R112 to R114).
-/
namespace Sys2Proof.Machine

/-- A queue reset at a rook with none pending (R112). -/
theorem queueReset_rook {e : Nat} {m : Sys} (hrook : m.fabric.rook = true) (hbusy : (epOf m e).resetBusy = false) : queueReset e m =
    let told := (relayedTo (epOf m e) ++ subHolders m e).eraseDups
    let held := (epOf m e).held.map (·.2)
    settleReset e (forEach told (resetRelays e)
      (forEach (held.filter fun h => h.phase == .running) (fun h => stopCommand h.cmd)
        (forEach (held.filter fun h => h.phase == .waiting) (fun h => endWith h.cmd stFlushed)
          (onEp e (fun x => { x with resetBusy := true, epoch := x.epoch + 1, credit := 0, awaited := told }) m)))) :=
  if_neg (by simp [hrook, hbusy])

/-- The word of TRF.RELAY_RESET gives back the rook and the epoch that it was made of. -/
theorem relayResetWord_fields (rook : Addr) (epoch : BitVec 4) :
    let v : Word := rook.zeroExtend 64 ||| (epoch.zeroExtend 64 <<< 16)
    v.extractLsb' 0 16 = rook ∧ v.extractLsb' 16 4 = epoch := by
  constructor
  · ext i hi
    simp [hi, show i < 64 by omega]
  · ext i hi
    simp [hi, show 16 + i < 64 by omega]

/-- Settles O12: each row acts while the module runs, and a relay reset takes rook and epoch from the word written. -/
theorem resetsOfCommandQueues : Obligations.ResetsOfCommandQueues := by
  unfold Obligations.ResetsOfCommandQueues
  intro s hl
  refine ⟨fun ep hrook hbusy => ?reset, fun ep => ?clear, fun ep rook epoch => ?relayReset, fun ep src tag => ?read⟩
  case reset => exact becomes_of_running hl rfl (queueReset_rook hrook hbusy)
  case clear => exact becomes_of_running (f := clearEp ep.toNat) hl rfl rfl
  case relayReset =>
    obtain ⟨hrook, hepoch⟩ := relayResetWord_fields rook epoch
    refine becomes_of_running hl rfl ?_
    simp only [relayReset, hrook, hepoch]
  case read => exact becomes_of_running (f := relayResetRead ep.toNat src none tag) hl rfl rfl

end Sys2Proof.Machine
end

section
/-!
SUPPORT. The tensor commands once nothing holds them back (R142 to R144, R154, R155, R162): each operation at the case that its hypotheses
name, for any asker.
-/
namespace Sys2Proof.Machine

/-! ### The number that a command names (R130, R142) -/

/-- A tensor number that a command names fits the 24 bits that a record of waiting keeps of it. -/
theorem lt_of_namedTensor {a : Word} {n : Nat} (h : namedTensor a = some n) : n < 2 ^ 24 := by
  unfold namedTensor at h
  split at h
  · injection h with h
    rw [← h]
    unfold tnumOf
    omega
  · cases h

/-- A tensor command whose number is good, which is not under way and finds no unit of its tensor busy, runs on that number. -/
theorem tensorCmd_runs {c : Cmd} {waits : Bool} {f : Nat → Sys → Sys} {m : Sys} {n : Nat} (hn : namedTensor c.tensor = some n)
    (hu : askUnderWay (.cmd c) m = false) (hb : waits = true → tensorBusy c n m = false) : tensorCmd c waits f m = f n m := by
  have hgo : (askUnderWay (.cmd c) m || (waits && tensorBusy c n m)) = false := by
    cases waits
    · simp [hu]
    · simp [hu, hb rfl]
  simp only [tensorCmd, hn, hgo, Bool.false_eq_true, if_false]

/-- The row of such a command makes of a module that serves commands what the operation on the number makes of it. -/
theorem becomes_of_tensorCmd {i : Instr} {c : Cmd} {waits : Bool} {f : Nat → Sys → Sys} {s : State} {n : Nat} {m : Sys}
    (hs : serves s.sys = true) (h : exec i s = done s (asCommand c (tensorCmd c waits f))) (hn : namedTensor c.tensor = some n)
    (hu : askUnderWay (.cmd c) (startCmd c s.sys) = false) (hb : waits = true → tensorBusy c n (startCmd c s.sys) = false)
    (hf : f n (startCmd c s.sys) = m) : Becomes i s m :=
  becomes_of_served hs h ((tensorCmd_runs hn hu hb).trans hf)

/-- A new record of waiting names the tensor of its request (R156). -/
theorem newWait_tensor (a : Asker) {n : Nat} (ask : SpaceAsk) (m : Sys) (h : n < 2 ^ 24) : (newWait a n ask m).1.tensor.toNat = n :=
  (BitVec.toNat_ofNat ..).trans (Nat.mod_eq_of_lt h)

/-- A pin that is allowed wherever it is asked for is not refused. -/
theorem not_refused_of_allowed {pin allowed : Bool} (h : pin = true → allowed = true) : (pin && !allowed) = false := by
  cases pin
  · rfl
  · simp [h rfl]

/-! ### TENSOR_CREATE (R143) -/

/-- A movable tensor for which a place is found, and whose pin (if asked for) leaves 8 GiB, is added LIVE. -/
theorem createMovable_placed {w : SpaceWait} {n size tier : Nat} {zero pin : Bool} {cores : CoreSet} {m m' : Sys} {p : Place}
    (hn : w.tensor.toNat = n) (hfree : isFree m n = true) (hplace : findPlace w.need tier cores size m = (.at p, m'))
    (hpin : pin = true → pinAllowed m' (t1Bytes p size) = true) :
    createMovable w size tier zero pin cores m = endAsk w.asker (ending stDone) (addMovable n size p zero pin m') := by
  simp only [createMovable, hn, hfree, hplace, not_refused_of_allowed hpin, Bool.not_true, Bool.false_eq_true, if_false]

/-- The common checks of TENSOR_CREATE pass for a FREE number and a size and class in range. -/
theorem createGood {n size cls : Nat} {m : Sys} (hfree : isFree m n = true) (h1 : 1 ≤ size) (h2 : size ≤ 2 ^ 40) (hcls : cls ≤ 1) :
    ¬(isFree m n = false ∨ size = 0 ∨ 2 ^ 40 < size ∨ 1 < cls) := by
  rw [hfree]
  simp only [Bool.true_eq_false, false_or]
  omega

/-- TENSOR_CREATE of class 0 with parameters in range, of a number that nobody holds, is a request for a place. -/
theorem createOp_movable {a : Asker} {n : Nat} {p : List Byte} {m : Sys} {cores : CoreSet} (hfree : isFree m n = true)
    (h1 : 1 ≤ prm p 32 8) (h2 : prm p 32 8 ≤ 2 ^ 40) (hcls : prm p 40 1 = 0) (hheld : heldBack a n m = false)
    (hcores : if tierOf p = 0 then coresAsked p = some cores
      else (tierOf p = 1 ∨ tierOf p = 4 ∨ tierOf p = 0xF) ∧ cores = noCores) :
    createOp a n p m = createNow a n (prm p 32 8) (tierOf p) (flagOf p 0) (flagOf p 1) cores m := by
  have hgood := createGood hfree h1 h2 (cls := prm p 40 1) (by omega)
  have hclass : prm p 40 1 ≠ 1 := by omega
  by_cases htier : tierOf p = 0
  · have hknown : ¬(tierOf p ≠ 0 ∧ tierOf p ≠ 1 ∧ tierOf p ≠ 4 ∧ tierOf p ≠ 0xF) := fun h => h.1 htier
    rw [if_pos htier] at hcores
    simp only [createOp, if_neg hgood, if_neg hclass, if_neg hknown, if_pos htier, hcores, hheld, Bool.false_eq_true, if_false]
  · rw [if_neg htier] at hcores
    obtain ⟨htiers, rfl⟩ := hcores
    have hknown : ¬(tierOf p ≠ 0 ∧ tierOf p ≠ 1 ∧ tierOf p ≠ 4 ∧ tierOf p ≠ 0xF) := by omega
    simp only [createOp, if_neg hgood, if_neg hclass, if_neg hknown, if_neg htier, hheld, Bool.false_eq_true, if_false]

/-- TENSOR_CREATE of class 1 adds a sealed tensor where flash is writable and the namespace exists. -/
theorem createOp_sealed {a : Asker} {n : Nat} {p : List Byte} {m : Sys} (hfree : isFree m n = true)
    (h1 : 1 ≤ prm p 32 8) (h2 : prm p 32 8 ≤ 2 ^ 40) (hcls : prm p 40 1 = 1) (htier : tierOf p = 0xF) (hzero : flagOf p 0 = false)
    (hpin : flagOf p 1 = false) (hns : nsExists m (nsOf p) = true) (hheld : heldBack a n m = false) (hro : readOnly m = false) :
    createOp a n p m = createSealed a n (prm p 32 8) (nsOf p) m := by
  have hgood := createGood hfree h1 h2 (cls := prm p 40 1) (by omega)
  have hparams : ¬(tierOf p ≠ 0xF ∨ flagOf p 0 = true ∨ flagOf p 1 = true ∨ nsExists m (nsOf p) = false) := by
    simp [htier, hzero, hpin, hns]
  simp only [createOp, if_neg hgood, if_pos hcls, if_neg hparams, hheld, hro, Bool.false_eq_true, if_false]

/-! ### TENSOR_DELETE (R144) -/

/-- An unpinned tensor in no job, index or merge is dropped, and requests that waited run again. -/
theorem deleteOp_drops {a : Asker} {n : Nat} {m : Sys} {t : Tensor} (ht : tensorOf m n = some t) (hpins : t.pins = 0)
    (hjob : namedByJob m n = false) (hindex : inIndex m n = false) (hmerge : heldForMerge m n = false)
    (hro : t.isSealed = true → startupOrHoldup m = false) : deleteOp a n false m =
      retryWaits (if t.isSealed then bindFlush a stDone [] (dropTensor n t m) else endAsk a (ending stDone) (dropTensor n t m)) := by
  have hmay : (t.isSealed && startupOrHoldup m) = false := by
    cases hsealed : t.isSealed
    · rfl
    · exact hro hsealed
  simp [deleteOp, ht, hpins, hjob, hindex, hmerge, hmay]

/-! ### TENSOR_MOVE (R153 to R156) -/

/-- TENSOR_MOVE to a tier that a tensor can be moved to is a request of its own. -/
theorem moveAsk_eq {a : Asker} {n : Nat} {p : List Byte} {m : Sys} {cores : CoreSet}
    (hcores : if tierOf p = 0 then coresAsked p = some cores else (tierOf p = 1 ∨ tierOf p = 4) ∧ cores = noCores) :
    moveAsk a n p m = moveNow a n (tierOf p) (flagOf p 0) cores m := by
  by_cases htier : tierOf p = 0
  · rw [if_pos htier] at hcores
    simp [moveAsk, htier, hcores]
  · rw [if_neg htier] at hcores
    obtain ⟨hknown, rfl⟩ := hcores
    simp only [moveAsk, if_neg htier, if_pos hknown]

/-- The tiers to which a tensor can be moved, and the core set that goes with each (R142, R155). -/
theorem moveTiers {tier : Nat} {asked : Option CoreSet} {cores : CoreSet} {t : Tensor}
    (h : if tier = 0 then asked = some cores else (tier = 1 ∨ (tier = 4 ∧ t.isSealed = false)) ∧ cores = noCores) :
    (tier ≤ 1 ∨ (tier = 4 ∧ t.isSealed = false)) ∧
      (if tier = 0 then asked = some cores else (tier = 1 ∨ tier = 4) ∧ cores = noCores) := by
  by_cases h0 : tier = 0
  · rw [if_pos h0] at h ⊢
    exact ⟨.inl (by omega), h⟩
  · rw [if_neg h0] at h ⊢
    obtain ⟨htier, hcores⟩ := h
    exact ⟨htier.imp_left Nat.le_of_eq, htier.imp_right And.left, hcores⟩

/-- The checks of TENSOR_MOVE that end it early pass for such a tier and a LIVE or DAMAGED tensor. -/
theorem moveGood {tier : Nat} {t : Tensor} (htier : tier ≤ 1 ∨ (tier = 4 ∧ t.isSealed = false))
    (hst : t.state = .live ∨ t.state = .damaged) :
    ¬(1 < tier ∧ (tier ≠ 4 ∨ t.isSealed = true)) ∧ t.state ≠ .building ∧ t.state ≠ .lost := by
  refine ⟨?_, ?_, ?_⟩
  · rcases htier with h | ⟨rfl, h⟩
    · omega
    · simp [h]
  · rcases hst with h | h <;> simp [h]
  · rcases hst with h | h <;> simp [h]

section
variable {w : SpaceWait} {n tier : Nat} {pin : Bool} {cores : CoreSet} {m m' : Sys} {t : Tensor} {p : Place} (hn : w.tensor.toNat = n)
  (ht : tensorOf m n = some t) (htier : tier ≤ 1 ∨ (tier = 4 ∧ t.isSealed = false)) (hst : t.state = .live ∨ t.state = .damaged)
  (hmo : t.motion = none) (hseal : underSeal m n = false)
include hn ht htier hst hmo hseal

/-- A move to where a still tensor already is touches it, and pins it where that is asked for and allowed. -/
theorem moveOp_inPlace (hin : inPlace t tier cores = true)
    (hpin : pin = true → t.pins ≠ 0xFFFF ∧ pinAllowed m (pinExtra t) = true) :
    moveOp w tier pin cores m = endAsk w.asker (ending stDone) (touch n (onlyIf pin (raisePin n) m)) := by
  obtain ⟨hgood, hbuilding, hlost⟩ := moveGood htier hst
  have hcount : ¬(pin = true ∧ t.pins = 0xFFFF) := fun h => (hpin h.1).1 h.2
  simp only [moveOp, hn, ht, hgood, hbuilding, hlost, hmo, hseal, hin, hcount, not_refused_of_allowed fun h => (hpin h).2,
    Option.isSome_none, Bool.or_false, Bool.false_eq_true, if_false, if_true]

/-- A move of a still tensor to a place that is found becomes a motion of the migration engine. -/
theorem moveOp_placed (hin : inPlace t tier cores = false) (hplace : findPlace w.need tier cores t.size m = (.at p, m')) :
    moveOp w tier pin cores m = requestMotion n
      { newMotion p (askPriority w.asker) w.order with copying := t.isSealed, touches := true, asker := w.asker, pin } m' := by
  obtain ⟨hgood, hbuilding, hlost⟩ := moveGood htier hst
  simp only [moveOp, hn, ht, hgood, hbuilding, hlost, hmo, hseal, hin, hplace, Option.isSome_none, Bool.or_false, Bool.false_eq_true,
    if_false]

end

/-! ### TENSOR_DROP (R155) -/

/-- The moves that wait for the tiers named end, and the copies named are dropped. -/
theorem dropOp_drops {a : Asker} {n : Nat} {p : List Byte} {m : Sys} {t : Tensor} (ht : tensorOf m n = some t) (hsealed : t.isSealed = true)
    (hmo : t.motion = none) : let which := prm p 41 1
    dropOp a n p m = retryWaits (endAsk a (ending stDone) (onlyIf (which.testBit 1) (dropCopy1 n)
      (onlyIf (which.testBit 0) (dropCopy0 n) (endMoves (movesTensor n which.testBit) m)))) := by
  simp [dropOp, ht, hsealed, hmo]

/-! ### Pins (R162) -/

/-- A pin that leaves 8 GiB of T1 is counted. -/
theorem pinOp_raises {a : Asker} {n : Nat} {m : Sys} {t : Tensor} (ht : tensorOf m n = some t) (hpins : t.pins ≠ 0xFFFF)
    (hroom : pinAllowed m (pinExtra t) = true) : pinOp a n m = endAsk a (ending stDone) (raisePin n m) := by
  simp only [pinOp, ht, if_neg hpins, hroom, Bool.not_true, Bool.false_eq_true, if_false]

/-- A pinned tensor's count falls. -/
theorem unpinOp_lowers {a : Asker} {n : Nat} {m : Sys} {t : Tensor} (ht : tensorOf m n = some t) (hpins : t.pins ≠ 0) :
    unpinOp a n m = endAsk a (ending stDone) (lowerPin n m) := by
  simp only [unpinOp, ht, if_neg hpins]

/-- Settles O6: each command runs on the number that it names, and its operation is the one that the lemmas above spell out. -/
theorem tensorCommandsTakeEffect : Obligations.TensorCommandsTakeEffect := by
  unfold Obligations.TensorCommandsTakeEffect
  intro c s n hs hn hu m size bit0 bit1 tier
  have hlt : n < 2 ^ 24 := lt_of_namedTensor hn
  have hidle : false = true → tensorBusy c n m = false := fun h => nomatch h
  refine ⟨fun cores p m' hfree h1 h2 hcls hheld hcores => ?create,
    fun hfree h1 h2 hcls htier hzero hpin hns hheld hro => ?createSealed, fun t ht =>
    ⟨fun hpins hjob hindex hmerge hbusy hro => ?delete, fun cores hcores hst hmo hseal => ?move, fun hsealed hmo => ?drop,
      fun hpins hroom => ?pin, fun hpins => ?unpin⟩⟩
  case create =>
    intro w hplace hpin
    exact becomes_of_tensorCmd hs rfl hn hu hidle
      ((createOp_movable hfree h1 h2 hcls hheld hcores).trans (createMovable_placed (newWait_tensor _ _ m hlt) hfree hplace hpin))
  case createSealed =>
    exact becomes_of_tensorCmd hs rfl hn hu hidle (createOp_sealed hfree h1 h2 hcls htier hzero hpin hns hheld hro)
  case delete => exact becomes_of_tensorCmd hs rfl hn hu (fun _ => hbusy) (deleteOp_drops ht hpins hjob hindex hmerge hro)
  case move =>
    intro w
    obtain ⟨htier, hask⟩ := moveTiers hcores
    exact ⟨fun hin hpin => becomes_of_tensorCmd hs rfl hn hu hidle
        ((moveAsk_eq hask).trans (moveOp_inPlace (newWait_tensor _ _ m hlt) ht htier hst hmo hseal hin hpin)),
      fun p m' hin hplace => becomes_of_tensorCmd hs rfl hn hu hidle
        ((moveAsk_eq hask).trans (moveOp_placed (newWait_tensor _ _ m hlt) ht htier hst hmo hseal hin hplace))⟩
  case drop => exact becomes_of_tensorCmd hs rfl hn hu hidle (dropOp_drops ht hsealed hmo)
  case pin => exact becomes_of_tensorCmd hs rfl hn hu hidle (pinOp_raises ht hpins hroom)
  case unpin => exact becomes_of_tensorCmd hs rfl hn hu hidle (unpinOp_lowers ht hpins)

end Sys2Proof.Machine
end

section
/-!
SUPPORT. Seals, queries, namespaces and the media once nothing holds their commands back (R145, R146, R149, R376 to R378).
-/
namespace Sys2Proof.Machine

/-! ### Seals (R145, R146) -/

/-- A tensor without a motion is not in motion. -/
theorem inMotion_of_still {m : Sys} {n : Nat} {t : Tensor} (ht : tensorOf m n = some t) (hmo : t.motion = none) : inMotion m n = false := by
  simp [inMotion, ht, hmo]

/-- The seal of a LIVE movable tensor that does not move begins where flash is writable and the namespace exists (R146). -/
theorem sealOp_begins {w : SpaceWait} {n ns : Nat} {m : Sys} {t : Tensor} (hn : w.tensor.toNat = n) (ht : tensorOf m n = some t)
    (hsealed : t.isSealed = false) (hst : t.state = .live) (hns : nsExists m ns = true) (hro : readOnly m = false) (hmo : t.motion = none) :
    sealOp w ns m = beginSeal w.asker n n t.size (chunksFor t.size) (BitVec.ofNat 16 ns) m := by
  simp [sealOp, hn, ht, hsealed, hst, hns, hro, inMotion_of_still ht hmo]

/-- The append of a LIVE movable source that fits into a BUILDING target begins where flash is writable (R145). -/
theorem appendOp_begins {w : SpaceWait} {n src : Nat} {m : Sys} {t x : Tensor} (hn : w.tensor.toNat = n) (ht : tensorOf m n = some t)
    (hx : tensorOf m src = some x) (htst : t.state = .building) (hsealed : x.isSealed = false) (hxst : x.state = .live)
    (hfits : t.appended + x.size ≤ t.size) (hro : readOnly m = false) (hmo : x.motion = none) :
    appendOp w src m = beginSeal w.asker n src x.size (chunksFor (t.appended + x.size) - t.chunks.length) t.ns m := by
  simp [appendOp, hn, ht, hx, htst, hsealed, hxst, Nat.not_lt.2 hfits, hro, inMotion_of_still hx hmo]

/-- SEAL_APPEND of a source that is not busy runs as a tensor command on its target (R148). -/
theorem appendCmd_runs {c : Cmd} {m : Sys} {src : Nat} (hsrc : namedTensor (BitVec.ofNat 64 (prm c.param 32 8)) = some src)
    (hbusy : tensorBusy c src m = false) : appendCmd c m = tensorCmd c true (fun n => appendNow (.cmd c) n src) m := by
  simp only [appendCmd, hsrc, hbusy, Bool.false_eq_true, if_false]

/-- A BUILDING tensor to which something was appended is closed where flash is writable (R145). -/
theorem closeOp_closes {a : Asker} {n : Nat} {m : Sys} {t : Tensor} (ht : tensorOf m n = some t) (hst : t.state = .building)
    (happ : t.appended ≠ 0) (hro : readOnly m = false) : closeOp a n m =
      bindFlush a stDone [] (journal (.tensor (BitVec.ofNat 24 n))
        (touch n (setTensor n { t with size := t.appended, state := if t.damaged.isEmpty then .live else .damaged } m))) := by
  simp [closeOp, ht, hst, happ, hro]

/-! ### Queries (R149, R378) -/

/-- TENSOR_QUERY of a tensor returns its result and touches it after that (R149). -/
theorem queryCmd_answers {c : Cmd} {n : Nat} {m : Sys} {t : Tensor} (hn : namedTensor c.tensor = some n) (ht : tensorOf m n = some t) :
    queryCmd c m = complete c (doneWith (queryResult m t)) (touch n m) := by
  simp only [queryCmd, hn, ht, Option.bind_some, Option.map_some]

/-- NS_QUERY of an existing namespace counts its tensors and their chunks (R378). -/
theorem nsQuery_answers {c : Cmd} {m : Sys} (hns : nsExists m (par c 32 2) = true) : nsQuery c m =
    complete c (doneWith (resultOf [(40, leBytes 4 (nsTensors m (par c 32 2)).length),
      (44, leBytes 8 ((nsTensors m (par c 32 2)).foldl (fun n e => n + e.2.chunks.length) 0))])) m := by
  simp only [nsQuery, hns, Bool.not_true, Bool.false_eq_true, if_false]

/-! ### Namespaces and the media (R376, R378) -/

/-- NS_CREATE of a new namespace where flash is writable draws its key and wraps it into the key table (R378). -/
theorem nsCreate_draws {c : Cmd} {m : Sys} (hu : askUnderWay (.cmd c) m = false) (h1 : 1 ≤ par c 32 2) (h2 : par c 32 2 ≤ 1023)
    (hnew : tfind (par c 32 2) m.flash.spaces = none) (hro : readOnly m = false) :
    let ns := par c 32 2
    let key := fitBytes 64 (Config.drawKey m.health.draws)
    let q := nextSeq (onHealth (fun h => { h with draws := h.draws + 1 }) m)
    nsCreate c m = bindFlush (.cmd c) stDone [] (journal (.ns ns true) (onFlash (fun x => { x with
      spaces := tset ns key x.spaces, keyTable := tset ns (keyWrap kekOf key) x.keyTable, keySeq := q.1 }) q.2)) := by
  have hrange : within 1 1023 (par c 32 2) = true := by simp [within, h1, h2]
  simp [nsCreate, hu, hrange, hnew, hro]

/-- NS_DELETE of a namespace whose tensors may go deletes them, and waits for the flush that drops the key (R376, R378). -/
theorem nsDelete_deletes {c : Cmd} {m : Sys} (hns : nsExists m (par c 32 2) = true) (hro : startupOrHoldup m = false)
    (hdrops : (m.flash.keyDrops.any fun e => sameCmd e.2.2 c) = false)
    (hseals : (m.flash.seals.any fun x => x.ns.toNat == par c 32 2) = false)
    (hpurge : (par c 34 1).testBit 0 = true ∨ nsTensors m (par c 32 2) = [])
    (hloose : ((nsTensors m (par c 32 2)).all fun e =>
      e.2.pins == 0 && !namedByJob m e.1 && !inIndex m e.1 && !heldForMerge m e.1) = true) :
    let ns := par c 32 2
    nsDelete c m = retryWaits (onFlash (fun x => { x with keyDrops := x.keyDrops ++ [(x.seq, ns, c)] })
      (journal (.ns ns false) (forEach (nsTensors m ns) (fun e => dropTensor e.1 e.2) m))) := by
  have hkept : (!(par c 34 1).testBit 0 && !(nsTensors m (par c 32 2)).isEmpty) = false := by
    rcases hpurge with h | h <;> simp [h]
  have hbound : ((nsTensors m (par c 32 2)).any fun e =>
      e.2.pins != 0 || namedByJob m e.1 || inIndex m e.1 || heldForMerge m e.1) = false := by
    rw [List.any_eq_false]
    intro e he
    simpa [and_assoc] using List.all_eq_true.1 hloose e he
  simp only [nsDelete, hdrops, hns, hkept, hseals, hbound, hro, Bool.not_true, Bool.or_false, Bool.false_eq_true, if_false]

/-- MEDIA_FLUSH is bound to a flush that starts after its dispatch (R378). -/
theorem mediaFlush_binds {c : Cmd} {m : Sys} (hu : askUnderWay (.cmd c) m = false) :
    mediaFlush c m = onFlash (fun x => { x with bound := x.bound ++ [(x.seq + 1, .cmd c, stDone, [])] }) m := by
  simp only [mediaFlush, hu, Bool.false_eq_true, if_false]

/-- Settles O7: each command runs, and its own effect is the one that its lemma names. -/
theorem sealAndNamespaceCommandsTakeEffect : Obligations.SealAndNamespaceCommandsTakeEffect := by
  unfold Obligations.SealAndNamespaceCommandsTakeEffect
  intro c s hs hu m ns
  refine ⟨fun n t hn ht hbusy => ⟨fun hsealed hst hns hro hmo => ?sealing,
      fun src x hsrc hx hxbusy htst hsealed hxst hfits hro hmo => ?appending, fun hst happ hro => ?closing⟩,
    fun n t hn ht => ?query, fun h1 h2 hnew hro => ?nsCreate, fun hns hro hdrops hseals hpurge hloose => ?nsDelete,
    fun hns => ?nsQuery, ?mediaQuery, ?mediaFlush⟩
  case sealing =>
    exact becomes_of_tensorCmd hs rfl hn hu (fun _ => hbusy)
      (sealOp_begins (newWait_tensor _ _ m (lt_of_namedTensor hn)) ht hsealed hst hns hro hmo)
  case appending =>
    refine becomes_of_served hs rfl ((appendCmd_runs hsrc hxbusy).trans ((tensorCmd_runs hn hu fun _ => hbusy).trans ?_))
    exact appendOp_begins (newWait_tensor _ _ m (lt_of_namedTensor hn)) ht hx htst hsealed hxst hfits hro hmo
  case closing => exact becomes_of_tensorCmd hs rfl hn hu (fun _ => hbusy) (closeOp_closes ht hst happ hro)
  case query => exact becomes_of_served hs rfl (queryCmd_answers hn ht)
  case nsCreate => exact becomes_of_served hs rfl (nsCreate_draws hu h1 h2 hnew hro)
  case nsDelete => exact becomes_of_served hs rfl (nsDelete_deletes hns hro hdrops hseals hpurge hloose)
  case nsQuery => exact becomes_of_served hs rfl (nsQuery_answers hns)
  case mediaQuery => exact becomes_of_served (f := mediaQuery c) hs rfl rfl
  case mediaFlush => exact becomes_of_served hs rfl (mediaFlush_binds hu)

end Sys2Proof.Machine
end

section
/-!
SUPPORT. The migration engine's rows: a motion starts, and a unit of it is transferred (R150, R152, R156, R157, R162, R397).
-/
namespace Sys2Proof.Machine

/-- The table entry of a tensor whose motion holds its space and has started (R156). -/
def startedEntry (t : Tensor) (mo : Motion) : Tensor :=
  { t with motion := some { mo with holds := true, started := true, store := freshStore (t.isSealed || t.store.zeroed) } }

/-- A motion whose pin (if asked for) is allowed gets its space, raises the pin and fills its window (R154, R156, R162). -/
theorem startMotion_starts {n : Nat} {t : Tensor} {mo : Motion} {m : Sys}
    (hpin : mo.pin = true → t.pins ≠ 0xFFFF ∧
      t1Pinned m + (if isPinned t then 0 else t1Held (startedEntry t mo)) + 8 * 2 ^ 30 ≤ t1Capacity) :
    startMotion n t mo m = fillWindow n (onlyIf mo.pin (raisePin n) (setTensor n (startedEntry t mo) m)) := by
  have hcount : ¬(mo.pin = true ∧ t.pins = 0xFFFF) := fun h => (hpin h.1).1 h.2
  have hroom : ¬(mo.pin && decide (t1Capacity <
      t1Pinned m + (if isPinned t then 0 else t1Held (startedEntry t mo)) + 8 * 2 ^ 30)) = true := by
    simp only [Bool.and_eq_true, decide_eq_true_eq, not_and, Nat.not_lt]
    exact fun h => (hpin h).2
  exact (if_neg hcount).trans (if_neg hroom)

/-- MOTION_START of an engine that may start the next waiting motion starts that motion (R156, R157). -/
theorem motionStart_next {n : Nat} {t : Tensor} {mo : Motion} {m : Sys} (hheat : thermalHold m = false) (hfew : activeMotions m < 32)
    (hnext : nextMotion m = some (n, t, mo)) : motionStart m = startMotion n t mo m := by
  simp only [motionStart, hheat, Nat.not_le.2 hfew, hnext, Bool.false_eq_true, or_self, if_false]

/-- Unit `u` of a motion is copied and leaves the window, which holds `rest` then; units enter, and WRITEs that waited for it go on
(R150, R151). -/
def unitLeaves (n u : Nat) (rest : List Nat) (m : Sys) : Sys :=
  releaseBlocked n (fillWindow n (onRange (fun r => { r with units := satInc r.units })
    (updTensor n (fun t => { t with motion := t.motion.map fun mo => { mo with window := rest } }) (copyUnit n u m))))

/-- A motion with nothing in its window and nothing to come ends (R152). -/
def endWhenDone (n : Nat) (m : Sys) : Sys := match (tensorOf m n).bind fun t => t.motion.map fun mo => (t, mo) with
  | some (t, mo) => if mo.window = [] ∧ unitCount t.size ≤ mo.next then endMotion n t mo m else m
  | none => m

/-- The lowest unit of a window, of which no stack retrains, leaves it, and the last one ends the motion (R150 to R152, R397). -/
theorem unitDone_leaves {n u : Nat} {rest : List Nat} {t : Tensor} {mo : Motion} {m : Sys} (ht : tensorOf m n = some t)
    (hmo : t.motion = some mo) (hw : mo.window = u :: rest) (hphy : unitRetrains m n u mo = false) :
    unitDone n m = endWhenDone n (unitLeaves n u rest m) := by
  simp only [unitDone, ht, Option.bind_some, hmo, hw, hphy, Bool.false_eq_true, if_false, endWhenDone, unitLeaves]
  generalize releaseBlocked n _ = r
  cases tensorOf r n with
  | none => rfl
  | some t' =>
    simp only [Option.bind_some]
    cases t'.motion with
    | none => rfl
    | some mo' => simp

/-- Settles O37: each row acts while the module runs, and its effect is the one that the lemmas above spell out. -/
theorem motionRows : Obligations.MotionRows := by
  unfold Obligations.MotionRows
  intro s hl m
  refine ⟨fun n t mo hheat hfew hnext => ?start, fun tensor t mo u rest ht hmo hw => ?unit⟩
  case start =>
    intro held hpin
    exact becomes_of_running hl rfl ((motionStart_next hheat hfew hnext).trans (startMotion_starts hpin))
  case unit =>
    intro n c r hphy
    exact becomes_of_running hl rfl (unitDone_leaves ht hmo hw hphy)

end Sys2Proof.Machine
end

section
/-!
SUPPORT. The rows of stacks, of the scrubber, of the merge buffers and of data errors (R167, R390, R394 to R398).
-/
namespace Sys2Proof.Machine

/-! ### Stacks that lose their PHY (R397, R398) -/

/-- A ready stack that loses its PHY retrains (R397). -/
theorem phyLoss_ready {stack : Nat} {m : Sys} (h : (stackOf m stack).state = 2) :
    phyLoss stack m = onStack stack (fun x => { x with state := 3, retrains := satInc x.retrains }) m := if_pos h

/-- The stack is in service (R397). -/
def stackReady (stack : Nat) : Sys → Sys := onStack stack fun x => { x with state := 2 }

/-- Once a retrained stack is ready again, the WRITEs that waited for it go on in a module that runs (R397). -/
theorem retrainDone_eq (stack : Nat) (m : Sys) : retrainDone stack m =
    if live (stackReady stack m) then
      forEach (((stackReady stack m).task.fetches.filter fun f => f.blocked ≠ []).map fun f => tnumOf f.cmd.tensor) releaseBlocked
        (stackReady stack m)
    else stackReady stack m := by
  have hwaiting : (fun f : Fetch => decide (f.blocked ≠ [])) = fun f => !f.blocked.isEmpty := by
    funext f
    cases f.blocked <;> simp
  rw [hwaiting]
  rfl

/-- A retrain that fails takes its stack out of a running module, and is counted as a data error in the hold-up sequence (R397, R398). -/
theorem retrainFails_eq {stack : Nat} {m : Sys} (h : (stackOf m stack).state = 3) (hon : live m = true ∨ inHoldup m = true) :
    retrainFails stack m = if live m then stackOut stack 0 m else takeEvent 4 (onStack stack (fun x => { x with state := 4 }) m) := by
  rw [retrainFails, if_neg (not_not_intro h)]
  cases hl : live m
  · exact if_pos (hon.resolve_left (by simp [hl]))
  · rfl

/-! ### The scrubber (R394) -/

/-- The scrubber reads outside P2, and while P2 is being left (R394). -/
theorem scrub_reads {m : Sys} (h : m.power.current ≠ 2 ∨ m.power.exiting = true) : ¬(m.power.current = 2 ∧ m.power.exiting = false) := by
  rintro ⟨hp, he⟩
  rcases h with h | h
  · exact h hp
  · simp [he] at h

/-! ### Narrow writes (R389, R390) -/

/-- A narrow write within one word of a movable tensor that finds an entry, and for which nothing makes it wait, is written. -/
theorem narrowWrite_merges {n : TNum} {o : Nat} {data : List Byte} {t : Tensor} {m : Sys} (ht : tensorOf m n.toNat = some t)
    (h1 : 1 ≤ data.length) (h2 : data.length < 8) (hword : o / 8 = (o + data.length - 1) / 8) (hin : o + data.length ≤ t.size)
    (hsealed : t.isSealed = false) (hst : t.state ≠ .lost) (hwin : inWindow t o data.length = false)
    (hstack : stackWaits m t o data.length = false)
    (hroom : mergeRoom m n (o / 8) (wordHome (placeAt t ((sourcesOf t (o / unitSize)).headD .home)) (o / 8)) = true) :
    let e : MergeEntry := { tensor := n, word := o / 8 }
    narrowWrite n o data m = (writePiece n.toNat o data
      (onIntegrity (fun x => { x with merge := if x.merge.contains e then x.merge else x.merge ++ [e] }) m)).2 := by
  have hsome : data.isEmpty = false := by
    cases data with
    | nil => exact absurd h1 (by decide)
    | cons => rfl
  simp only [narrowWrite, ht, hsome, Nat.not_le.2 h2, not_not_intro hword, Nat.not_lt.2 hin, hsealed, hst, hwin, hstack, hroom,
    Bool.false_eq_true, Bool.true_eq_false, or_self, if_false]

/-- Settles O41: the stacks' rows act in a module that runs or is in its hold-up sequence, the others in one that runs. -/
theorem integrityRows : Obligations.IntegrityRows := by
  unfold Obligations.IntegrityRows
  refine ⟨fun s stack hon => ?phy, fun s hl => ⟨fun hp => ⟨fun n w => ?tensors, fun stack d c => ?others⟩, fun hslow => ?slow,
    fun n off data t ht => ?narrow, fun n unit => ?damage⟩⟩
  case phy =>
    intro m
    have hgate : (live m || inHoldup m) = true := by simpa using hon
    refine ⟨fun h => ?loss, fun h => ⟨?done, ?timeout⟩⟩
    case loss => exact becomes_of_done rfl ((if_pos hgate).trans (phyLoss_ready h))
    case done =>
      have hretrains : ((live m || inHoldup m) && retrains m stack.val) = true := by simp [hgate, retrains, h]
      exact becomes_of_done rfl ((if_pos hretrains).trans (retrainDone_eq stack.val m))
    case timeout => exact becomes_of_done rfl (retrainFails_eq h hon)
  case tensors =>
    have hreads := scrub_reads hp
    refine ⟨?_, ?_, ?_, ?_⟩ <;> exact becomes_of_running hl rfl (if_neg hreads)
  case others =>
    have hreads := scrub_reads hp
    refine ⟨?_, ?_, ?_, fun vc => ?_, fun reload => ?_, fun n => ?_, fun core => ⟨?_, ?_⟩⟩ <;>
      exact becomes_of_running hl rfl (if_neg hreads)
  case slow =>
    have hkept : (takeEvent 9 s.sys).integrity = s.sys.integrity := rfl
    have hfirst : ¬(takeEvent 9 s.sys).integrity.scrubSlow = true := by rw [hkept]; exact Bool.eq_false_iff.1 hslow
    exact becomes_of_event hl rfl (if_neg hfirst)
  case narrow =>
    intro o w h1 h2 hword hin hsealed hst hwin hstack hroom
    exact becomes_of_running hl rfl (narrowWrite_merges ht h1 h2 hword hin hsealed hst hwin hstack hroom)
  case damage => exact becomes_iff_effect.2 (if_pos hl)

end Sys2Proof.Machine
end

section
/-!
SUPPORT. The cell of the array: what its slots add, one weight by the bits of its code, and how far a run of products can reach (R170 to
R172).
-/
namespace Sys2Proof.Machine

/-! ### One slot -/

/-- The slot of width 1: +1 for a bit that is set and -1 for one that is not (R170). -/
theorem weightSlot_one (a acc : Int) (p : Bool) : weightSlot 1 a acc 0 p = acc + (if p then a else -a) := by
  have hgain : planeGain 1 0 p = if p then 1 else -1 := rfl
  rw [weightSlot, hgain, Int.pow_zero, Int.mul_one]
  cases p
  · simp only [Bool.false_eq_true, if_false, Int.neg_one_mul]
  · simp only [if_true, Int.one_mul]

/-- The slot of a plane below the last (R170). -/
theorem weightSlot_below {w b : Nat} (hw : 2 ≤ w) (hb : b + 1 < w) (a acc : Int) (p : Bool) :
    weightSlot w a acc b p = acc + (if p then a * 2 ^ b else 0) := by
  have hgain : planeGain w b p = if p then 1 else 0 := by
    rw [planeGain, if_neg (by omega), if_neg (by omega)]
  rw [weightSlot, hgain]
  cases p
  · simp only [Bool.false_eq_true, if_false, Int.zero_mul]
  · simp only [if_true, Int.one_mul]

/-- The slot of the last plane, the one of the sign (R170). -/
theorem weightSlot_last {w b : Nat} (hw : 2 ≤ w) (hb : b + 1 = w) (a acc : Int) (p : Bool) :
    weightSlot w a acc b p = acc + (if p then -(a * 2 ^ b) else 0) := by
  have hgain : planeGain w b p = if p then -1 else 0 := by
    rw [planeGain, if_neg (by omega), if_pos hb]
  rw [weightSlot, hgain]
  cases p
  · simp only [Bool.false_eq_true, if_false, Int.zero_mul]
  · simp only [if_true, Int.neg_mul, Int.one_mul]

/-- A slot of H1 mode counts the bit positions at which its operands differ (R171). -/
theorem sketchSlot_eq (acc : Nat) (q s : BitVec 16) :
    sketchSlot acc q s = acc + ((List.range 16).filter fun i => q.getLsbD i != s.getLsbD i).length := by
  have hbits : (fun i => (q ^^^ s).getLsbD i) = fun i => q.getLsbD i != s.getLsbD i := funext fun _ => BitVec.getLsbD_xor
  rw [sketchSlot, popcount, hbits]

/-! ### One weight -/

/-- The low bits of a code, one more at a time. -/
theorem mod_two_pow_succ_eq (code n : Nat) : code % 2 ^ (n + 1) = code % 2 ^ n + (if code.testBit n then 2 ^ n else 0) := by
  rw [Nat.mod_pow_succ, ← Nat.toNat_testBit]
  cases code.testBit n
  · simp only [Bool.toNat_false, Nat.mul_zero, Bool.false_eq_true, if_false]
  · simp only [Bool.toNat_true, Nat.mul_one, if_true]

/-- The planes below the last add the activation times the code's low bits. -/
theorem weightSlots_below {w : Nat} (hw : 2 ≤ w) (a acc : Int) (code : Nat) {n : Nat} (hn : n < w) :
    weightSlots w a code n acc = acc + a * (code % 2 ^ n : Nat) := by
  induction n with
  | zero => rw [weightSlots, Nat.pow_zero, Nat.mod_one, Int.natCast_zero, Int.mul_zero, Int.add_zero]
  | succ n ih =>
    have hplane : (if code.testBit n then a * 2 ^ n else 0) = a * ((if code.testBit n then 2 ^ n else 0 : Nat) : Int) := by
      cases code.testBit n
      · simp only [Bool.false_eq_true, if_false, Int.natCast_zero, Int.mul_zero]
      · simp only [if_true, Int.natCast_pow, Int.cast_ofNat_Int]
    rw [weightSlots, ih (Nat.lt_of_succ_lt hn), weightSlot_below hw hn, mod_two_pow_succ_eq, Int.natCast_add, Int.mul_add, Int.add_assoc,
      hplane]

/-- The two's-complement value of a code: its low bits, less the weight of the sign bit where that is set. -/
theorem toInt_ofNat_eq_low_sub_sign {n code : Nat} (h : code < 2 ^ (n + 1)) :
    (BitVec.ofNat (n + 1) code).toInt = (code % 2 ^ n : Nat) - (if code.testBit n then 2 ^ n else 0) := by
  have hsplit : code = code % 2 ^ n + (if code.testBit n then 2 ^ n else 0) := by
    rw [← mod_two_pow_succ_eq, Nat.mod_eq_of_lt h]
  have hlow : code % 2 ^ n < 2 ^ n := Nat.mod_lt _ (Nat.two_pow_pos n)
  have hpow : ((2 ^ n : Nat) : Int) = 2 ^ n := Int.natCast_pow 2 n
  rw [BitVec.toInt_eq_toNat_cond, BitVec.toNat_ofNat, Nat.mod_eq_of_lt h, ← hpow, Nat.pow_succ]
  generalize code % 2 ^ n = low at hsplit hlow ⊢
  generalize 2 ^ n = weight at hsplit hlow ⊢
  cases hbit : code.testBit n with
  | false =>
    rw [hbit, if_neg Bool.false_ne_true] at hsplit
    rw [if_neg Bool.false_ne_true, if_pos (by omega)]
    omega
  | true =>
    rw [hbit, if_pos rfl] at hsplit
    rw [if_pos rfl, if_neg (by omega)]
    omega

/-- A weight of one bit is +1 or -1 (R170). -/
theorem cellWeight_one (a acc : Int) {code : Nat} (h : code < 2) : cellWeight 1 a acc code = acc + a * (if code = 1 then 1 else -1) := by
  obtain rfl | rfl : code = 0 ∨ code = 1 := by omega
  · exact (weightSlot_one a acc false).trans (congrArg (acc + ·) (Int.mul_neg_one a).symm)
  · exact (weightSlot_one a acc true).trans (congrArg (acc + ·) (Int.mul_one a).symm)

/-- A weight of 2 to 8 bits is its code's two's-complement value (R170). -/
theorem cellWeight_signed {w : Nat} (hw : 2 ≤ w) (a acc : Int) {code : Nat} (h : code < 2 ^ w) :
    cellWeight w a acc code = acc + a * (BitVec.ofNat w code).toInt := by
  obtain ⟨n, rfl⟩ : ∃ n, w = n + 1 := ⟨w - 1, by omega⟩
  have hsign : (if code.testBit n then -(a * 2 ^ n) else 0) = -(a * (if code.testBit n then 2 ^ n else 0)) := by
    cases code.testBit n
    · simp only [Bool.false_eq_true, if_false, Int.mul_zero, Int.neg_zero]
    · simp only [if_true]
  rw [cellWeight, weightSlots, weightSlots_below hw a acc code (Nat.lt_succ_self n), weightSlot_last hw rfl,
    toInt_ofNat_eq_low_sub_sign h, hsign, Int.mul_sub, Int.sub_eq_add_neg, Int.add_assoc]

/-! ### A run of products (R172) -/

/-- A weight of 1 to 8 bits adds the activation times a value of magnitude at most 2^7. -/
theorem exists_weight {w code : Nat} (h1 : 1 ≤ w) (h8 : w ≤ 8) (h : code < 2 ^ w) :
    ∃ v : Int, v.natAbs ≤ 2 ^ 7 ∧ ∀ a acc : Int, cellWeight w a acc code = acc + a * v := by
  obtain rfl | hw : w = 1 ∨ 2 ≤ w := by omega
  · exact ⟨if code = 1 then 1 else -1, by split <;> decide, fun a acc => cellWeight_one a acc h⟩
  · refine ⟨(BitVec.ofNat w code).toInt, ?_, fun a acc => cellWeight_signed hw a acc h⟩
    have hlo := BitVec.le_toInt (BitVec.ofNat w code)
    have hhi := BitVec.toInt_lt (x := BitVec.ofNat w code)
    have hpow : ((2 ^ (w - 1) : Nat) : Int) = 2 ^ (w - 1) := Int.natCast_pow 2 (w - 1)
    have hwidth : 2 ^ (w - 1) ≤ 2 ^ 7 := Nat.pow_le_pow_right (by decide) (by omega)
    rw [← hpow] at hlo hhi
    omega

/-- One product of a 16-bit activation moves an accumulator by at most 2^22. -/
theorem natAbs_cellWeight_sub_le {w code : Nat} {a : Int} (h1 : 1 ≤ w) (h8 : w ≤ 8) (hlo : -2 ^ 15 ≤ a) (hhi : a < 2 ^ 15)
    (h : code < 2 ^ w) (acc : Int) : (cellWeight w a acc code - acc).natAbs ≤ 2 ^ 22 := by
  obtain ⟨v, hv, hcell⟩ := exists_weight h1 h8 h
  have ha : a.natAbs ≤ 2 ^ 15 := by omega
  calc (cellWeight w a acc code - acc).natAbs = a.natAbs * v.natAbs := by
        rw [hcell, Int.add_comm acc, Int.add_sub_cancel, Int.natAbs_mul]
    _ ≤ 2 ^ 15 * 2 ^ 7 := Nat.mul_le_mul ha hv

/-- A fold whose every step moves a number by at most `c` moves it by at most `c` for each element. -/
theorem natAbs_foldl_sub_le {α : Type} (f : Int → α → Int) (c : Nat) (l : List α) (h : ∀ e ∈ l, ∀ x, (f x e - x).natAbs ≤ c) (x : Int) :
    (l.foldl f x - x).natAbs ≤ l.length * c := by
  induction l generalizing x with
  | nil =>
    rw [List.foldl_nil, Int.sub_self]
    exact Nat.zero_le _
  | cons e l ih =>
    have hfirst := h e List.mem_cons_self x
    have hrest := ih (fun e he => h e (List.mem_cons_of_mem _ he)) (f x e)
    rw [List.foldl_cons, List.length_cons, Nat.succ_mul]
    omega

/-- A run of at most 65,536 products stays within 38 bits (R172). -/
theorem natAbs_weightRun_le {w : Nat} {l : List (Int × Nat)} (h1 : 1 ≤ w) (h8 : w ≤ 8) (hlen : l.length ≤ 65536)
    (h : ∀ e ∈ l, -2 ^ 15 ≤ e.1 ∧ e.1 < 2 ^ 15 ∧ e.2 < 2 ^ w) : (weightRun w l).natAbs ≤ 2 ^ 38 := by
  have hsteps : ∀ e ∈ l, ∀ acc, (cellWeight w e.1 acc e.2 - acc).natAbs ≤ 2 ^ 22 := fun e he acc => by
    obtain ⟨hlo, hhi, hcode⟩ := h e he
    exact natAbs_cellWeight_sub_le h1 h8 hlo hhi hcode acc
  have hrun := natAbs_foldl_sub_le (fun acc p => cellWeight w p.1 acc p.2) (2 ^ 22) l hsteps 0
  rw [Int.sub_zero] at hrun
  calc (weightRun w l).natAbs ≤ l.length * 2 ^ 22 := hrun
    _ ≤ 65536 * 2 ^ 22 := Nat.mul_le_mul_right _ hlen

/-- Settles O57: the slots case by case, a weight by induction on its planes, a run by the reach of each of its products. -/
theorem cellsMultiplyExactly : Obligations.CellsMultiplyExactly := by
  unfold Obligations.CellsMultiplyExactly
  refine ⟨fun a acc b p => ⟨weightSlot_one a acc p, fun w h2 _ => ⟨fun hb => ?_, fun hb => ?_⟩⟩, fun a acc code h => ?_,
    fun w a acc code h2 _ h => ?_, sketchSlot_eq, fun w l h1 h8 hlen h => ?_⟩
  · exact weightSlot_below h2 hb a acc p
  · exact weightSlot_last h2 hb a acc p
  · exact cellWeight_one a acc h
  · exact cellWeight_signed h2 a acc h
  · have hrun := natAbs_weightRun_le h1 h8 hlen h
    omega

end Sys2Proof.Machine
end

section
/-!
SUPPORT. The descriptor rows: each runs its own operation on the placed task's ready descriptor (R189), and the operations that begin a
collective or a selection, where their operands can be read (R256, R260 to R262).
-/
namespace Sys2Proof.Machine

/-- A ready descriptor whose operation meets nothing that stops it has run. -/
theorem becomes_of_descRow {ins : Instr} {op : Byte} {task : BitVec 16} {d : Desc} {f : Desc → Run → Run} {s : State} {i : Nat} {sh : Shape}
    (hready : readyDesc s.sys task d = some (i, sh)) (h : exec ins s = done s (descRow op task d f)) (ho : d.op = op)
    (hf : (f d (runOf task.toNat (useVector task.toNat d s.sys))).failed = false) :
    Becomes ins s (markRan task.toNat i (f d (runOf task.toNat (useVector task.toNat d s.sys))).sys) :=
  becomes_of_done h (descRow_ready op task d f s.sys i sh hready ho hf)

/-- An operation that meets nothing that stops it has run. -/
theorem runDesc_unfailed {t i : Nat} {d : Desc} {sh : Shape} {f : Desc → Run → Run} {m : Sys}
    (hf : (f d (runOf t (useVector t d m))).failed = false) :
    runDesc t i d sh f m = markRan t i (f d (runOf t (useVector t d m))).sys := by
  simp only [runDesc, endRun, hf, Bool.not_false, if_true, Bool.false_eq_true, if_false]

/-- A ready descriptor is handed to its row's own effect. -/
theorem becomes_of_descRowWith {ins : Instr} {op : Byte} {task : BitVec 16} {d : Desc} {g : Nat → Nat → Desc → Shape → Sys → Sys}
    {s : State} {i : Nat} {sh : Shape} {m : Sys} (hready : readyDesc s.sys task d = some (i, sh))
    (h : exec ins s = done s (descRowWith op task d g)) (ho : d.op = op) (hg : g task.toNat i d sh s.sys = m) : Becomes ins s m :=
  becomes_of_done h ((descRowWith_ready op task d g s.sys i sh hready ho).trans hg)

/-- Settles O32: each row runs its own operation on its ready descriptor. -/
theorem engineAndMoveDescriptors : Obligations.EngineAndMoveDescriptors := by
  unfold Obligations.EngineAndMoveDescriptors
  intro s task d i sh hready
  refine ⟨?_, ?_, ?_, ?_, ?_, ?_, ?_, ?_, ?_, ?_⟩ <;> exact becomes_of_descRow hready rfl

/-- Settles O33: each row runs its own operation on its ready descriptor. -/
theorem vectorDescriptors : Obligations.VectorDescriptors := by
  unfold Obligations.VectorDescriptors
  intro s task d i sh hready
  refine ⟨?_, ?_, ?_, ?_, ?_⟩ <;> exact becomes_of_descRow hready rfl

/-- Settles O34: each row runs its own operation on its ready descriptor. -/
theorem selectionAndFilterDescriptors : Obligations.SelectionAndFilterDescriptors := by
  unfold Obligations.SelectionAndFilterDescriptors
  intro s task d i sh hready
  refine ⟨?_, ?_, ?_, ?_, ?_⟩ <;> exact becomes_of_descRow hready rfl

/-! ### Collectives and SELECT -/

/-- Settles O35: a collective of no element has run at once, one of elements begins where both reads meet nothing; a SELECT alone runs in its
own turn, and a joined one goes on where both reads meet nothing. -/
theorem collectiveDescriptors : Obligations.CollectiveDescriptors := by
  unfold Obligations.CollectiveDescriptors
  intro s task d i sh hready
  refine ⟨?collective, fun ho hc hf => ?alone, ?joined⟩
  case collective =>
    intro hop gather n x rows len c r hread
    have hstart : collStart task.toNat i d sh s.sys = r := by
      unfold collStart
      by_cases hn : n = 0
      · exact (if_pos hn).trans (if_pos hn).symm
      · obtain ⟨hk, hx⟩ := hread hn
        simp only [n, r, x, c, gather, len, rows] at hn hk hx ⊢
        simp only [hn, hk, hx, Bool.not_false, if_true, if_false, Bool.false_eq_true]
    exact ⟨fun ho => becomes_of_descRowWith hready rfl ho hstart, fun ho => becomes_of_descRowWith hready rfl ho hstart⟩
  case alone => exact becomes_of_descRowWith hready rfl ho ((if_pos hc).trans (runDesc_unfailed hf))
  case joined =>
    dsimp only
    intro ho hc hk hv
    refine becomes_of_descRowWith hready rfl ho ?_
    simp only [selectStart, hc, hk, hv, Bool.not_false, if_true, if_false, Bool.false_eq_true]

end Sys2Proof.Machine
end

section
/-!
SUPPORT. The rows of the job engine while a job is active: placement, descriptors, tasks, steps, faults, and the end of a job that stops
(R173, R184, R189, R194 to R197, R278, R287 to R294, R301, R302).
-/
namespace Sys2Proof.Machine

/-! ### Placement, issue and completion (R173, R189, R278, R289) -/

/-- Placement goes over the ready tasks and then the walker tasks while the cores are powered and the job begins more (R289, R317). -/
theorem taskPlacement_places {m : Sys} {j : Job} (hj : activeJob m = some j) (hp : coresPowered m = true)
    (hs : j.stopping = none ∨ j.stopping = some .budget) : taskPlacement m =
      (placeUpTo placeWalker (walkersDue j)
        (placeUpTo placeTask ((j.tasks.filter fun e => e.2.phase == .ready).map (·.1)) (16, m))).2 := by
  have hgoes : (!coresPowered m || !(j.stopping.isNone || j.stopping == some .budget)) = false := by
    obtain hs | hs := hs <;> rw [hp, hs] <;> rfl
  simp only [taskPlacement, hj, hgoes, Bool.false_eq_true, if_false]

/-- A descriptor that may issue leaves its queue, on an engine of its class where it needs one (R189). -/
theorem descIssue_issues {m : Sys} {j : Job} {t i : Nat} {d : Desc} (hj : activeJob m = some j) (hi : mayIssue m j t i = true)
    (hd : taskDesc j t i = some d) : descIssue t i m =
      let core := coreOfTask (taskAt j t)
      fillQueue core (onCore core (fun c => { c with queue := c.queue.filter (· != (t, i)) })
        (onTaskRun t (fun x => { x with issued := x.issued ++ [i] }) (if onEngine d then takeEngine core t i d m else m))) := by
  simp only [descIssue, hj, hi, hd, if_true, onlyIf]

/-- A descriptor that has run completes: its engine drains, and a residue that does not match is a core fault instead (R173, R179). -/
theorem descComplete_ran {m : Sys} {j : Job} {t i : Nat} {d : Desc} (hj : activeJob m = some j) (hd : taskDesc j t i = some d)
    (hr : (taskAt j t).ran.contains i = true) (hn : (taskAt j t).done.contains i = false) (hm : mayRun j d = true) :
    descComplete t i m =
      let core := coreOfTask (taskAt j t)
      let bad := if onEngine d then badHalves (coreOf m core) t else []
      let n := if onEngine d then onCore core (fun c => (halvesOf c t).foldl drainHalf c) m else m
      if bad = [] then onTaskRun t (fun x => { x with done := x.done ++ [i] }) (chargeDesc j t i d (takeEvent 8 n))
      else forEach bad (fun h => coreFault (.half (BitVec.ofNat 12 core) (BitVec.ofNat 4 h)) 1) (takeEvent 5 m) := by
  simp only [descComplete, hj, hd, hr, hn, hm, Bool.not_false, Bool.and_self, if_true, onlyIf, Bool.not_eq_true',
    List.isEmpty_eq_false_iff, ne_eq, ite_not]

/-- A placed task whose descriptors have all completed is done, and later tasks wake (R278). -/
theorem taskComplete_completes {m : Sys} {j : Job} {t : Nat} {c : BitVec 12} (hj : activeJob m = some j)
    (hp : (taskAt j t).phase = .placed c) (hf : (taskAt j t).failed = false)
    (hall : (List.range (entryOf j t).descCount).all (taskAt j t).done.contains = true) : taskComplete t m =
      wakeTasks (retryWaits (lowerTaskPins (flatPos j t) (onTaskRun t (fun x => { x with phase := .done, scratch := freshStore false }) m))) := by
  simp only [taskComplete, hj, hp, hf, hall, Bool.not_false, Bool.and_self, if_true]

/-! ### The steps of a job (R290, R301, R302) -/

/-- A job ends with a step that was its last: it has been ended, a program job has made its steps, or a serving job is drained (R290, R303). -/
theorem endsHere_iff (j : Job) (m : Sys) :
    (!j.enders.isEmpty || (!j.plan.serving && decide (j.startStep + j.steps ≤ j.step + 1)) || drained m) = true ↔
      j.enders ≠ [] ∨ (j.plan.serving = false ∧ j.startStep + j.steps ≤ j.step + 1) ∨ drained m = true := by
  simp only [Bool.or_eq_true, Bool.and_eq_true, Bool.not_eq_true', decide_eq_true_eq, List.isEmpty_eq_false_iff, or_assoc]

/-- A serving job between steps that is to end ends clean (R301, R303). -/
theorem servingStep_ends {m : Sys} {j : Job} (hj : activeJob m = some j) (hs : j.plan.serving = true) (hi : j.inStep = false)
    (hst : j.stopping = none) (h : j.enders ≠ [] ∨ drained m = true) : servingStep m = endClean m := by
  have hends : (!j.enders.isEmpty || drained m) = true := by
    rwa [Bool.or_eq_true, Bool.not_eq_true', List.isEmpty_eq_false_iff]
  simp only [servingStep, hj, hs, hi, hst, hends, Bool.not_true, Option.isSome_none, Bool.or_self, Bool.false_eq_true, if_false, if_true]

/-- A serving job that goes on forms its next step from its contexts (R301, R302). -/
theorem servingStep_forms {m : Sys} {j : Job} (hj : activeJob m = some j) (hs : j.plan.serving = true) (hi : j.inStep = false)
    (hst : j.stopping = none) (he : j.enders = []) (hd : drained m = false) : servingStep m =
      let r := joinOf m j (fun x => !x.search)
      let rows := formRows j.plan (rowOrder { j with ctxs := r.2 }) []
      let n := onJob (fun j => { j with
        waiting := r.1, rows, lastRow := (rows.getLast?.map (·.ctx)).getD j.lastRow,
        ctxs := r.2.map fun e => (e.1, { e.2 with pos := e.2.pos + (rows.filter fun x => x.ctx == e.1).length }) }) m
      let o := writeRowMap n
      if rows = [] then n else if ((o.jobs.job.map (·.stopping.isSome)).getD false) = true then o else beginStep o := by
  simp only [servingStep, hj, hs, hi, hst, he, hd, Bool.not_true, Option.isSome_none, Bool.or_self, Bool.false_eq_true, if_false,
    List.isEmpty_nil, List.isEmpty_iff]

/-- Settles O30: each row at the case that its hypotheses name, as the lemmas above spell it out. -/
theorem jobEngineRows : Obligations.JobEngineRows := by
  unfold Obligations.JobEngineRows
  intro s hl m
  refine ⟨fun hj => ?admission, fun j hj ha => ?reservation, fun j hj => ⟨fun hp hs => ?placement, fun t i hi d hd => ?issue,
    fun t i d hd hr hn hm => ?complete, fun t c hp hf hall => ?task, fun hd he => ?step, fun hs hi hst => ⟨fun h => ?ends, fun he hd => ?rows⟩⟩⟩
  case admission => exact becomes_of_running hl rfl (by simp only [jobAdmission, m, hj])
  case reservation => exact becomes_of_running hl rfl (by simp only [jobAdmission, m, hj, ha, onlyIf_true])
  case placement => exact becomes_of_running hl rfl (taskPlacement_places hj hp hs)
  case issue => exact becomes_of_running hl rfl (descIssue_issues hj hi hd)
  case complete => exact becomes_of_running hl rfl (descComplete_ran hj hd hr hn hm)
  case task => exact becomes_of_running hl rfl (taskComplete_completes hj hp hf hall)
  case step =>
    have hgoes : (!stepDone j || j.expiry.isSome) = false := by
      rw [hd, he]
      rfl
    refine becomes_of_running hl rfl ?_
    simp only [stepEnd, m, hj, hgoes, endsHere_iff, Bool.false_eq_true, if_false]
  case ends => exact becomes_of_running hl rfl (servingStep_ends hj hs hi hst h)
  case rows => exact becomes_of_running hl rfl (servingStep_forms hj hs hi hst he hd)

/-! ### Faults, the budget, a stopping job and idle engines (R184, R194 to R197, R293, R294) -/

/-- The expiry descriptor of a job has completed (R293). -/
theorem budgetExpiry_expires {m : Sys} {j : Job} {t i : Nat} (hj : activeJob m = some j) (he : j.expiry = some (t, i))
    (hd : (taskAt j t).done.contains i = true) (hc : j.conds &&& condition stBudgetOver = 0) : budgetExpiry m =
      ledgerRec 0x09 false (leBytes 4 j.no.toNat ++ zeros 4 ++ leBytes 8 (expirySum j - j.budget))
        (stopJob .budget (markJob (condition stBudgetOver) (takeEvent 6 m))) := by
  have hgoes : (!(taskAt j t).done.contains i || j.conds &&& condition stBudgetOver != 0) = false := by
    rw [hd, hc]
    rfl
  simp only [budgetExpiry, hj, he, hgoes, Bool.false_eq_true, if_false]

/-- A change that is made unless two values are the same. -/
theorem onlyIf_bne {α : Type} [DecidableEq α] (a b : α) (f : Sys → Sys) (m : Sys) : onlyIf (a != b) f m = if a = b then m else f m := by
  by_cases h : a = b
  · rw [if_pos h, h, bne_self_eq_false, onlyIf_false]
  · rw [if_neg h, bne_iff_ne.2 h, onlyIf_true]

/-- A stopping job of which no descriptor still runs stops its walker tasks, and ends once none of them runs (R294, R317). -/
theorem jobStop_stops {m : Sys} {j : Job} {cause : StopCause} (hj : activeJob m = some j) (hs : j.stopping = some cause)
    (hr : stillRuns j = false) : jobStop m =
      let n := stopWalks (reported (jobStatuses j)) j (if cause = .budget then m else stopSeals m)
      if walkersRun n j = true then n else endStopped (abandonAsks (if cause = .fabricReset then n else abandonColls j n)) := by
  simp only [jobStop, hj, hs, hr, Bool.false_or, onlyIf_bne]

/-- A half in service that presents no valid tile is gated, with the dummy slots that led to it (R184). -/
theorem idleGate_gates {m : Sys} {core half : Nat} (hp : corePowered m core = true) (hs : halfServes (coreOf m core) half = true)
    (hc : (coreOf m core).clockOff.getLsbD half = false) (hv : presents m core half ≠ .valid) : idleGate core half m =
      onCore core (fun c => { c with clockOff := setBit c.clockOff half true })
        (dummyCycles core half (2000 - (halfOf (coreOf m core) half).idle) (presents m core half == .bubble) m) :=
  if_pos (by rw [hp, hs, hc, bne_iff_ne.2 hv]; rfl)

/-- Settles O31: each row at the case that its hypotheses name, as the lemmas above spell it out; a fault by the definition, whose first test fails for a
domain in service. -/
theorem faultAndStopRows : Obligations.FaultAndStopRows := by
  unfold Obligations.FaultAndStopRows
  intro s hl m
  refine ⟨fun det core half => ?fault, fun j t i hj he hd hc => ?budget, fun j cause hj hs hr => ?stop,
    fun core half => ?gate⟩
  case fault => exact fun hin => becomes_of_event hl rfl (if_neg (Bool.eq_false_iff.1 hin))
  case budget => exact becomes_of_running hl rfl (budgetExpiry_expires hj he hd hc)
  case stop => exact becomes_of_running hl rfl (jobStop_stops hj hs hr)
  case gate =>
    intro c hp hs hc hv
    exact becomes_of_running hl rfl (idleGate_gates hp hs hc hv)

end Sys2Proof.Machine
end

section
/-!
SUPPORT. Descriptors whose operation fails: what a run keeps of what it has met while its outputs are left open, the rows that then end
their task, and the record of a job that a run stops (R232, R285, R291, R294).
-/
namespace Sys2Proof.Machine

/-! ### A run that goes on (R232, R470) -/

/-- `r'` goes on from `r`: it is of the same task, and whatever `r` has met stands in it. -/
structure Run.GoesOn (r r' : Run) : Prop where
  task : r'.task = r.task
  conds : r.conds &&& r'.conds = r.conds
  bad : r.bad = true → r'.bad = true
  busy : r.busy = true → r'.busy = true

theorem Run.GoesOn.refl (r : Run) : r.GoesOn r := ⟨rfl, BitVec.and_self, id, id⟩

theorem Run.GoesOn.trans {r r' r'' : Run} (h : r.GoesOn r') (h' : r'.GoesOn r'') : r.GoesOn r'' where
  task := h'.task.trans h.task
  conds := by rw [← h.conds, BitVec.and_assoc, h'.conds]
  bad := h'.bad ∘ h.bad
  busy := h'.busy ∘ h.busy

/-- What stopped a run stops every run that goes on from it. -/
theorem Run.GoesOn.failed {r r' : Run} (h : r.GoesOn r') (hf : r.failed = true) : r'.failed = true := by
  simp only [Run.failed, Bool.or_eq_true, bne_iff_ne] at hf ⊢
  refine hf.imp (Or.imp (fun hne h0 => hne ?_) h.bad) h.busy
  rw [← h.conds, h0]
  exact BitVec.and_zero

/-- A change of the module leaves what a run has met. -/
theorem Run.goesOn_sys (r : Run) (m : Sys) : r.GoesOn { r with sys := m } := ⟨rfl, BitVec.and_self, id, id⟩

/-- A field keeps every bit of its own once others join it. -/
theorem and_or_absorb {w : Nat} (a b : BitVec w) : a &&& (a ||| b) = a := by
  ext i hi
  rw [BitVec.getElem_and, BitVec.getElem_or]
  cases a[i] <;> rfl

/-- A condition joins those that a run has met. -/
theorem Run.goesOn_note (r : Run) (m : Sys) (c : BitVec 16) (err : Word) : r.GoesOn ({ r with sys := m }.note c err) where
  task := rfl
  conds := and_or_absorb _ _
  bad := id
  busy := id

/-- A write to the tensor range may meet a FREE number, a sealed tensor or a failing word, and forgets nothing (R141). -/
theorem addrWrite_goesOn (a : Nat) (data : List Byte) (r : Run) : r.GoesOn (addrWrite a data r) := by
  unfold addrWrite
  dsimp only
  split
  · exact ⟨rfl, BitVec.and_self, fun _ => rfl, id⟩
  · split
    · exact r.goesOn_note r.sys _ _
    · split
      · exact r.goesOn_note _ _ _
      · exact r.goesOn_sys _

/-- A write to an operand forgets nothing, whichever space the operand is in (R274). -/
theorem opWrite_goesOn (ref : ORef) (off : Nat) (data : List Byte) (r : Run) : r.GoesOn (opWrite ref off data r) := by
  unfold opWrite
  dsimp only
  split
  · exact .refl r
  · split
    · exact addrWrite_goesOn _ _ r
    · split
      · exact r.goesOn_note _ _ _
      · exact r.goesOn_sys _
    · exact .refl r

/-- Steps that each go on from what they are given go on together. -/
theorem foldl_goesOn {α : Type} {f : Run → α → Run} (h : ∀ (r : Run) a, r.GoesOn (f r a)) (l : List α) (r : Run) : r.GoesOn (l.foldl f r) :=
  List.foldlRecOn l f (.refl r) fun b hb a _ => hb.trans (h b a)

/-- Open output bytes undo nothing of what the operation met (log entry 18). -/
theorem spoil_goesOn (d : Desc) (uses : List Use) (r : Run) : r.GoesOn (spoil d uses r) := by
  refine foldl_goesOn (fun r u => (r.goesOn_sys _).trans (foldl_goesOn (fun r e => ?_) _ _)) _ r
  dsimp only
  split
  · exact (r.goesOn_sys _).trans (opWrite_goesOn _ _ _ _)
  · exact r.goesOn_sys _

/-! ### Rows (R189, R291) -/

/-- The rows whose operation runs whole in their own turn and can fail, SELECT aside: operation code, row and operation. -/
def fallibleRows (task : BitVec 16) (d : Desc) : List (Byte × Instr × (Desc → Run → Run)) :=
  [(0x01, .matmul task d, matmulOp), (0x02, .hamming task d, hammingOp), (0x03, .ewArray task d, ewArrayOp), (0x04, .sketch task d, sketchOp),
   (0x10, .ew task d, ewOp), (0x11, .norm task d, normOp), (0x12, .softmax task d, softmaxOp), (0x13, .reduce task d, reduceOp),
   (0x14, .convert task d, convertOp), (0x20, .move task d, moveDescOp), (0x21, .gather task d, gatherOp), (0x22, .scatter task d, scatterOp),
   (0x23, .scatterAdd task d, scatterAddOp), (0x24, .relayout task d, relayoutOp), (0x25, .transpose task d, transposeOp),
   (0x30, .topk task d, topkOp), (0x40, .filter task d, filterOp), (0x41, .scan task d, scanOp), (0x58, .emit task d, emitOp)]

/-- Each of those rows is the frame of R189 around its own operation. -/
theorem exec_of_mem_fallibleRows (task : BitVec 16) (d : Desc) (s : State) :
    ∀ e ∈ fallibleRows task d, exec e.2.1 s = done s (descRow e.1 task d e.2.2) := by
  simp only [fallibleRows, List.forall_mem_cons, List.not_mem_nil, false_implies, implies_true, and_true]
  exact ⟨rfl, rfl, rfl, rfl, rfl, rfl, rfl, rfl, rfl, rfl, rfl, rfl, rfl, rfl, rfl, rfl, rfl, rfl, rfl⟩

/-- A ready descriptor whose operation is stopped leaves its outputs open and ends its task. -/
theorem becomes_of_descRow_failed {ins : Instr} {op : Byte} {task : BitVec 16} {d : Desc} {f : Desc → Run → Run} {s : State} {i : Nat}
    {sh : Shape} (hready : readyDesc s.sys task d = some (i, sh)) (h : exec ins s = done s (descRow op task d f)) (ho : d.op = op)
    (hf : (f d (runOf task.toNat (useVector task.toNat d s.sys))).failed = true) :
    Becomes ins s (failRun (spoil d sh.uses (f d (runOf task.toNat (useVector task.toNat d s.sys))))) := by
  refine becomes_of_descRowWith hready h ho ?_
  have hs := (spoil_goesOn d sh.uses _).failed hf
  simp only [runDesc, endRun, hf, hs, Bool.not_true, Bool.false_eq_true, if_false, if_true]

/-! ### The record of a job that a run stops (R285, R291, R294) -/

/-- A change of the running job's record, where there is one. -/
theorem onJob_of_job {m : Sys} {j : Job} (hj : m.jobs.job = some j) (f : Job → Job) :
    onJob f m = onJobs (fun x => { x with job := some (f j) }) m := by
  simp only [onJob, onJobs, hj, Option.map_some]

/-- Two changes of the running job's record are one. -/
theorem onJob_onJob (f g : Job → Job) (m : Sys) : onJob f (onJob g m) = onJob (fun j => f (g j)) m := by
  simp only [onJob, onJobs, Option.map_map, Function.comp_def]

/-- What a task gives up lies at its core, whatever else changes in the job's record. -/
theorem releaseTask_onJob {t : Nat} {f : Job → Job} (hf : ∀ j, (taskAt (f j) t).phase = (taskAt j t).phase) (m : Sys) :
    releaseTask t (onJob f m) = onJob f (releaseTask t m) := by
  unfold releaseTask onJob
  cases hj : m.jobs.job with
  | none => simp [hj]
  | some j =>
    simp only [onJobs_jobs, hj, Option.map_some, hf]
    split <;> rfl

/-- Giving up what a task holds at its core leaves the jobs' state. -/
theorem releaseTask_jobs (t : Nat) (m : Sys) : (releaseTask t m).jobs = m.jobs := by
  unfold releaseTask
  split
  · rfl
  · split <;> rfl

/-- The task's own record once it has ended early; `left` is when, with the halves that it then held. -/
def endedEarly (left : Nat × List Nat) (x : TaskRun) : TaskRun := { x with failed := true, stopped := some left }

/-- A task that ends early gives up what it holds at its core, and its record says so. -/
theorem endTask_eq (t : Nat) (m : Sys) : endTask t m = onTaskRun t (endedEarly (now m, heldHalves t m)) (releaseTask t m) :=
  releaseTask_onJob (fun j => by rw [taskAt, tget_tupd_same]; rfl) m

/-- Why a job stops that meets a condition: a budget expiry gives way, any other cause that is there stands (R294, R308). -/
def stopOnCondition : Option StopCause → StopCause
  | none => .condition
  | some .budget => .condition
  | some c => c

/-- A condition stops the job in every case; only the cause may be an earlier one. -/
theorem stopJob_condition (m : Sys) :
    stopJob .condition m = onJob (fun j => { j with stopping := some (stopOnCondition j.stopping) }) m := by
  refine congrArg (onJob · m) (funext fun j => ?_)
  cases hs : j.stopping with
  | none => rfl
  | some c => cases c <;> rfl

/-- The record of the running job once a run has stopped it; `left` says when its task ended, and with which halves. -/
def stoppedJob (r : Run) (left : Nat × List Nat) (j : Job) : Job :=
  { j with
    malformed := j.malformed || r.bad
    busyRead := j.busyRead || r.busy
    conds := j.conds ||| r.conds
    errAddr := mergeErr j.conds r.conds j.errAddr r.err
    faultTask := if j.stopping.isNone || j.stopping == some .budget then BitVec.ofNat 32 r.task else j.faultTask
    tasks := tupd taskFresh r.task (endedEarly left) j.tasks
    stopping := some (stopOnCondition j.stopping) }

/-- A task that fails changes the job's record, and gives up what it holds at its core. -/
theorem failRun_of_job {r : Run} {j : Job} (hj : r.sys.jobs.job = some j) : ∃ left, failRun r =
    onJobs (fun x => { x with job := some (stoppedJob r left j) }) (releaseTask r.task r.sys) := by
  have hrel : (releaseTask r.task r.sys).jobs.job = some j := by rw [releaseTask_jobs, hj]
  rw [failRun, failTask, stopJob_condition, endTask_eq, releaseTask_onJob, releaseTask_onJob]
  · simp only [onTaskRun, onJob_onJob, onJob_of_job hrel]
    exact ⟨_, rfl⟩
  · exact fun _ => rfl
  · exact fun _ => rfl

theorem taskAt_stoppedJob_same (r : Run) (left : Nat × List Nat) (j : Job) :
    taskAt (stoppedJob r left j) r.task = endedEarly left (taskAt j r.task) := by
  rw [taskAt, stoppedJob, tget_tupd_same, taskAt]

theorem taskAt_stoppedJob_other (r : Run) (left : Nat × List Nat) (j : Job) {t : Nat} (ht : t ≠ r.task) :
    taskAt (stoppedJob r left j) t = taskAt j t := by
  rw [taskAt, stoppedJob, tget_tupd_other _ _ _ _ _ ht, taskAt]

theorem stopOnCondition_ne_budget (c : Option StopCause) : stopOnCondition c ≠ .budget := by
  cases c with
  | none => decide
  | some c => cases c <;> decide

/-- Settles O55: the rows by what open outputs keep of a run, the record field by field. -/
theorem descriptorsThatFail : Obligations.DescriptorsThatFail := by
  unfold Obligations.DescriptorsThatFail
  refine ⟨fun s task d i sh hready e he => ?row, fun d uses r hf => ?kept, fun r j hj => ?record⟩
  case row =>
    intro r ho hf
    exact becomes_of_descRow_failed hready (exec_of_mem_fallibleRows task d s e he) ho hf
  case kept =>
    have h := spoil_goesOn d uses r
    exact ⟨h.failed hf, h.task, h.conds⟩
  case record =>
    obtain ⟨left, hk⟩ := failRun_of_job hj
    have hsame := taskAt_stoppedJob_same r left j
    refine ⟨_, hk, rfl, ?failed, rfl, ?cause, ?done, fun t ht => taskAt_stoppedJob_other r left j ht, rfl, rfl, rfl, ?first⟩
    case failed => rw [hsame, endedEarly]
    case cause => exact fun h => stopOnCondition_ne_budget _ (Option.some.inj h)
    case done => rw [hsame, endedEarly]
    case first => simp only [stoppedJob, Bool.or_eq_true, Option.isNone_iff_eq_none, beq_iff_eq]

end Sys2Proof.Machine
end

section
/-!
SUPPORT. The tensor descriptors: each hands the tensor of its slot to the operation of its command, which it asks for (R142, R148, R281).
-/
namespace Sys2Proof.Machine

/-- A change of a task moves no binding, so an operand names the tensor that it named (R142). -/
@[simp] theorem descTensor_onTaskRun (t : Nat) (f : TaskRun → TaskRun) (m : Sys) (ref : ORef) :
    descTensor (onTaskRun t f m) ref = descTensor m ref := by
  unfold descTensor
  rw [onTaskRun, onJob, onJobs_jobs]
  cases m.jobs.job with
  | none => rfl
  | some j => cases ref <;> rfl

/-- A tensor descriptor that no seal or append holds back waits for the end of the operation that it begins on its tensor. -/
theorem tensorDesc_begins {f : Asker → Nat → List Byte → Sys → Sys} {t i n : Nat} {d : Desc} {sh : Shape} {m : Sys}
    (hw : descWaits m d [d.o0, d.o1] = false) (hn : descTensor m d.o0 = some n) : tensorDesc f t i d sh m =
      f (.desc (BitVec.ofNat 16 t) i) n (descBlock m d) (onTaskRun t (fun x => { x with waits := x.waits ++ [i] }) m) := by
  simp only [tensorDesc, hw, hn, descTensor_onTaskRun, Bool.false_eq_true, if_false]

/-- T_APPEND begins on the tensor of O0, from the tensor of O1. -/
theorem appendDesc_begins {t i n src : Nat} {d : Desc} {sh : Shape} {m : Sys} (hw : descWaits m d [d.o0, d.o1] = false)
    (hn : descTensor m d.o0 = some n) (hsrc : descTensor m d.o1 = some src) : appendDesc t i d sh m =
      appendNow (.desc (BitVec.ofNat 16 t) i) n src (onTaskRun t (fun x => { x with waits := x.waits ++ [i] }) m) := by
  simp only [appendDesc, hsrc, tensorDesc_begins hw hn]

/-- Settles O36: each row hands its ready descriptor to `tensorDesc`, which begins the row's own operation. -/
theorem tensorDescriptors : Obligations.TensorDescriptors := by
  unfold Obligations.TensorDescriptors
  intro s task d i sh n hready hw hn a p m
  have hbegins (f : Asker → Nat → List Byte → Sys → Sys) : tensorDesc f task.toNat i d sh s.sys = f a n p m :=
    tensorDesc_begins hw hn
  refine ⟨?create, ?delete, ?move, ?drop, ?pin, ?unpin, ?seals, fun src ho hsrc => ?append, ?close⟩
  case append => exact becomes_of_descRowWith hready rfl ho (appendDesc_begins hw hn hsrc)
  all_goals exact fun ho => becomes_of_descRowWith hready rfl ho (hbegins _)

end Sys2Proof.Machine
end

section
/-!
SUPPORT. The job commands once nothing refuses them: what each makes of the queue, of the running job and of its contexts (R284, R286,
R296, R300, R304).
-/
namespace Sys2Proof.Machine

/-! ### JOB_SUBMIT -/

/-- The job number after `no`: 32 bits, and zero is skipped (R284). -/
theorem nextNo_skips_zero (no : BitVec 32) : (if no + 1 = 0 then 1 else no + 1) = if no = 0xFFFFFFFF then 1 else no + 1 := by
  simp only [show no + 1 = 0 ↔ no = 0xFFFFFFFF by bv_omega]

/-- A number is the last before zero when the next one wraps (R284). -/
theorem wraps_iff_last (no : BitVec 32) : (no + 1 == 0) = (no == 0xFFFFFFFF) :=
  Bool.eq_iff_iff.2 (by simp only [beq_iff_eq]; bv_omega)

section
variable {c : Cmd} {m : Sys}

/-- A JOB_SUBMIT whose plan, bindings, steps and service are good takes its place in a queue that has one free (R33, R284, R307, R461). -/
theorem jobSubmit_queues (hnew : m.jobs.queue.any (fun w => sameCmd w.cmd c) = false)
    (hown : ∀ j, m.jobs.job = some j → sameCmd j.cmd c = false)
    (hplan : wholeTensor m (par c 32 8) = true) (hbinds : wholeTensor m (par c 40 8) = true) (hsteps : subStart c + subSteps c ≤ 2 ^ 32)
    (hserv : serviceOff m (peekService (subPlan c) m).toNat = false) (hroom : m.jobs.queue.length < 64) (hentry : m.power.entry = none)
    (htest : m.health.selftest = none) : jobSubmit c m = onJobs (fun x => { x with
      queue := x.queue ++ [{ no := x.nextNo, cmd := c, service := peekService (subPlan c) m }],
      nextNo := if x.nextNo = 0xFFFFFFFF then 1 else x.nextNo + 1, wrapped := x.wrapped || x.nextNo == 0xFFFFFFFF }) m := by
  have hjob : ((m.jobs.job.map fun j => sameCmd j.cmd c).getD false) = false := by
    cases hj : m.jobs.job with
    | none => rfl
    | some j => exact hown j hj
  have hbusy : ¬(64 ≤ m.jobs.queue.length ∨ m.power.entry.isSome = true ∨ m.health.selftest.isSome = true) := by
    simp only [hentry, htest, Option.isSome_none, Bool.false_eq_true, or_false]
    omega
  simp only [jobSubmit, hnew, hjob, hplan, hbinds, Nat.not_lt.2 hsteps, hserv, hbusy, nextNo_skips_zero, wraps_iff_last, decide_false,
    Bool.not_true, Bool.or_false, Bool.false_eq_true, if_false]
  rfl

/-! ### JOB_END and JOB_QUERY -/

/-- Zero, or its own number, names the running job (R286, R296). -/
theorem namedJob_running {j : Job} {no : BitVec 32} (hj : m.jobs.job = some j) (hno : no = 0 ∨ no = j.no) :
    (m.jobs.job.filter fun j => no == 0 || j.no == no) = some j := by
  rw [hj]
  refine Option.filter_some_pos ?_
  obtain h0 | hsame := hno
  · simp [h0]
  · simp [hsame]

/-- Another number names no running job. -/
theorem namedJob_none {no : BitVec 32} (hno : (m.jobs.job.all fun j => no != 0 && j.no != no) = true) :
    (m.jobs.job.filter fun j => no == 0 || j.no == no) = none := by
  cases hj : m.jobs.job with
  | none => rfl
  | some j => simpa [hj] using hno

/-- JOB_END of the running job waits for its end; of one that ends already it ends at once, late (R296). -/
theorem jobEndCmd_running {j : Job} (hj : m.jobs.job = some j)
    (hno : BitVec.ofNat 32 (par c 32 4) = 0 ∨ BitVec.ofNat 32 (par c 32 4) = j.no)
    (hadm : j.admitting = false) (hnew : j.enders.any (sameCmd c) = false) : jobEndCmd c m =
      if j.stopping.isSome then complete c (enderEnding true) m else onJob (fun j => { j with enders := j.enders ++ [c] }) m := by
  simp only [jobEndCmd, namedJob_running hj hno, hadm, hnew, Bool.false_eq_true, if_false]

/-- JOB_END of a job that has ended ends at once, late (R296). -/
theorem jobEndCmd_ended
    (hno : (m.jobs.job.all fun j => BitVec.ofNat 32 (par c 32 4) != 0 && j.no != BitVec.ofNat 32 (par c 32 4)) = true)
    (hqueue : (m.jobs.queue.any fun w => w.no == BitVec.ofNat 32 (par c 32 4)) = false)
    (hgiven : wasGiven m (BitVec.ofNat 32 (par c 32 4)) = true) : jobEndCmd c m = complete c (enderEnding true) m := by
  simp only [jobEndCmd, namedJob_none hno, hqueue, hgiven, Bool.false_eq_true, if_false, if_true]

/-- JOB_QUERY of the running job tells how far it is (R286). -/
theorem jobQuery_running {j : Job} (hj : m.jobs.job = some j)
    (hno : BitVec.ofNat 32 (par c 32 4) = 0 ∨ BitVec.ofNat 32 (par c 32 4) = j.no) :
    jobQuery c m = complete c { doneWith (jobQueryResult j.no (jobState m) j.step j.ctxs.length) with pips := j.pips } m := by
  simp only [jobQuery, namedJob_running hj hno]

/-! ### CTX_OPEN and CTX_CLOSE -/

/-- A serving job that has been admitted and does not stop serves the contexts of its service (R300). -/
theorem servingJob_running {j : Job} {service : Nat} (hj : m.jobs.job = some j) (hserving : j.plan.serving = true)
    (hadm : j.admitting = false) (hstop : j.stopping = none) (hservice : j.service.toNat = service) : servingJob m service = some j := by
  rw [servingJob, hj]
  refine Option.filter_some_pos ?_
  simp [hserving, hadm, hstop, hservice]

/-- A prompt of at least one token that lies in its tensor, for at least one new token that its buffer holds (R99, R300). -/
theorem ctxAskGood_of_fits {t : Tensor} (hlen : 1 ≤ par c 36 4) (hmax : 1 ≤ par c 40 4) (hbuf : 4 * par c 40 4 ≤ c.length.toNat)
    (hn : userNumber (tnumOf c.tensor) = true) (ht : tensorOf m (tnumOf c.tensor) = some t)
    (hin : offsetOf c.tensor + 4 * par c 36 4 ≤ t.size) : ctxAskGood c m = true := by
  simp only [ctxAskGood, hlen, hmax, hbuf, hn, ht, hin, decide_true, Bool.and_self]

/-- CTX_OPEN's new context joins the queue of its job when its prompt has been read (R300). -/
theorem ctxOpen_waits {j : Job} {t : Tensor} (hjob : servingJob m (par c 32 1) = some j)
    (hwaits : (j.waiting.any fun x => sameCmd x.cmd c) = false) (hactive : (j.ctxs.any fun e => sameCmd e.2.cmd c) = false)
    (hon : serviceOff m (par c 32 1) = false) (hgood : ctxAskGood c m = true) (hmax : 1 ≤ par c 40 4)
    (hpos : par c 36 4 + par c 40 4 ≤ j.plan.maxPos) (ht : tensorOf m (tnumOf c.tensor) = some t) (hst : t.state ≠ .building)
    (hbusy : unitsBusy c (tnumOf c.tensor) (offsetOf c.tensor) (4 * par c 36 4) m = false)
    (hstack : stackWaits m t (offsetOf c.tensor) (4 * par c 36 4) = false) :
    let r := readTensor (tnumOf c.tensor) (offsetOf c.tensor) (4 * par c 36 4) m
    (readEnding (tnumOf c.tensor) r.1).status = stDone →
    ctxOpen c m = onJob (fun j => { j with waiting := j.waiting ++
      [newCtx c ((List.range (par c 36 4)).map fun i => BitVec.ofNat 32 (leAt r.1.bytes (4 * i) 4)) false m] }) r.2 := by
  intro r hread
  have hj : m.jobs.job = some j := (Option.filter_eq_some_iff.1 hjob).1
  have hroom : ¬j.plan.maxPos < par c 36 4 + 1 := by omega
  have hbuilt : (some t.state == some TState.building) = false := by simp [hst]
  simp only [r] at hread
  simp only [ctxOpen, hjob, hj, hwaits, hactive, hon, hgood, hroom, Nat.not_lt.2 hpos, ht, hbuilt, hbusy, hstack, hread, r, Option.map_some,
    Option.getD_some, Option.any_some, Option.isNone_some, decide_false, Bool.not_true, Bool.or_false, Bool.false_eq_true, ne_eq,
    not_true_eq_false, if_false]

/-- CTX_CLOSE of an active context marks it as ended, and waits for it (R304). -/
theorem ctxClose_marks {j : Job} {x : Ctx} (hj : m.jobs.job = some j) (hserving : j.plan.serving = true) (hadm : j.admitting = false)
    (hnew : (j.ctxs.any fun e => e.2.closers.any (sameCmd c)) = false) (hx : tfind (par c 32 2) j.ctxs = some x)
    (hsearch : x.search = false) : ctxClose c m = onJob (fun j => { j with
      ctxs := tset (par c 32 2) { x with ending := some (x.ending.getD stDone), closers := x.closers ++ [c] } j.ctxs }) m := by
  have hnamed : ((some x).filter fun x => !x.search) = some x := Option.filter_some_pos (by simp [hsearch])
  have hending : (x.ending.orElse fun _ => some stDone) = some (x.ending.getD stDone) := by cases x.ending <;> rfl
  simp only [ctxClose, hj, hserving, hadm, hnew, hx, hnamed, hending, Bool.not_true, Bool.or_false, Bool.false_eq_true, if_false]

end

/-- Settles O4: each command runs, and its own effect is the one that its lemma names. -/
theorem jobCommandsTakeEffect : Obligations.JobCommandsTakeEffect := by
  unfold Obligations.JobCommandsTakeEffect
  refine ⟨fun c s hs => ?submit, fun c s j hs hj hno hadm hnew => ?finish, fun c s hs hno hqueue hgiven => ?ended,
    fun c s j hs hj hno => ?query, fun c s j t hs => ?opens, fun c s j x hs hj hserving hadm hnew hx hsearch => ?closes⟩
  case submit =>
    intro m hnew hown hplan hbinds hsteps hserv hroom hentry htest
    have hnone : m.jobs.queue.any (fun w => sameCmd w.cmd c) = false := by simpa using hnew
    exact becomes_of_served hs rfl (jobSubmit_queues hnone hown hplan hbinds hsteps hserv hroom hentry htest)
  case finish => exact becomes_of_served hs rfl (jobEndCmd_running hj (hno.imp_left (congrArg (BitVec.ofNat 32))) hadm hnew)
  case ended => exact becomes_of_served hs rfl (jobEndCmd_ended hno hqueue hgiven)
  case query => exact becomes_of_served hs rfl (jobQuery_running hj (hno.imp_left (congrArg (BitVec.ofNat 32))))
  case opens =>
    intro m len new hj hserving hadm hstop hservice hon hwaits hactive hlen hmax hpos hbuf hn ht hin hst hbusy hstack r hread
    have hjob : servingJob m (par c 32 1) = some j := servingJob_running hj hserving hadm hstop hservice
    have hgood : ctxAskGood c m = true := ctxAskGood_of_fits hlen hmax hbuf hn ht hin
    exact becomes_of_served hs rfl (ctxOpen_waits hjob hwaits hactive hon hgood hmax hpos ht hst hbusy hstack hread)
  case closes => exact becomes_of_served hs rfl (ctxClose_marks hj hserving hadm hnew hx hsearch)

end Sys2Proof.Machine
end

section
/-!
SUPPORT. The index commands once nothing refuses them or holds them back: what each makes of its index, of its snapshot and of the root
that it reads (R312, R317 to R320, R329, R330, R333).
-/
namespace Sys2Proof.Machine

section
variable {c : Cmd} {m : Sys} {i : Index}

/-! ### INDEX_CREATE, INDEX_DROP, INDEX_QUERY -/

/-- The registry with a new index `id` over root tensor `n`, which holds root `x` (R312). -/
def registerIndex (id n : Nat) (x : Root) : Sys → Sys := onSearch fun s => { s with
  registry := tset id
    { root := BitVec.ofNat 24 n, parts := compTensors x, version := 0, segments := [], nextOrd := 1, merge := none, objects := [], old := [] }
    s.registry }

/-- INDEX_CREATE of a free identifier on a sealed LIVE tensor of 4,096 bytes ends with its read, or registers a root that passes R312. -/
theorem indexCreate_reads {n : Nat} {t : Tensor} (hnew : askUnderWay (.cmd c) m = false) (hon : serviceOff m 1 = false)
    (hlo : 1 ≤ par c 32 2) (hhi : par c 32 2 ≤ 1023) (hsnap : indexOf m c = none) (hreg : tfind (par c 32 2) m.search.registry = none)
    (hn : namedTensor c.tensor = some n) (ht : tensorOf m n = some t) (hseal : t.isSealed = true) (hlive : t.state = .live)
    (hsize : t.size = 4096) :
    let r := addrRead (n * 2 ^ 40) 4096 (runOf 0 m)
    indexCreate c m =
      if r.2.failed then complete c (runEnding r.2) r.2.sys
      else match (readRoot r.1).filter (compsGood m) with
        | none => endWith c stBadCommand r.2.sys
        | some x => bindFlush (.cmd c) stDone [] (journal (.registry (par c 32 2)) (registerIndex (par c 32 2) n x r.2.sys)) := by
  intro r
  have hgo : (t.isSealed = false ∨ t.state ≠ .live ∨ t.size ≠ 4096) = False := by simp [hseal, hlive, hsize]
  simp only [indexCreate, within, hnew, hon, hlo, hhi, hsnap, hreg, hn, ht, hgo, Option.bind_some, Option.map_some, Option.isSome_none,
    decide_true, Bool.and_self, Bool.not_true, Bool.or_self, Bool.false_eq_true, if_false]
  cases readRoot r.1 with
  | none => rfl
  | some x =>
    cases hx : compsGood m x with
    | false => simp only [hx, Option.filter_some_neg hx, Bool.not_false, if_true, r]
    | true => simp only [hx, Option.filter_some_pos hx, Bool.not_true, Bool.false_eq_true, if_false, registerIndex, r]

/-- INDEX_DROP of an index that no other command uses (R319). -/
theorem indexDrop_unused (hnew : askUnderWay (.cmd c) m = false) (hon : serviceOff m 1 = false) (hi : indexOf m c ≠ none)
    (huse : indexActive m c = false) :
    indexDrop c m = bindFlush (.cmd c) stDone [] (journal (.registry (par c 32 2))
      (removeAll (((tfind (par c 32 2) m.search.registry).map fun i => i.segments.map (·.tensor)).getD [])
        (onSearch (fun z => { z with registry := tdel (par c 32 2) z.registry }) m))) := by
  simp only [indexDrop, hnew, hon, Option.isNone_eq_false_iff.2 (Option.isSome_iff_ne_none.2 hi), huse, Bool.or_self, Bool.false_eq_true,
    if_false]

/-- INDEX_QUERY's index counts only while search is in service (R319). -/
theorem queriedIndex_served (hi : indexOf m c = some i) (hon : serviceOff m 1 = false) :
    ((indexOf m c).filter fun _ => !serviceOff m 1) = some i := by simp [hi, hon]

/-! ### SEARCH -/

/-- A search serving job runs: the form in which the dispatch of a command asks for it (R317). -/
theorem not_isNone_searchJob (hjob : searchJob m ≠ none) : (searchJob m).isNone = false := by
  simpa [Option.isSome_iff_ne_none] using hjob

/-- A SEARCH that reads its operands itself is refused or ends with them, waits for their units, or waits for a context (R14, R317, R320). -/
theorem openSearch_reads {x : Root} {r : Run} (hlead : leaderOf m c = none) (hjob : (searchJob m).isNone = false) :
    let v := readSearch c x r
    let read := !v.1.contains .wait && !v.1.contains .busy && !v.2.failed
    openSearch c i x r m =
      if v.1.contains .bad || (read && !searchInput (searchAsk c) x (askedBytes v.1)) then refuseSearch c (ending stBadCommand) v.2.sys
      else if v.1.contains .busy then refuseSearch c (ending stBusy) v.2.sys
      else if v.1.contains .wait then m
      else if v.2.failed then endSearch c (runEnding v.2) v.2.sys
      else onlyIf (searchAsk c).sharded (leadSearch c x (askedBytes v.1)) (waitCtx c i (askedBytes v.1) v.2.sys) := by
  simp only [openSearch, hlead, hjob, Bool.or_false]

/-- A SEARCH without a snapshot reads the root of its index: one that fails its checks, or cannot be read, ends the command. -/
theorem searchCmd_dispatch (hsnap : snapOf m c = none) (hi : indexOf m c = some i) (hon : serviceOff m 1 = false)
    (hlead : leaderOf m c = none) (hjob : (searchJob m).isNone = false) :
    let r := rootOf i (runOf 0 m)
    searchCmd c m = match r.1 with
      | none => if r.2.failed then endSearch c (runEnding r.2) r.2.sys else refuseSearch c (ending stBadCommand) r.2.sys
      | some x => if searchGood c false x = false then refuseSearch c (ending stBadCommand) r.2.sys else openSearch c i x r.2 m := by
  intro r
  simp only [searchCmd, hsnap, hi, hon, hlead, hjob, Bool.false_eq_true, if_false,
    Option.isSome_none, Bool.not_eq_true', r]
  obtain ⟨root, run⟩ := rootOf i (runOf 0 m)
  cases root with
  | none => cases run.failed <;> simp only [Bool.false_eq_true, reduceCtorEq, if_true, if_false]
  | some x => simp only

/-- A SEARCH whose walker task is placed, and which has not walked, runs on its snapshot (R317, R318). -/
theorem searchCmd_walks {bytes : List Byte} (hsnap : snapOf m c = some (i, bytes)) (hwalk : walks m c = true)
    (hnew : (m.search.shards.any fun x => sameCmd x.cmd c && x.walked) = false) : searchCmd c m = runSearch c i bytes m := by
  simp only [searchCmd, hsnap, hwalk, hnew, Bool.not_false, Bool.and_self, onlyIf_true]

/-! ### INDEX_INSERT and INDEX_MERGE -/

/-- A write of an index waits for a context once its root has passed the command's checks and the flash is writable (R317, R376). -/
theorem dispatchWrite_begins {good : Root → Bool} (hjob : (searchJob m).isNone = false) :
    let r := rootOf i (runOf 0 m)
    dispatchWrite c i good false m = match r.1 with
      | none => if r.2.failed then complete c (runEnding r.2) r.2.sys else endWith c stBadCommand r.2.sys
      | some x =>
        if good x = false then endWith c stBadCommand r.2.sys
        else if readOnly m then endWith c stReadOnly r.2.sys
        else waitCtx c i [] r.2.sys := by
  intro r
  simp only [dispatchWrite, hjob, Bool.or_self, Bool.false_eq_true, if_false, r]
  obtain ⟨root, run⟩ := rootOf i (runOf 0 m)
  cases root with
  | none => cases run.failed <;> simp only [Bool.not_true, Bool.not_false, Option.isNone_none, Bool.false_eq_true, if_true, if_false]
  | some x => simp only [Bool.not_eq_true', Option.isNone_some, Bool.false_eq_true, if_false]

/-- INDEX_INSERT of a batch that no earlier command touches, into a number that it may take, is dispatched (R329). -/
theorem indexInsert_dispatch {n : Nat} (hnew : indexWriteUnderWay c m = false) (hsnap : snapOf m c = none) (hi : indexOf m c = some i)
    (hon : serviceOff m 1 = false) (hseg : freeNumberGood m (par c 36 4) = true) (hlo : 1 ≤ par c 40 4) (hhi : par c 40 4 ≤ 16777216)
    (hn : namedTensor c.tensor = some n) (hbusy : tensorBusy c (tnumOf c.tensor) m = false)
    (hheld : heldBack (.cmd c) (par c 36 4) m = false) :
    indexInsert c m = dispatchWrite c i (fun x => (namedBatch m c (par c 40 4 * batchRow x)).isSome) false m := by
  simp only [indexInsert, within, hnew, hsnap, hi, hon, hseg, hlo, hhi, hn, hbusy, hheld, decide_true, Bool.and_self, Bool.not_true,
    Option.isNone_some, Bool.or_self, Bool.false_eq_true, if_false]

/-- INDEX_MERGE is dispatched where no other merge of the index runs (R333). -/
theorem indexMerge_dispatch (hnew : indexWriteUnderWay c m = false) (hsnap : snapOf m c = none) (hi : indexOf m c = some i)
    (hon : serviceOff m 1 = false) (hroot : freeNumberGood m (par c 36 4) = true) (hmerge : mergeRuns m c = false) :
    indexMerge c m = dispatchWrite c i (buildGood c) false m := by
  simp only [indexMerge, hnew, hsnap, hi, hon, hroot, hmerge, Bool.not_true, Bool.or_self, Bool.false_eq_true, if_false]

/-- INDEX_INSERT forms its segment once its walker task is placed (R317, R329). -/
theorem indexInsert_walks {bytes : List Byte} (hnew : indexWriteUnderWay c m = false) (hsnap : snapOf m c = some (i, bytes))
    (hwalk : walks m c = true) : indexInsert c m = formInsert c i m := by
  simp only [indexInsert, hnew, hsnap, hwalk, onlyIf_true, Bool.false_eq_true, if_false]

/-- INDEX_MERGE forms its base once its walker task is placed (R317, R333). -/
theorem indexMerge_walks {bytes : List Byte} (hnew : indexWriteUnderWay c m = false) (hsnap : snapOf m c = some (i, bytes))
    (hwalk : walks m c = true) : indexMerge c m = formMerge c (par c 32 2) i m := by
  simp only [indexMerge, hnew, hsnap, hwalk, onlyIf_true, Bool.false_eq_true, if_false]

/-! ### INDEX_DELETE -/

/-- INDEX_DELETE of a batch that can be read begins a tombstone segment of its numbers, ascending and each once (R330). -/
theorem indexDelete_begins {n : Nat} (hnew : indexWriteUnderWay c m = false) (hi : indexOf m c = some i)
    (hn : namedBatch m c (8 * par c 40 4) = some n) (hlo : 1 ≤ par c 40 4) (hhi : par c 40 4 ≤ 16777216)
    (hseg : freeNumberGood m (par c 36 4) = true) (hon : serviceOff m 1 = false) (hheld : heldBack (.cmd c) (par c 36 4) m = false)
    (hbusy : tensorBusy c n m = false) (hwritable : readOnly m = false)
    (hread : (addrRead (n * 2 ^ 40) (8 * par c 40 4) (runOf 0 m)).2.failed = false) :
    let b := addrRead (n * 2 ^ 40) (8 * par c 40 4) (runOf 0 m)
    let l := (sortBy (fun x y => decide (x < y)) ((pieces 8 b.1).map leNat)).eraseDups
    indexDelete c m =
      beginSegment c i (par c 36 4) n true l (segmentHead true (par c 32 2) l.length ++ l.flatMap (leBytes 8)) b.2.sys := by
  simp only [indexDelete, within, hnew, hi, hn, hlo, hhi, hseg, hon, hheld, hbusy, hwritable, hread, decide_true, Bool.and_self,
    Bool.not_true, Bool.or_self, Bool.false_eq_true, if_false]

end

/-- Settles O5: each command runs, and its own effect is the one that its lemma names. -/
theorem indexCommandsTakeEffect : Obligations.IndexCommandsTakeEffect := by
  unfold Obligations.IndexCommandsTakeEffect
  refine ⟨fun c s n t hs => ?create, fun c s hs => ?drops, fun c s i hs => ?query, fun c s i hs => ?search,
    fun c s i bytes hs hsnap hwalk hnew => ?searchWalks, fun c s i n hs => ?writes, fun c s i bytes hs => ?writeWalks,
    fun c s i n hs => ?delete⟩
  case create =>
    intro m id hnew hon hlo hhi hsnap hreg hn ht hseal hlive hsize r
    exact becomes_of_served hs rfl (indexCreate_reads hnew hon hlo hhi hsnap hreg hn ht hseal hlive hsize)
  case drops =>
    intro m id hnew hon hi huse
    exact becomes_of_served hs rfl (indexDrop_unused hnew hon hi huse)
  case query =>
    intro m hi hon r
    refine becomes_of_served hs rfl ?_
    rewrite [indexQuery, queriedIndex_served hi hon]
    rfl
  case search =>
    intro m hsnap hi hon hlead hjob r
    have hserving : (searchJob m).isNone = false := not_isNone_searchJob hjob
    have hdispatch := searchCmd_dispatch hsnap hi hon hlead hserving
    simp only [openSearch_reads hlead hserving] at hdispatch
    exact becomes_of_served hs rfl hdispatch
  case searchWalks => exact becomes_of_served hs rfl (searchCmd_walks (m := startCmd c s.sys) hsnap hwalk hnew)
  case writes =>
    intro m hnew hsnap hi hon hfree hjob r begins
    have hbegins (good : Root → Bool) : dispatchWrite c i good false m = begins good :=
      dispatchWrite_begins (not_isNone_searchJob hjob)
    refine ⟨fun hlo hhi hn hbusy hheld => ?insert, fun hmerge => ?merge⟩
    case insert =>
      exact becomes_of_served hs rfl ((indexInsert_dispatch hnew hsnap hi hon hfree hlo hhi hn hbusy hheld).trans (hbegins _))
    case merge => exact becomes_of_served hs rfl ((indexMerge_dispatch hnew hsnap hi hon hfree hmerge).trans (hbegins _))
  case writeWalks =>
    intro m hnew hsnap hwalk
    exact ⟨becomes_of_served hs rfl (indexInsert_walks hnew hsnap hwalk), becomes_of_served hs rfl (indexMerge_walks hnew hsnap hwalk)⟩
  case delete =>
    intro m b l hnew hi hn hlo hhi hseg hon hheld hbusy hwritable hread
    exact becomes_of_served hs rfl (indexDelete_begins hnew hi hn hlo hhi hseg hon hheld hbusy hwritable hread)

end Sys2Proof.Machine
end

section
/-!
SUPPORT. The rows of seals, page programs and erases (R352, R358, R363, R368, R373).
-/
namespace Sys2Proof.Machine

/-! ### Seal steps (R352) -/

section
variable {n : Nat} {x : Seal} {m : Sys}
variable (hidle : sealPrograms m x = []) (hturn : sealTurn m x = true) (hmore : x.started = true → x.done ≠ x.total)
include hidle hturn hmore

/-- A seal whose turn has come, none of whose programs runs and whose last step has not run is not held back (R147, R333). -/
theorem sealStep_due :
    (!(sealPrograms m x).isEmpty || !sealTurn m x || x.done == x.total && x.started) = false := by
  simp only [hidle, hturn, List.isEmpty_nil, Bool.not_true, Bool.or_self, Bool.false_or, Bool.and_eq_false_imp, beq_iff_eq]
  exact fun hall => Bool.eq_false_iff.2 fun hst => hmore hst hall

variable (hx : sealOf m n = some x)
include hx

/-- A seal that was asked to stop ends at its step's boundary (R147). -/
theorem sealStep_stops (hstop : x.stop ≠ none) : sealStep n m = sealBoundary x m := by
  simp only [sealStep, hx, sealStep_due hidle hturn hmore, Option.isSome_iff_ne_none.2 hstop, Bool.false_eq_true, if_false, if_true]

/-- A seal meets the read-only state: every seal ends as that state has it (R376). -/
theorem sealStep_readOnly (hstop : x.stop = none) (hro : readOnly m = true) : sealStep n m = sealsReadOnly m := by
  simp only [sealStep, hx, sealStep_due hidle hturn hmore, hstop, hro, Option.isSome_none, Bool.false_eq_true, if_false, if_true]

/-- A seal that nothing holds starts its step (R352, R379, R397). -/
theorem sealStep_starts {t : Tensor} {key : List Byte} (hstop : x.stop = none) (hro : readOnly m = false) (hheat : flashHold m = false)
    (hphy : sourceRetrains x m = false) (ht : tensorOf m n = some t) (hkey : tfind x.ns.toNat m.flash.spaces = some key) :
    sealStep n m = startStep x t key m := by
  simp only [sealStep, hx, sealStep_due hidle hturn hmore, hstop, hro, hheat, ht, hkey, hphy, Option.isSome_none, Bool.false_eq_true,
    if_false]

end

/-! ### Page programs (R358, R373) -/

/-- The program of one page of a die. -/
def programOf (d b page : Nat) (p : Program) : Bool := p.die == d && p.block == b && p.page == page

/-- A program in flight ends, good or bad, and in a module that runs what waited for its die may start (R358, R373). -/
theorem programDone_ends {d b page : Nat} {ok : Bool} {p : Program} {m : Sys} (h : m.flash.programs.find? (programOf d b page) = some p) :
    programDone d b page ok m =
      let e := onFlash (fun x => { x with programs := x.programs.filter fun q => !programOf d b page q }) m
      let n := settleDie d (if ok then programGood p e else programBad p e)
      if live n = true then startRetries n else n := by
  have hfound : (m.flash.programs.find? fun p => p.die == d && p.block == b && p.page == page) = some p := h
  rw [programDone, hfound]
  rfl

/-! ### Erases (R355, R363, R368, R373) -/

/-- An erase that may begin does where no foreground read is queued at its die (R363). -/
theorem blockErase_begins {d b : Nat} {m : Sys} (hmay : eraseMay m d b = true) (hq : (dieAt m d).queued = 0) :
    blockErase d b m = beginErase d b m := by
  simp only [blockErase, hmay, hq, Nat.lt_irrefl, Bool.not_true, Bool.false_eq_true, if_false]

/-- An erase that may begin waits for a queued foreground read (R368). -/
theorem blockErase_waits {d b : Nat} {m : Sys} (hmay : eraseMay m d b = true) (hq : 0 < (dieAt m d).queued) :
    blockErase d b m = onDie d (fun x => { x with eraseWaits := some b }) m := by
  simp only [blockErase, hmay, hq, Bool.not_true, Bool.false_eq_true, if_false, if_true]

/-- Settles O38: each row at the case that its hypotheses name, as the lemmas above spell it out. -/
theorem programAndEraseRows : Obligations.ProgramAndEraseRows := by
  unfold Obligations.ProgramAndEraseRows
  refine ⟨fun s hl => ⟨fun tensor x hx hidle hturn hmore => ?steps, fun die block hmay => ⟨fun hq => ?begins, fun hq => ?waits⟩,
    fun die b hwaits hmay => ?forced, fun die block herasing => ?erased⟩, fun s die block page ok p hon => ?program⟩
  case steps =>
    refine ⟨fun hstop => ?_, fun hstop hro => ?_, fun t key hstop hro hheat hphy ht hkey => ?_⟩
    · exact becomes_of_running hl rfl (sealStep_stops hidle hturn hmore hx hstop)
    · exact becomes_of_running hl rfl (sealStep_readOnly hidle hturn hmore hx hstop hro)
    · exact becomes_of_running hl rfl (sealStep_starts hidle hturn hmore hx hstop hro hheat hphy ht hkey)
  case begins => exact becomes_of_running hl rfl (blockErase_begins hmay hq)
  case waits => exact becomes_of_running hl rfl (blockErase_waits hmay hq)
  case forced =>
    refine becomes_of_event hl rfl ?_
    simp only [hwaits, hmay, if_true]
  case erased =>
    have hends := not_not_intro herasing
    exact ⟨becomes_of_running hl rfl (congrArg startRetries (if_neg hends)),
      becomes_of_running hl rfl (congrArg startRetries (if_neg hends))⟩
  case program =>
    intro hit hfound
    have hgate : (live s.sys || inHoldup s.sys) = true := by simpa using hon
    exact becomes_of_done rfl ((if_pos hgate).trans (programDone_ends hfound))

end Sys2Proof.Machine
end

section
/-!
SUPPORT. The rows of dies: suspends, reads, and dies that leave service (R347, R367, R368, R370, R371, R379).
-/
namespace Sys2Proof.Machine

@[simp] theorem dieAt_onDie_same (d : Nat) (f : Die → Die) (m : Sys) : dieAt (onDie d f m) d = f (dieAt m d) := by
  simp only [dieAt, onDie, onFlash_flash, tget_tupd_same]

/-! ### Suspend and resume (R367, R368) -/

section
variable {d : Nat} {m : Sys}

/-- A foreground read queues at a busy die in service, and suspends it where it may (R368). -/
theorem dieSuspend_busy (hbusy : (dieAt m d).busy = true) (hin : (dieAt m d).out = false) :
    dieSuspend d m = suspendDie d (onDie d (fun x => { x with queued := x.queued + 1 }) m) := by
  simp only [dieSuspend, hbusy, hin, Bool.not_true, Bool.or_self, Bool.false_eq_true, if_false]

/-- A die inside its window, or already suspended, is left as it is (R367). -/
theorem suspendDie_kept (h : (dieAt m d).window = true ∨ (dieAt m d).suspended = true) : suspendDie d m = m := by
  have hkept : (!(dieAt m d).busy || (dieAt m d).window || (dieAt m d).suspended) = true := by
    simp only [Bool.or_assoc, Bool.or_eq_true]
    exact .inr h
  exact if_pos hkept

/-- A busy die outside its window that is not suspended yet is suspended (R367, R368). -/
theorem suspendDie_suspends (hbusy : (dieAt m d).busy = true) (hwindow : (dieAt m d).window = false)
    (hsusp : (dieAt m d).suspended = false) :
    suspendDie d m = onFlash (fun x => { x with suspends := satInc x.suspends })
      (onDie d (fun x => { x with suspended := true, served := 0 }) m) := by
  simp only [suspendDie, hbusy, hwindow, hsusp, Bool.not_true, Bool.or_self, Bool.false_eq_true, if_false]

/-- A suspended die resumes into its window outside class 3's critical action (R368, R379). -/
theorem dieResume_resumes (hsusp : (dieAt m d).suspended = true) (hheat : flashHold m = false) :
    dieResume d m = onDie d (fun x => { x with suspended := false, window := true, served := 0 }) m := by
  simp only [dieResume, hsusp, hheat, Bool.not_false, Bool.and_self, if_true]

/-- The window's end lets a queued read suspend the die (R367). -/
theorem windowEnd_shuts (h : (dieAt m d).window = true) :
    windowEnd d m =
      let shut := onDie d (fun x => { x with window := false }) m
      if 0 < (dieAt shut d).queued then suspendDie d shut else shut := by
  simp only [windowEnd, h, Bool.not_true, Bool.false_eq_true, if_false]

end

/-! ### Reads (R368, R370, R371) -/

/-- A read that has been served leaves its die's queue; after 8 of them, or with none left, a suspended die resumes (R368). -/
theorem readServed_eq (d : Nat) (m : Sys) : readServed d m =
    let n := onDie d (fun x => { x with queued := x.queued - 1, served := if x.suspended then x.served + 1 else 0 }) m
    if (dieAt n d).suspended = true ∧ ((dieAt n d).queued = 0 ∨ 8 ≤ (dieAt n d).served) then dieResume d n else n := by
  simp only [readServed, Bool.and_eq_true, Bool.or_eq_true, beq_iff_eq, decide_eq_true_eq]

/-- What is mapped is not absent from the map. -/
theorem not_isNone_of_mapped {unit : Nat} {m : Sys} (h : (tfind unit m.flash.map).isSome = true) :
    ¬(tfind unit m.flash.map).isNone = true := by
  rw [Option.isNone_iff_eq_none]
  exact Option.isSome_iff_ne_none.1 h

/-- Media management runs with the mapping engine outside P2 (R30). -/
theorem managed_of {m : Sys} (hmap : mapRuns m = true) (hp : m.power.current ≠ 2) : managed m = true := by
  simp only [managed, hmap, Bool.true_and, bne_iff_ne, ne_eq, hp, not_false_eq_true]

/-- Settles O39: each row at the case that its hypotheses name, as the lemmas above spell it out. -/
theorem dieRows : Obligations.DieRows := by
  unfold Obligations.DieRows
  intro s die hl m d x
  refine ⟨fun hbusy hin => ?suspend, fun hsusp hheat => ?resume, fun hwindow => ?window,
    fun unit depth hmapped => ⟨fun waitUs => ?read, fun hmap hp => ?patrol⟩, ?out, fun chan => ?channel⟩
  case suspend =>
    intro n
    have hqueued : dieAt n d = { x with queued := x.queued + 1 } := dieAt_onDie_same d _ m
    have hrow := dieSuspend_busy (m := m) hbusy hin
    refine ⟨fun hkept => ?kept, fun hwindow hsusp => ?suspended⟩
    case kept => exact becomes_of_running hl rfl (hrow.trans (suspendDie_kept (by rwa [hqueued])))
    case suspended =>
      exact becomes_of_running hl rfl
        (hrow.trans (suspendDie_suspends (by rwa [hqueued]) (by rwa [hqueued]) (by rwa [hqueued])))
  case resume => exact becomes_of_running hl rfl (dieResume_resumes hsusp hheat)
  case window => exact becomes_of_event hl rfl (windowEnd_shuts hwindow)
  case read => exact becomes_of_running hl rfl ((if_neg (not_isNone_of_mapped hmapped)).trans (readServed_eq _ _))
  case patrol =>
    exact becomes_of_running hl rfl ((if_pos (managed_of hmap hp)).trans (if_neg (not_isNone_of_mapped hmapped)))
  case out => exact becomes_of_whileLive hl (dieLeaves d) rfl
  case channel => exact becomes_of_whileLive hl (channelLeaves chan.toNat) rfl

end Sys2Proof.Machine
end

section
/-!
SUPPORT. The rows of journal flushes, map pages, background copies and the lockstep check (R351, R354, R356, R361, R362, R370).
-/
namespace Sys2Proof.Machine

@[simp] theorem takeEvent_flash (pos : Nat) (m : Sys) : (takeEvent pos m).flash = m.flash := by
  simp only [takeEvent, addTotal, apply_ite Sys.flash, onHealth_flash, ite_self]

/-! ### Journal flushes and map pages (R361, R362) -/

theorem mapRuns_takeEvent (pos : Nat) (m : Sys) : mapRuns (takeEvent pos m) = mapRuns m := by
  simp only [mapRuns, takeEvent_flash]

theorem flashHold_takeEvent (pos : Nat) (m : Sys) : flashHold (takeEvent pos m) = flashHold m := by
  simp only [flashHold, takeEvent_power]

/-- The mapping engine that runs starts a flush where none is in progress and class 3's critical action does not hold it (R362). -/
theorem mapFlush_starts {m : Sys} (hmap : mapRuns m = true) (hidle : m.flash.flushing = none) (hheat : flashHold m = false) :
    (if mapRuns m then askFlush m else m) = startFlush m := by
  rw [mapFlush_eq m ((mapRuns_iff m).1 hmap), if_pos ⟨hidle, hheat⟩]

/-- Otherwise it notes that a flush is asked for (R362). -/
theorem mapFlush_asks {m : Sys} (hmap : mapRuns m = true) (hheld : m.flash.flushing ≠ none ∨ flashHold m = true) :
    (if mapRuns m then askFlush m else m) = onFlash (fun x => { x with flushAsked := true }) m := by
  have hnot : ¬(m.flash.flushing = none ∧ flashHold m = false) := fun ⟨hidle, hheat⟩ =>
    hheld.elim (· hidle) fun h => by simp [hheat] at h
  rw [mapFlush_eq m ((mapRuns_iff m).1 hmap), if_neg hnot]

/-- A dirty map page is written back outside class 3's critical action (R361, R379). -/
theorem writeBack_dirty {page : Nat} {m : Sys} (hheat : flashHold m = false) (hdirty : (tfind page m.flash.dirty).isSome = true) :
    writeBack page m = onFlash (fun x => { x with
      pageSeq := tset page x.journalSeq.toNat x.pageSeq,
      dirty := x.dirty.filter fun e => !(e.1 == page && decide (e.2 ≤ x.journalSeq.toNat)) }) m := by
  have hgate : ¬(flashHold m || (tfind page m.flash.dirty).isNone) = true := by
    simpa [hheat] using Option.isSome_iff_ne_none.1 hdirty
  exact if_neg hgate

/-! ### Background copies (R354, R356, R370) -/

/-- Folding copies the 16 oldest units that a die holds in SLC mode (R354). -/
theorem folding_copies {d : Nat} {m : Sys} (hmay : copiesMay m d = true) : folding d m = copyUnits 2 (fun _ => false)
    ((sortBy (fun (a b : Nat × MapEntry) => decide (a.2.seq < b.2.seq)) ((stillUnits m d).filter fun e => e.2.slc)).take 16) m := by
  simp only [folding, hmay, Bool.not_true, Bool.false_eq_true, if_false]

/-- The valid units of the block that garbage collection chooses move out of it (R356). -/
def moveVictim (d : Nat) (m : Sys) : Sys := match gcVictim m d with
  | some b => copyUnits 1 (fun _ => false) ((stillUnits m d).filter fun e => unitIn e d b) (makeSource d b m)
  | none => m

/-- Garbage collection first copies what an earlier move left behind, then moves a block where few are free (R356, R364). -/
theorem collectDie_collects {d : Nat} {m : Sys} (hmay : copiesMay m d = true) : collectDie d m =
    if leftUnits m d ≠ [] then copyUnits 1 (fun _ => false) (leftUnits m d) m
    else if 8 < freeBlocks m d then m
    else moveVictim d m := by
  simp only [collectDie, hmay, Bool.not_true, Bool.false_eq_true, if_false, Bool.not_eq_true', List.isEmpty_eq_false_iff, moveVictim]
  cases gcVictim m d <;> rfl

/-- A scheduled block that is not being programmed may be refreshed (R370). -/
theorem refresh_due {d b : Nat} {m : Sys} (hmay : copiesMay m d = true) (hasked : (blockOf m d b).refresh = true)
    (hshut : (blockOf m d b).state ≠ .opened) :
    ¬(!copiesMay m d || !(blockOf m d b).refresh || (blockOf m d b).state == .opened) = true := by
  simp only [hmay, hasked, Bool.not_true, Bool.or_self, Bool.false_or, beq_iff_eq]
  exact hshut

/-! ### The lockstep check (R351) -/

/-- The module becomes read-only when the operation met the last mismatch too, or when its `n` mismatches of the last second are 3 or more
(R351). -/
theorem lockstep_cause_iff (op n : Nat) (m : Sys) :
    (m.flash.lockOp == some op || decide (3 ≤ n)) = true ↔ m.flash.lockOp = some op ∨ 3 ≤ n := by
  simp only [Bool.or_eq_true, beq_iff_eq, decide_eq_true_eq]

/-- Settles O40: each row at the case that its hypotheses name, as the lemmas above spell it out. -/
theorem journalAndCopyRows : Obligations.JournalAndCopyRows := by
  unfold Obligations.JournalAndCopyRows
  intro s hl m
  refine ⟨fun hmap hidle hheat => ?starts, fun hmap hheld => ?asks, fun tens => ?durable, fun page hheat hdirty => ?page,
    fun die hmay => ⟨?fold, ?collect, fun block hasked hshut => ?refresh⟩, fun op => ?lockstep⟩
  case starts =>
    exact becomes_of_event hl rfl
      (mapFlush_starts ((mapRuns_takeEvent 9 m).trans hmap) (by rwa [takeEvent_flash]) ((flashHold_takeEvent 9 m).trans hheat))
  case asks =>
    exact becomes_of_event hl rfl
      (mapFlush_asks ((mapRuns_takeEvent 9 m).trans hmap) (by rwa [takeEvent_flash, flashHold_takeEvent]))
  case durable => exact becomes_of_whileLive hl (finishFlush tens.toNat) rfl
  case page =>
    exact becomes_of_event hl rfl (writeBack_dirty ((flashHold_takeEvent 10 m).trans hheat) (by rwa [takeEvent_flash]))
  case fold => exact becomes_of_running hl rfl (folding_copies hmay)
  case collect => exact becomes_of_running hl rfl (collectDie_collects hmay)
  case refresh => exact becomes_of_running hl rfl (if_neg (refresh_due hmay hasked hshut))
  case lockstep =>
    exact becomes_of_running hl rfl (ite_congr (propext (lockstep_cause_iff op.count _ _)) (fun _ => rfl) fun _ => rfl)

end Sys2Proof.Machine
end

section
/-!
SUPPORT. The rows of the test rotation and of the self-test (R345, R347, R456, R458, R461).
-/
namespace Sys2Proof.Machine

/-- A tick of a module that serves in P0 or P1 begins tests (R456). -/
theorem istTick_serving {m : Sys} (hs : m.boot.stage = stageServing) (hp : m.power.current.toNat < 2) :
    istTick m = forEach (List.range 64) tickChannel (forEach (List.range 8) tickPort (forEach (List.range 256) tickSquare (takeRetests m))) :=
  if_neg (not_or.2 ⟨not_not_intro hs, Nat.not_le.2 hp⟩)

/-- A test of the rotation in progress, and any test of a self-test, may end (R458, R461). -/
theorem test_may_end {u : TestUnit} {m : Sys} (h : m.health.tests.contains u = true ∨ m.health.selftest ≠ none) :
    ¬(!m.health.tests.contains u && m.health.selftest.isNone) = true := by
  rw [Bool.and_eq_true, Bool.not_eq_true', Option.isNone_iff_eq_none]
  rintro ⟨hnot, hnone⟩
  exact h.elim (fun hin => Bool.false_ne_true (hnot.symm.trans hin)) (· hnone)

/-- A test is no longer in progress, and its slots are counted (R457). -/
def testEnded (u : TestUnit) (m : Sys) : Sys :=
  testDummies u (onHealth (fun h => { h with tests := h.tests.filter (· != u) }) m)

/-- A test that may end has the consequences of its unit's pass or failure (R458). -/
theorem istTestDone_ends {u : TestUnit} {m : Sys} (fail : Option Byte) (h : m.health.tests.contains u = true ∨ m.health.selftest ≠ none) :
    istTestDone u fail m = fail.elim (testPasses u (testEnded u m)) fun code => testFails u code (testEnded u m) := by
  rw [istTestDone, if_neg (test_may_end h)]
  cases fail <;> rfl

/-- A channel that retrains and is to be retrained may end it (R458). -/
theorem retrain_may_end {c : Nat} {m : Sys} (hst : (chanOf m c).state = 1) (hre : (chanOf m c).retrain = true) :
    ¬((chanOf m c).state ≠ 1 ∨ (chanOf m c).retrain = false) :=
  not_or.2 ⟨not_not_intro hst, fun hno => Bool.false_ne_true (hno.symm.trans hre)⟩

/-- The end of a self-test completes its command with the counts (R461). -/
theorem selftestEnds_running {c : Cmd} {domains lanes channels : Nat} {m : Sys} (h : m.health.selftest = some c) :
    selftestEnds domains lanes channels m =
      complete c (doneWith (resultOf [(40, leBytes 4 domains ++ leBytes 2 lanes ++ leBytes 2 channels)]))
        (onHealth (fun h => { h with selftest := none, mode := if m.boot.stage = stageServing then 0 else 1 }) m) := by
  simp only [selftestEnds, h]

/-- Settles O43: each row at the case that its hypotheses name, as the lemmas above spell it out. -/
theorem selfTestRows : Obligations.SelfTestRows := by
  unfold Obligations.SelfTestRows
  intro s hl m
  refine ⟨fun hs hp => ?tick, fun u hends => ?test, fun chan => ?retrain, fun c domains lanes channels hself => ?selftest⟩
  case tick =>
    exact becomes_of_event hl rfl (istTick_serving ((congrArg Boot.stage (takeEvent_boot 9 m)).trans hs) (by rwa [takeEvent_power]))
  case test =>
    exact ⟨becomes_iff_effect.2 ((if_pos hl).trans (istTestDone_ends none hends)),
      fun code => becomes_iff_effect.2 ((if_pos hl).trans (istTestDone_ends (some code) hends))⟩
  case retrain =>
    intro n hst hre
    have hgate := retrain_may_end hst hre
    exact ⟨becomes_of_running hl rfl (if_neg hgate), becomes_of_running hl rfl (if_neg hgate)⟩
  case selftest => exact becomes_of_running hl rfl (selftestEnds_running hself)

end Sys2Proof.Machine
end

section
/-!
SUPPORT. The Hsiao (72,64) code (R380 to R382, R384): the check bits are linear, a flip of a stored bit adds its column to the syndrome, and
a word is served only with a syndrome that is zero or of odd weight.
-/
namespace Sys2Proof.Machine

/-! ### The check bits are linear (R380) -/

/-- The column of data bit `i`, added where the word has that bit. -/
def addColumn (d : Word) (c : Byte) (i : Nat) : Byte := if d.getLsbD i then c ^^^ dataColumn i else c

theorem addColumn_xor (d e : Word) (x y : Byte) (i : Nat) : addColumn (d ^^^ e) (x ^^^ y) i = addColumn d x i ^^^ addColumn e y i := by
  unfold addColumn
  rw [BitVec.getLsbD_xor]
  cases d.getLsbD i <;> cases e.getLsbD i
  · rfl
  · exact BitVec.xor_assoc x y _
  · change x ^^^ y ^^^ dataColumn i = x ^^^ dataColumn i ^^^ y
    ac_rfl
  · change x ^^^ y = x ^^^ dataColumn i ^^^ (y ^^^ dataColumn i)
    rw [BitVec.xor_comm y, BitVec.xor_assoc, ← BitVec.xor_assoc (dataColumn i), BitVec.xor_self, BitVec.zero_xor]

theorem foldl_addColumn_xor (d e : Word) (l : List Nat) (x y : Byte) :
    l.foldl (addColumn (d ^^^ e)) (x ^^^ y) = l.foldl (addColumn d) x ^^^ l.foldl (addColumn e) y := by
  induction l generalizing x y with
  | nil => rfl
  | cons i l ih => rw [List.foldl_cons, addColumn_xor, ih]; rfl

theorem checkBits_xor (d e : Word) : checkBits (d ^^^ e) = checkBits d ^^^ checkBits e :=
  foldl_addColumn_xor d e (List.range 64) 0 0

/-- The word with one set bit has that bit's column for check bits. -/
theorem checkBits_bit : ∀ i < 64, checkBits (1#64 <<< i) = dataColumn i := by decide +kernel

/-- The columns are distinct: each is found at its own place (R380). -/
theorem indexOf_dataColumn : ∀ i < 64, indexOf? (· == dataColumn i) dataColumns = some i := by decide +kernel

/-! ### Inverting a stored bit -/

/-- The word with stored bit `k` inverted: a data bit below 64, a check bit above. -/
def flipBit (w : MemWord) (k : Nat) : MemWord :=
  if k < 64 then { w with data := w.data ^^^ (1#64 <<< k) } else { w with check := w.check ^^^ (1#8 <<< (k - 64)) }

/-- The column of stored bit `k` (R380). -/
def storedColumn (k : Nat) : Byte := if k < 64 then dataColumn k else 1#8 <<< (k - 64)

theorem storedColumn_data {k : Nat} (h : k < 64) : storedColumn k = dataColumn k := if_pos h

theorem storedColumn_check (j : Nat) : storedColumn (64 + j) = 1#8 <<< j := by
  rw [storedColumn, if_neg (by omega), Nat.add_sub_cancel_left]

@[simp] theorem syndrome_goodWord (d : Word) : syndrome (goodWord d) = 0 :=
  BitVec.xor_self (x := checkBits d)

theorem syndrome_flip_data (w : MemWord) {i : Nat} (h : i < 64) :
    syndrome { w with data := w.data ^^^ (1#64 <<< i) } = syndrome w ^^^ dataColumn i := by
  simp only [syndrome, checkBits_xor, checkBits_bit i h, BitVec.xor_assoc]

theorem syndrome_flip_check (w : MemWord) (j : Nat) :
    syndrome { w with check := w.check ^^^ (1#8 <<< j) } = syndrome w ^^^ (1#8 <<< j) := by
  simp only [syndrome]
  ac_rfl

/-- Inverting a stored bit adds its column to the syndrome (R380). -/
theorem syndrome_flipBit (w : MemWord) (k : Nat) : syndrome (flipBit w k) = syndrome w ^^^ storedColumn k := by
  unfold flipBit storedColumn
  split
  case isTrue h => exact syndrome_flip_data w h
  case isFalse => exact syndrome_flip_check w (k - 64)

theorem syndrome_flipBit_goodWord (d : Word) (k : Nat) : syndrome (flipBit (goodWord d) k) = storedColumn k := by
  rw [syndrome_flipBit, syndrome_goodWord]
  exact BitVec.zero_xor

/-! ### Classes by syndrome (R382) -/

theorem classify_of_zero {w : MemWord} (h : syndrome w = 0) : classify w = .clean := if_pos h

theorem classify_of_dataColumn {w : MemWord} {i : Nat} (hi : i < 64) (h : syndrome w = dataColumn i) :
    classify w = .correctable (w.data ^^^ (1#64 <<< i)) := by
  have hne : ∀ i < 64, dataColumn i ≠ 0 := by decide
  simp only [classify, h, if_neg (hne i hi), indexOf_dataColumn i hi]

theorem classify_of_checkColumn {w : MemWord} {j : Nat} (hj : j < 8) (h : syndrome w = 1#8 <<< j) :
    classify w = .correctable w.data := by
  have hcol : ∀ j < 8, 1#8 <<< j ≠ 0 ∧ indexOf? (· == 1#8 <<< j) dataColumns = none ∧ popcount (1#8 <<< j) = 1 := by decide
  obtain ⟨hne, hnot, hone⟩ := hcol j hj
  simp only [classify, h, if_neg hne, hnot, if_pos hone]

@[simp] theorem classify_goodWord (d : Word) : classify (goodWord d) = .clean := classify_of_zero (syndrome_goodWord d)

@[simp] theorem readClass_goodWord (d : Word) : readClass (goodWord d) = .data d := by
  rw [readClass, classify_goodWord]
  rfl

@[simp] theorem treated_goodWord (d : Word) : treated (goodWord d) = goodWord d := by
  rw [treated, classify_goodWord]

/-- One wrong bit: the word is correctable to what was stored (R382, R384). -/
theorem classify_flipBit (d : Word) {k : Nat} (hk : k < 72) : classify (flipBit (goodWord d) k) = .correctable d := by
  have hs := syndrome_flipBit_goodWord d k
  rcases Nat.lt_or_ge k 64 with hdata | hcheck
  · rw [classify_of_dataColumn hdata (hs.trans (storedColumn_data hdata)), flipBit, if_pos hdata]
    exact congrArg _ (by rw [goodWord, BitVec.xor_assoc, BitVec.xor_self, BitVec.xor_zero])
  · obtain ⟨j, rfl⟩ := Nat.exists_eq_add_of_le hcheck
    rw [classify_of_checkColumn (by omega) (hs.trans (storedColumn_check j)), flipBit, if_neg (by omega)]
    rfl

theorem readClass_of_correctable {w : MemWord} {d : Word} (h : classify w = .correctable d) : readClass w = .data d := by
  rw [readClass, h]

theorem treated_of_correctable {w : MemWord} {d : Word} (h : classify w = .correctable d) : treated w = goodWord d := by
  rw [treated, h]

/-! ### Weights -/

theorem length_filter_xor_mod_two {n : Nat} (a b : BitVec n) (l : List Nat) :
    (l.filter fun i => (a ^^^ b).getLsbD i).length % 2 =
      ((l.filter fun i => a.getLsbD i).length + (l.filter fun i => b.getLsbD i).length) % 2 := by
  induction l with
  | nil => rfl
  | cons i l ih =>
    simp only [BitVec.getLsbD_xor, List.filter_cons] at ih ⊢
    cases a.getLsbD i <;> cases b.getLsbD i <;>
      simp only [Bool.xor_false, Bool.xor_true, Bool.not_true, Bool.not_false, Bool.false_eq_true, if_true, if_false, List.length_cons] <;>
      omega

/-- The weight of an XOR is the sum of the weights, modulo 2. -/
theorem popcount_xor_mod_two {n : Nat} (a b : BitVec n) : popcount (a ^^^ b) % 2 = (popcount a + popcount b) % 2 :=
  length_filter_xor_mod_two a b (List.range n)

/-- Every column has odd weight (R380). -/
theorem popcount_storedColumn : ∀ k < 72, popcount (storedColumn k) % 2 = 1 := by decide +kernel

theorem storedColumn_injective : ∀ j < 72, ∀ k < 72, storedColumn j = storedColumn k → j = k := by decide +kernel

theorem mem_of_indexOf {α : Type} [BEq α] [LawfulBEq α] {x : α} {l : List α} {i : Nat} (h : indexOf? (· == x) l = some i) : x ∈ l := by
  induction l generalizing i with
  | nil => cases h
  | cons y l ih =>
    simp only [indexOf?] at h
    split at h
    case isTrue hy => exact eq_of_beq hy ▸ List.mem_cons_self
    case isFalse =>
      obtain ⟨j, hj, -⟩ := Option.map_eq_some_iff.1 h
      exact List.mem_cons_of_mem y (ih hj)

/-- A word that is served has a syndrome that is zero or of odd weight (R382). -/
theorem syndrome_of_served {w : MemWord} {d : Word} (h : readClass w = .data d) : syndrome w = 0 ∨ popcount (syndrome w) % 2 = 1 := by
  have hodd : ∀ c ∈ dataColumns, popcount c % 2 = 1 := by decide
  by_contra hno
  obtain ⟨hzero, heven⟩ := not_or.1 hno
  have hcol : indexOf? (· == syndrome w) dataColumns = none :=
    Option.eq_none_iff_forall_ne_some.2 fun i hi => heven (hodd _ (mem_of_indexOf hi))
  have hone : popcount (syndrome w) ≠ 1 := fun hone => heven (by rw [hone])
  simp only [readClass, classify, if_neg hzero, hcol, if_neg hone] at h
  split_ifs at h

/-- Two wrong bits: no read serves the word (R382). -/
theorem readClass_flipBit_twice (e : Word) {j k : Nat} (hj : j < 72) (hk : k < 72) (hne : j ≠ k) (d : Word) :
    readClass (flipBit (flipBit (goodWord e) j) k) ≠ .data d := by
  intro h
  have hs : syndrome (flipBit (flipBit (goodWord e) j) k) = storedColumn j ^^^ storedColumn k := by
    rw [syndrome_flipBit, syndrome_flipBit_goodWord]
  have hpar := popcount_xor_mod_two (storedColumn j) (storedColumn k)
  have hj1 := popcount_storedColumn j hj
  have hk1 := popcount_storedColumn k hk
  rcases syndrome_of_served h with hzero | hodd
  · exact hne (storedColumn_injective j hj k hk (BitVec.xor_eq_zero_iff.1 (hs.symm.trans hzero)))
  · rw [hs] at hodd
    omega

/-- Settles O44: a good word has syndrome zero, one wrong bit leaves its column, and two leave a syndrome of even weight that is not zero. -/
theorem everyWordIsProtected : Obligations.EveryWordIsProtected := by
  unfold Obligations.EveryWordIsProtected
  intro data
  refine ⟨classify_goodWord data, readClass_goodWord data, fun k hk => ?one, fun j k hj hk hne d => ?two⟩
  case one =>
    have hclass := classify_flipBit data hk
    exact ⟨hclass, readClass_of_correctable hclass, treated_of_correctable hclass⟩
  case two => exact readClass_flipBit_twice data hj hk hne d

/-- The check bits are the XOR of the columns of the set data bits (R380). -/
theorem checkBits_eq_foldl_columns (d : Word) :
    checkBits d = (((List.range 64).filter fun i => d.getLsbD i).map dataColumn).foldl (· ^^^ ·) 0 := by
  rw [List.foldl_map, List.foldl_filter]
  rfl

/-- Settles O45: the columns and the markers by evaluation, the check bits and the syndrome for every word. -/
theorem columnsOfTheCode : Obligations.ColumnsOfTheCode := by
  unfold Obligations.ColumnsOfTheCode
  intro bytes
  have hcolumns : dataColumns =
      (bytes.filter fun b => popcount b == 3).take 56 ++ (bytes.filter fun b => popcount b == 5).take 8 := by decide +kernel
  exact ⟨hcolumns, rfl, rfl, checkBits_eq_foldl_columns, fun _ => rfl, fun w j _ => syndrome_flip_check w j, rfl, rfl,
    by decide, by decide⟩

end Sys2Proof.Machine
end

section
/-!
SUPPORT. The words that an access of bytes touches, and what it makes of each: a write and a read (R384, R385, R389, R390).
-/
namespace Sys2Proof.Machine

/-! ### The words that an access touches -/

/-- Words `n` to `n + k - 1` are what `g` makes of them, and every other word is as before. -/
def touches (g : Nat → MemWord → MemWord) (n k : Nat) (s r : Store) : Prop :=
  ∀ j, r.word j = if n ≤ j ∧ j < n + k then g j (s.word j) else s.word j

theorem touches_none (g : Nat → MemWord → MemWord) (n : Nat) (s : Store) : touches g n 0 s s := fun j => by
  rw [if_neg (by omega)]

theorem touches_put (g : Nat → MemWord → MemWord) (n : Nat) {s : Store} (h : s.wf = true) :
    touches g n 1 s (s.put n (g n (s.word n))) := fun j => by
  by_cases hj : j = n
  · subst hj
    rw [Store.word_put_same _ _ _ h, if_pos (by omega)]
  · rw [Store.word_put_other _ _ _ _ hj, if_neg (by omega)]

/-- A word that is touched, then the words after it. -/
theorem touches_succ {g : Nat → MemWord → MemWord} {n k : Nat} {s t r : Store} (hfirst : touches g n 1 s t)
    (hrest : touches g (n + 1) k t r) : touches g n (k + 1) s r := fun j => by
  rw [hrest j, hfirst j]
  by_cases hj : j = n
  · rw [if_neg (by omega), if_pos (by omega), if_pos (by omega)]
  · rw [if_neg (show ¬(n ≤ j ∧ j < n + 1) by omega)]
    exact if_congr (by omega) rfl rfl

/-- The words of an access are those that hold one of its bytes. -/
theorem mem_words_iff (off len n : Nat) :
    off / 8 ≤ n ∧ n < off / 8 + wordCount off len ↔ 1 ≤ len ∧ off < 8 * n + 8 ∧ 8 * n < off + len := by
  unfold wordCount
  split <;> omega

/-- The access of bytes `off` to `off + len - 1` makes of each word that holds one of them what `g` says. -/
def accesses (g : Nat → MemWord → MemWord) (off len : Nat) (s r : Store) : Prop := touches g (off / 8) (wordCount off len) s r

theorem word_outside {g : Nat → MemWord → MemWord} {off len n : Nat} {s r : Store} (h : accesses g off len s r)
    (hn : 8 * n + 8 ≤ off ∨ off + len ≤ 8 * n) : r.word n = s.word n := by
  rw [h n, if_neg]
  rw [mem_words_iff]
  omega

theorem word_inside {g : Nat → MemWord → MemWord} {off len n : Nat} {s r : Store} (h : accesses g off len s r) (hlen : 1 ≤ len)
    (hlow : off < 8 * n + 8) (hhigh : 8 * n < off + len) : r.word n = g n (s.word n) := by
  rw [h n, if_pos ((mem_words_iff off len n).2 ⟨hlen, hlow, hhigh⟩)]

/-! ### Reads (R384, R385) -/

/-- A read puts the treated word back where its treatment changes it (R384, R385). -/
theorem readWord_store (off len n : Nat) (a : Access1) : (readWord off len n a).store =
    if treated (a.store.word n) = a.store.word n then a.store else a.store.put n (treated (a.store.word n)) := by
  unfold readWord
  dsimp only
  cases classify (a.store.word n) <;> cases readClass (a.store.word n) <;> rfl

theorem readWord_touches (off len n : Nat) {a : Access1} (h : a.store.wf = true) :
    touches (fun _ => treated) n 1 a.store (readWord off len n a).store := by
  rw [readWord_store]
  split
  case isTrue heq =>
    intro j
    by_cases hj : j = n
    · subst hj
      exact ((if_pos (by omega)).trans heq).symm
    · exact (if_neg (by omega)).symm
  case isFalse => exact touches_put (fun _ => treated) n h

theorem readWords_touches (off len n k : Nat) {a : Access1} (h : a.store.wf = true) :
    touches (fun _ => treated) n k a.store (readWords off len n k a).store := by
  induction k generalizing n a with
  | zero => exact touches_none _ _ _
  | succ k ih => exact touches_succ (readWord_touches off len n h) (ih _ (readWord_wf _ _ _ _ h))

theorem readStore_accesses {s : Store} (off len : Nat) (h : s.wf = true) :
    accesses (fun _ => treated) off len s (readStore s off len).store :=
  readWords_touches off len _ _ h

/-! ### Writes (R389, R390) -/

/-- What a write of bytes at `off` makes of word `n`: its own eight bytes where it covers the word, else the merge (R389, R390). -/
def wordAfterWrite (off : Nat) (data : List Byte) (n : Nat) (w : MemWord) : MemWord :=
  if off ≤ 8 * n ∧ 8 * n + 8 ≤ off + data.length then goodWord (BitVec.ofNat 64 (leNat (bytesAt data (8 * n - off) 8)))
  else (mergeWord w fun i => if off ≤ 8 * n + i ∧ 8 * n + i < off + data.length then data[8 * n + i - off]? else none).1

/-- A merge asks for the bytes of the word's eight places alone. -/
theorem mergeWord_congr (w : MemWord) {f g : Nat → Option Byte} (h : ∀ i < 8, f i = g i) : mergeWord w f = mergeWord w g := by
  unfold mergeWord
  cases classify w
  case clean | correctable | unwritten =>
    exact congrArg (fun d => (goodWord d, false)) (List.foldl_ext _ _ _ fun d i hi => by rw [h i (List.mem_range.1 hi)])
  case poisoned | uncorrectable => rfl

theorem writeWord_store (off : Nat) (data : List Byte) (n : Nat) (a : Access1) :
    (writeWord off data n a).store = a.store.put n (wordAfterWrite off data n (a.store.word n)) := by
  have hwhole : (max off (8 * n) = 8 * n ∧ min (off + data.length) (8 * n + 8) = 8 * n + 8) ↔
      (off ≤ 8 * n ∧ 8 * n + 8 ≤ off + data.length) := by omega
  unfold writeWord wordAfterWrite
  dsimp only
  rw [if_congr hwhole rfl rfl]
  split
  case isTrue => rfl
  case isFalse =>
    have hmerge : (mergeWord (a.store.word n) fun i =>
          if max off (8 * n) ≤ 8 * n + i ∧ 8 * n + i < min (off + data.length) (8 * n + 8) then data[8 * n + i - off]? else none) =
        mergeWord (a.store.word n) fun i =>
          if off ≤ 8 * n + i ∧ 8 * n + i < off + data.length then data[8 * n + i - off]? else none :=
      mergeWord_congr _ fun i hi => if_congr (by omega) rfl rfl
    rw [hmerge]
    generalize mergeWord (a.store.word n) _ = r
    obtain ⟨w, failing⟩ := r
    cases failing <;> cases classify (a.store.word n) <;> rfl

theorem writeWords_touches (off : Nat) (data : List Byte) (n k : Nat) {a : Access1} (h : a.store.wf = true) :
    touches (wordAfterWrite off data) n k a.store (writeWords off data n k a).store := by
  induction k generalizing n a with
  | zero => exact touches_none _ _ _
  | succ k ih =>
    have hfirst : touches (wordAfterWrite off data) n 1 a.store (writeWord off data n a).store := by
      rw [writeWord_store]
      exact touches_put _ n h
    exact touches_succ hfirst (ih _ (writeWord_wf _ _ _ _ h))

theorem writeStore_accesses {s : Store} (off : Nat) (data : List Byte) (h : s.wf = true) :
    accesses (wordAfterWrite off data) off data.length s (writeStore s off data).store :=
  writeWords_touches off data _ _ h

theorem writeStore_word_whole {s : Store} {off n : Nat} {data : List Byte} (h : s.wf = true) (hlow : off ≤ 8 * n)
    (hhigh : 8 * n + 8 ≤ off + data.length) :
    (writeStore s off data).store.word n = goodWord (BitVec.ofNat 64 (leNat (bytesAt data (8 * n - off) 8))) := by
  rw [word_inside (writeStore_accesses off data h) (by omega) (by omega) (by omega), wordAfterWrite, if_pos ⟨hlow, hhigh⟩]

/-! ### Bytes of a word -/

theorem leBytes_leNat (l : List Byte) : leBytes l.length (leNat l) = l := by
  induction l with
  | nil => rfl
  | cons b l ih =>
    have hb := b.isLt
    have hbyte : BitVec.ofNat 8 (b.toNat + 256 * leNat l) = b := BitVec.eq_of_toNat_eq (by rw [BitVec.toNat_ofNat]; omega)
    have hrest : (b.toNat + 256 * leNat l) / 256 = leNat l := by omega
    rw [List.length_cons, leNat, leBytes, hbyte, hrest, ih]

theorem wordByte_ofNat (x : Nat) {i : Nat} (hi : i < 8) : wordByte (BitVec.ofNat 64 x) i = BitVec.ofNat 8 (x / 2 ^ (8 * i)) := by
  refine BitVec.eq_of_getLsbD_eq fun j hj => ?_
  simp only [wordByte, BitVec.truncate_eq_setWidth, BitVec.getLsbD_setWidth, BitVec.getLsbD_ushiftRight, BitVec.getLsbD_ofNat,
    ← Nat.shiftRight_eq_div_pow, Nat.testBit_shiftRight]
  simp only [hj, show 8 * i + j < 64 by omega, decide_true, Bool.true_and]

/-- The bytes of a word are those of its number (R8). -/
theorem wordBytes_ofNat (x : Nat) : (span 0 8).map (wordByte (BitVec.ofNat 64 x)) = leBytes 8 x := by
  have hspan : (span 0 8).map (wordByte (BitVec.ofNat 64 x)) = (span 0 8).map fun i => BitVec.ofNat 8 (x / 2 ^ (8 * i)) :=
    List.map_congr_left fun i hi => wordByte_ofNat x (by revert i; decide)
  rw [hspan]
  simp only [span, leBytes, List.map_cons, List.map_nil, Nat.div_div_eq_div_mul]
  norm_num

/-! ### Whole words read back -/

theorem bytesAt_append_drop {data : List Byte} {o : Nat} (h : o + 8 ≤ data.length) : bytesAt data o 8 ++ data.drop (o + 8) = data.drop o := by
  have hlen : 8 - (data.drop o).length = 0 := by rw [List.length_drop]; omega
  rw [bytesAt, fitBytes, hlen, List.replicate_zero, List.append_nil, ← List.drop_drop, List.take_append_drop]

/-- A read of a whole good word gives its bytes and does nothing else (R382). -/
theorem readWord_good {off len n : Nat} {a : Access1} {l : List Byte} (hlow : off ≤ 8 * n) (hhigh : 8 * n + 8 ≤ off + len)
    (hl : l.length = 8) (hw : a.store.word n = goodWord (BitVec.ofNat 64 (leNat l))) :
    readWord off len n a = { a with bytes := a.bytes ++ l } := by
  have hbytes : (span 0 8).map (wordByte (BitVec.ofNat 64 (leNat l))) = l := by rw [wordBytes_ofNat, ← hl, leBytes_leNat]
  have hfirst : max off (8 * n) = 8 * n := by omega
  have hlast : min (off + len) (8 * n + 8) = 8 * n + 8 := by omega
  simp only [readWord, hw, treated_goodWord, classify_goodWord, readClass_goodWord, if_true, hfirst, hlast, Nat.sub_self,
    Nat.add_sub_cancel_left, hbytes]

/-- Reading whole words that hold bytes gives those bytes. -/
theorem readWords_good {off n k : Nat} {data : List Byte} {a : Access1} (hlow : off ≤ 8 * n) (hend : off + data.length = 8 * (n + k))
    (hw : ∀ j, n ≤ j → j < n + k → a.store.word j = goodWord (BitVec.ofNat 64 (leNat (bytesAt data (8 * j - off) 8)))) :
    readWords off data.length n k a = { a with bytes := a.bytes ++ data.drop (8 * n - off) } := by
  induction k generalizing n a with
  | zero =>
    rw [List.drop_eq_nil_of_le (by omega), List.append_nil]
    rfl
  | succ k ih =>
    have hnext : 8 * (n + 1) - off = 8 * n - off + 8 := by omega
    rw [readWords, readWord_good hlow (by omega) (bytesAt_length _ _ _) (hw n le_rfl (by omega))]
    refine Eq.trans (ih (by omega) (by omega) fun j hj hjk => hw j (by omega) (by omega)) ?_
    rw [List.append_assoc, hnext, bytesAt_append_drop (by omega)]

/-- Bytes written to whole words read back, with no condition (R389). -/
theorem readStore_writeStore {s : Store} {off : Nat} {data : List Byte} (h : s.wf = true) (hoff : off % 8 = 0)
    (hlen : data.length % 8 = 0) :
    readStore (writeStore s off data).store off data.length =
      { bytes := data, store := (writeStore s off data).store, uncorr := none, unwritten := none, corrected := [], poisoned := [],
        discarded := 0 } := by
  have hcount : 8 * (off / 8 + wordCount off data.length) = off + data.length := by
    unfold wordCount
    split <;> omega
  have hstart : 8 * (off / 8) - off = 0 := by omega
  refine Eq.trans (readWords_good (by omega) hcount.symm fun j hj hjk => writeStore_word_whole h (by omega) (by omega)) ?_
  rw [hstart]
  rfl

/-- Settles O49: the words of the access one after another, each as the write or the read makes it. -/
theorem storesKeepWhatIsWritten : Obligations.StoresKeepWhatIsWritten := by
  unfold Obligations.StoresKeepWhatIsWritten
  intro s off len data h w r
  have hwrite : accesses (wordAfterWrite off data) off data.length s w := writeStore_accesses off data h
  have hread : accesses (fun _ => treated) off len s r := readStore_accesses off len h
  refine ⟨writeStore_wf s off data h, readStore_wf s off len h, fun n => word_outside hwrite, fun n => writeStore_word_whole h,
    fun n hlow hhigh hdata hpart => ?part, fun n => word_outside hread, fun n hlow hhigh hlen => word_inside hread hlen hlow hhigh,
    fun hoff hlen => ?back⟩
  case part =>
    rw [word_inside hwrite (List.length_pos_iff.2 hdata) hlow hhigh, wordAfterWrite, if_neg hpart]
  case back =>
    dsimp only
    rw [readStore_writeStore h hoff hlen]
    exact ⟨rfl, rfl, rfl, rfl, rfl⟩

end Sys2Proof.Machine
end

section
/-!
SUPPORT. The rows of the boot store and of the ledger (R401 to R405, R452 to R454).
-/
namespace Sys2Proof.Machine

/-! ### Suspension (R403, R404) -/

/-- A read that meets an operation under way waits in its window, and else suspends it; its longest wait is noted (R403, R404). -/
theorem bootSuspend_underWay {m : Sys} (wait : Nat) (hop : m.boot.op ≠ none) (hruns : m.boot.suspended = false) :
    bootSuspend wait m = onBoot (fun b =>
      if b.window then { b with waitMax := satMax b.waitMax wait, readWaits := true }
      else { b with waitMax := satMax b.waitMax wait, suspended := true, suspends := satInc b.suspends }) m := by
  simp only [bootSuspend, Option.isNone_iff_eq_none, if_neg hop, onBoot_boot, hruns, Bool.false_eq_true, if_false]
  cases hw : m.boot.window <;> simp only [onBoot, hw, Bool.false_eq_true, if_true, if_false]

/-- A suspended operation resumes into its window (R403, R404). -/
theorem bootResume_suspended {m : Sys} (h : m.boot.suspended = true) :
    bootResume m = onBoot (fun b => { b with suspended := false, window := true }) m := by
  simp only [bootResume, onBoot, if_pos h]

/-- The end of an open window lets a waiting read suspend the operation (R404). -/
theorem bootWindowEnd_open {m : Sys} (h : m.boot.window = true) : bootWindowEnd m = onBoot (fun b =>
    if b.readWaits then { b with window := false, readWaits := false, suspended := true, suspends := satInc b.suspends }
    else { b with window := false }) m := by
  simp only [bootWindowEnd, onBoot, h, Bool.true_and]

/-! ### Sectors and ends of operations (R401 to R403) -/

/-- With a sector to erase behind the window, its KEEP records are written afresh and its erase is queued (R402, R453). -/
theorem eraseBehind_sector {m : Sys} {n : Nat} {l : List Nat}
    (h : (sectorsBehind m).drop ((bootOps m).filter fun o => o == .ledgerErase).length = n :: l) :
    eraseBehind m =
      let again := (keptRecords m n).map fun r => ({ type := BitVec.ofNat 8 (recType r), keep := true, body := r.drop 4 } : LRec)
      queueBootOp .ledgerErase (appendRecords (onHealth (fun x => { x with pendingRecs := x.pendingRecs ++ again }) m)) := by
  simp only [eraseBehind, h]

/-- An operation under way that is not suspended ends, well or badly (R403). -/
theorem bootOpDone_underWay {m : Sys} {o : BootOp} (ok : Bool) (hop : m.boot.op = some o) (hruns : m.boot.suspended = false) :
    bootOpDone ok m = if ok then bootOpEnds o m else bootOpFails o m := by
  simp only [bootOpDone, hop, hruns, Bool.false_eq_true, if_false]

/-- An operation ends while the module runs and in its hold-up sequence (R403, R405). -/
theorem becomes_of_bootOpDone {s : State} {o : BootOp} (ok : Bool) (hon : live s.sys = true ∨ inHoldup s.sys = true)
    (hop : s.sys.boot.op = some o) (hruns : s.sys.boot.suspended = false) :
    Becomes (.bootOpDone ok) s (if ok then bootOpEnds o s.sys else bootOpFails o s.sys) :=
  becomes_of_done rfl ((if_pos (Bool.or_eq_true_iff.2 hon)).trans (bootOpDone_underWay ok hop hruns))

/-- Settles O42: each row at the case that its hypotheses name, as the lemmas above spell it out. -/
theorem bootStoreRows : Obligations.BootStoreRows := by
  unfold Obligations.BootStoreRows
  refine ⟨fun s hl => ?running,
    fun s o hon hop hruns => ⟨becomes_of_bootOpDone true hon hop hruns, becomes_of_bootOpDone false hon hop hruns⟩⟩
  case running =>
    intro m b
    refine ⟨fun waitUs hop hruns => ?suspend, fun hsus => ?resume, fun hwin => ?windowEnd, fun n l hbehind => ?erase,
      ?append, ?checkpoint⟩
    case suspend => exact becomes_of_running hl rfl (bootSuspend_underWay waitUs.toNat hop hruns)
    case resume => exact becomes_of_running hl rfl (bootResume_suspended hsus)
    case windowEnd => exact becomes_of_event hl rfl (bootWindowEnd_open (by rwa [takeEvent_boot]))
    case erase => exact becomes_of_running hl rfl (eraseBehind_sector hbehind)
    case append => exact becomes_of_whileLive hl appendRecords rfl
    case checkpoint => exact becomes_of_event hl rfl rfl

end Sys2Proof.Machine
end

section
/-!
SUPPORT. The firmware commands once nothing holds them back (R415, R418, R420, R421, R423, R425).
-/
namespace Sys2Proof.Machine

/-- An aligned FW_LOAD within the staging area begins to load its bytes (R420). -/
theorem fwLoad_begins {c : Cmd} {m : Sys} (halign : par c 32 4 % 4096 = 0) (hwhole : c.length.toNat % 4096 = 0)
    (hmax : c.length.toNat ≤ 16777216) (hin : par c 32 4 + c.length.toNat ≤ 268435456) (hstaging : m.boot.staging ≠ 3)
    (hfetch : (m.task.fetches.any fun f => sameCmd f.cmd c) = false) (hlen : c.length ≠ 0) :
    fwLoad c m = beginFetch c (onBoot (fun b => { b with staging := 1 }) m) := by
  have hpos : c.length.toNat ≠ 0 := BitVec.toNat_ne.1 hlen
  have hgood : ¬(par c 32 4 % 4096 ≠ 0 ∨ c.length.toNat % 4096 ≠ 0 ∨ 16777216 < c.length.toNat ∨
      268435456 < par c 32 4 + c.length.toNat) := by omega
  simp only [fwLoad, if_neg hgood, if_neg hstaging, hfetch, if_neg hpos, Bool.false_eq_true, if_false]

/-- FW_VERIFY with no piece under way ends with the first check that fails (R418, R420). -/
theorem fwVerify_fails {c : Cmd} {m : Sys} {code : Nat} (hstaging : m.boot.staging ≠ 3) (hfills : stagingFills m = false)
    (hcheck : verifyStaged m = some code) : fwVerify c m = complete c (reasonEnding code) m := by
  simp only [fwVerify, if_neg hstaging, hfills, hcheck, Bool.false_eq_true, if_false]

/-- FW_VERIFY with no piece under way and no check that fails leaves the staging area VERIFIED (R418, R420). -/
theorem fwVerify_passes {c : Cmd} {m : Sys} (hstaging : m.boot.staging ≠ 3) (hfills : stagingFills m = false)
    (hcheck : verifyStaged m = none) :
    fwVerify c m = complete c (ending stDone) (onBoot (fun b => { b with staging := 2 }) m) := by
  simp only [fwVerify, if_neg hstaging, hfills, hcheck, Bool.false_eq_true, if_false, endWith]

/-- FW_DISCARD with no piece under way empties the staging area (R415). -/
theorem fwDiscard_empties {c : Cmd} {m : Sys} (hstaging : m.boot.staging ≠ 3) (hfills : stagingFills m = false) :
    fwDiscard c m = complete c (ending stDone) (emptyStaging m) := by
  rw [fwDiscard, if_neg hstaging, hfills]
  rfl

/-- FW_COMMIT of a VERIFIED staging area begins the commit (R421). -/
theorem fwCommit_begins {c : Cmd} {m : Sys} (hcommit : m.boot.commit = none) (hstaging : m.boot.staging = 2) :
    fwCommit c m = beginCommit (some c) m := by
  rw [fwCommit, hcommit]
  exact if_pos hstaging

/-- FW_ACTIVATE of a quiet serving module with an image to run stops credits and relays, and its reset is due (R423). -/
theorem fwActivate_quiet {c : Cmd} {m : Sys} (hstage : m.boot.stage = stageServing) (hcommit : m.boot.commit = none)
    (himage : m.boot.staging = 2 ∨ m.boot.imageValid = true) (hjob : m.jobs.job = none) (hqueue : m.jobs.queue = [])
    (hothers : othersHeld c m = false) (hlent : m.fabric.lent = []) :
    let l := if m.boot.staging = 2 then stagedPart m 4096 else m.boot.image
    fwActivate c m = onBoot (fun b => { b with activating := true }) (complete c (ending stDone)
      (onTask (fun t => { t with stopped := true, eps := tmap (fun e => { e with credit := 0 }) t.eps })
        (firmwareRec 1 (fwRelease l) (fwSvn l) m))) := by
  have hloader : m.boot.stage ≠ stageLoader := by rw [hstage]; decide
  have hruns : ¬(m.boot.staging ≠ 2 ∧ (m.boot.stage = stageLoader ∨ m.boot.imageValid = false)) := by
    obtain h | h := himage <;> simp [h, hloader]
  have hfree : ¬(m.jobs.job.isSome = true ∨ m.jobs.queue ≠ [] ∨ othersHeld c m = true ∨ m.fabric.lent ≠ []) := by
    simp [hjob, hqueue, hothers, hlent]
  have hbusy : ¬m.boot.commit.isSome = true := by simp [hcommit]
  rw [fwActivate, if_neg hbusy, if_neg hruns, if_neg hfree]
  exact if_neg hloader

/-- FW_FETCH into an empty staging area begins to read a near peer's image, and refuses any other peer (R425). -/
theorem fwFetch_empty {c : Cmd} {m : Sys} (hfetch : m.boot.fetch = none) (hstaging : m.boot.staging = 0) : fwFetch c m =
    if (nearPeers m).contains (BitVec.ofNat 16 (par c 32 2)) then beginImage (some c) (BitVec.ofNat 16 (par c 32 2)) m
    else complete c (ending stBadCommand) m := by
  have hempty : ¬m.boot.staging ≠ 0 := not_not_intro hstaging
  simp only [fwFetch, hfetch, if_neg hempty, Option.any_none, Bool.false_eq_true, if_false, endWith]
  cases (nearPeers m).contains (BitVec.ofNat 16 (par c 32 2)) <;> rfl

/-- Settles O8: each command runs, and its own effect is the one that its lemma names. -/
theorem firmwareCommandsTakeEffect : Obligations.FirmwareCommandsTakeEffect := by
  unfold Obligations.FirmwareCommandsTakeEffect
  intro c s hs m
  obtain ⟨_, hstage, _⟩ := (serves_iff _).1 hs
  refine ⟨?query, fun halign hwhole hmax hin hstaging hfetch hlen => ?load, fun hstaging hfills => ⟨?verify, ?discard⟩,
    fun hcommit hstaging => ?commit, fun hcommit himage hjob hqueue hothers hlent => ?activate, fun hfetch hstaging => ?fetch⟩
  case query => exact becomes_of_served (f := fun m => complete c (doneWith (fwQueryResult m)) m) hs rfl rfl
  case load => exact becomes_of_served hs rfl (fwLoad_begins halign hwhole hmax hin hstaging hfetch hlen)
  case verify =>
    cases hcheck : verifyStaged m with
    | none => exact becomes_of_served hs rfl (fwVerify_passes hstaging hfills hcheck)
    | some code => exact becomes_of_served hs rfl (fwVerify_fails hstaging hfills hcheck)
  case discard => exact becomes_of_served hs rfl (fwDiscard_empties hstaging hfills)
  case commit => exact becomes_of_served hs rfl (fwCommit_begins hcommit hstaging)
  case activate => exact becomes_of_served hs rfl (fwActivate_quiet hstage hcommit himage hjob hqueue hothers hlent)
  case fetch => exact becomes_of_served hs rfl (fwFetch_empty hfetch hstaging)

end Sys2Proof.Machine
end

section
/-!
SUPPORT. The identity, settings, health and ledger commands once nothing holds them back (R412, R414, R415, R430, R449, R454, R460, R461).
-/
namespace Sys2Proof.Machine

/-! ### Settings (R412 to R414) -/

/-- CFG_READ of the settings that a start would use (R412, R414). -/
theorem cfgRead_chosen {c : Cmd} (m : Sys) (h : par c 32 1 = 1) :
    cfgRead c m = complete c (doneWith (resultOf [(40, chosenSettings m.boot)])) m := by
  rw [cfgRead, h]
  rfl

/-- CFG_WRITE of good settings, with no other write waiting, writes the copy that is not in use, with the next version (R412, R414). -/
theorem cfgWrite_first {c : Cmd} {m : Sys} (hgood : settingsGood (parBytes c 32 16) = true) (hnone : m.boot.cfgWrites = []) :
    cfgWrite c m = queueBootOp
      (.config (m.boot.cfgDefault == false && m.boot.cfgCopy == false) (configCopy (highestVersion m.boot + 1) (parBytes c 32 16)) c)
      (onBoot (fun b => { b with cfgWrites := [c] }) m) := by
  have hput : onBoot (fun b => { b with cfgWrites := b.cfgWrites ++ [c] }) m = onBoot (fun b => { b with cfgWrites := [c] }) m := by
    simp only [onBoot, hnone, List.nil_append]
  simp only [cfgWrite, hnone, hgood, hput, List.any_nil, List.isEmpty_nil, onlyIf_true, Bool.not_true, Bool.false_eq_true, if_false]
  rfl

/-! ### Ledger and self-test (R448, R454, R460, R461) -/

/-- No command waits for a page where none is waited for. -/
theorem waitsForPage_none (c : Cmd) {m : Sys} (h : m.health.pageWaits = []) : waitsForPage c m = false := by
  rw [waitsForPage, h]
  rfl

/-- LEDGER_MARK appends its record and waits for the record's page (R460). -/
theorem ledgerMark_appends {c : Cmd} {m : Sys} (hwait : m.health.pageWaits = []) (hopen : startupOrHoldup m = false) :
    ledgerMark c m = waitForPage c [] (appendRecords (ledgerRec 0x0E false (parBytes c 32 32) m)) := by
  simp only [ledgerMark, waitsForPage_none c hwait, hopen, Bool.false_eq_true, if_false]

/-- LEDGER_CHECKPOINT writes its six pages and waits for the last (R454, R460). -/
theorem ledgerCheckpoint_writes {c : Cmd} {m : Sys} (hwait : m.health.pageWaits = []) (hopen : startupOrHoldup m = false) :
    ledgerCheckpoint c m =
      let n := writeCheckpoint m
      waitForPage c (resultOf [(40, leBytes 8 (n.health.nextPage - 6))]) n := by
  simp only [ledgerCheckpoint, waitsForPage_none c hwait, hopen, Bool.false_eq_true, if_false]

/-- HEALTH_SELFTEST in P1 with no job and no self-test under way begins one (R448, R461). -/
theorem healthSelftest_begins {c : Cmd} {m : Sys} (htest : m.health.selftest = none) (hjob : m.jobs.job = none)
    (hqueue : m.jobs.queue = []) (hp : m.power.current = 1) :
    healthSelftest c m = onHealth (fun h => { h with selftest := some c, mode := 1, lifeLeft := checkpointLife m }) m := by
  simp only [healthSelftest, htest]
  exact if_neg (by simp [hjob, hqueue, hp])

/-- Settles O9: each command runs, and its own effect is what its checks let through, or what its lemma names. -/
theorem identityHealthAndSettingsCommands : Obligations.IdentityHealthAndSettingsCommands := by
  unfold Obligations.IdentityHealthAndSettingsCommands
  refine ⟨fun c s hs => ⟨fun hroom => ?attest, ?certificate, fun hin => ?calibration, fun hforce => ?inForce, fun hchosen => ?chosen,
      fun hgood hnone => ?write⟩,
    fun c s hs => ⟨fun hroom => ?health, fun hwhole hmax => ?pages, fun hwait hopen => ⟨?mark, ?checkpoint⟩,
      fun htest hjob hqueue hp => ?selftest⟩⟩
  case attest => exact becomes_of_served hs rfl (if_neg (Nat.not_lt.2 hroom))
  case certificate => exact becomes_of_served (f := certRead c) hs rfl rfl
  case calibration => exact becomes_of_served hs rfl (if_neg (Nat.not_lt.2 hin))
  case inForce => exact becomes_of_served hs rfl (if_pos hforce)
  case chosen => exact becomes_of_served hs rfl (cfgRead_chosen _ hchosen)
  case write => exact becomes_of_served hs rfl (cfgWrite_first hgood hnone)
  case health => exact becomes_of_served hs rfl (if_neg (Nat.not_lt.2 hroom))
  case pages => exact becomes_of_served hs rfl (if_neg (by omega))
  case mark => exact becomes_of_served hs rfl (ledgerMark_appends hwait hopen)
  case checkpoint => exact becomes_of_served hs rfl (ledgerCheckpoint_writes hwait hopen)
  case selftest => exact becomes_of_served hs rfl (healthSelftest_begins htest hjob hqueue hp)

end Sys2Proof.Machine
end

section
/-!
SUPPORT. The stages of a start (R407 to R411, R419, R424, R434).
-/
namespace Sys2Proof.Machine

/-- The boot ROM has read; the start goes on to DRAM, or halts on a bad calibration row before a bad identity (R407, R410). -/
theorem bootRom_reads {m : Sys} (h : m.boot.stage = 1) : bootRom m =
    if calGood = false then haltStart 1 (bootRead m) else if identityGood = false then haltStart 2 (bootRead m)
    else onBoot (fun b => { b with identityOk := true, stage := 2 }) (bootRead m) := by
  simp only [bootRom, if_neg (not_not_intro h), Bool.not_eq_true']

/-- Settles O21: each row is a change of a running module, whose guard lets it pass at the stage that its hypotheses name. -/
theorem startStages : Obligations.StartStages := by
  unfold Obligations.StartStages
  intro s hl m
  refine ⟨fun vin iin pin hstage => ?rails, fun hstage => ?rom, fun failed found hstage => ?dram, fun hstage => ?image, fun hstage =>
    ⟨fun chanFailed diesOut eraseFails hdone => ?flash, fun failed found hdone hheld => ?compute, fun hflash hcompute => ?serving⟩⟩
  case rails => exact becomes_of_running hl rfl (if_neg (not_not_intro hstage))
  case rom => exact becomes_of_running hl rfl (bootRom_reads hstage)
  case dram => exact becomes_of_running hl rfl (if_neg (not_not_intro hstage))
  case image => exact becomes_of_running hl rfl (if_neg (not_not_intro hstage))
  case flash =>
    have hruns : ¬(m.boot.stage ≠ 4 ∨ m.boot.flashDone = true) := by simp [hstage, hdone]
    refine becomes_of_running hl rfl ((if_neg hruns).trans ?_)
    simp only [Bool.and_eq_true, Bool.not_eq_true']
    rfl
  case compute =>
    have hruns : ¬(m.boot.stage ≠ 4 ∨ m.boot.computeDone = true ∨ m.power.coresHeld = true) := by simp [hstage, hdone, hheld]
    exact becomes_of_running hl rfl (if_neg hruns)
  case serving =>
    have hruns : ¬(m.boot.stage ≠ 4 ∨ m.boot.flashDone = false ∨ m.boot.computeDone = false) := by simp [hstage, hflash, hcompute]
    exact becomes_of_running hl rfl (if_neg hruns)

end Sys2Proof.Machine
end

section
/-!
SUPPORT. The two views of a group read, bit by bit, and the flag of GLB.GROUP_READ (R466, R467).
-/
namespace Sys2Proof.Machine

/-! ### The sample -/

/-- The cores of a window are those from its first to its last. -/
theorem mem_span {n a k : Nat} : n ∈ span a k ↔ a ≤ n ∧ n < a + k := by
  induction k generalizing a with
  | zero => simp only [span, List.not_mem_nil, false_iff]; omega
  | succ k ih => simp only [span, List.mem_cons, ih]; omega

/-- A sample holds what the register reads in each core of the window. -/
theorem mem_sampleOf {w : Window} {o : Nat} {m : Sys} {v : Word} :
    v ∈ sampleOf w o m ↔ ∃ n, w.first ≤ n ∧ n < w.first + w.cores ∧ readCore n o m = some v := by
  simp only [sampleOf, List.mem_filterMap, mem_span, and_assoc]

/-- The offsets of a core's registers (chapters 05 and 11). -/
def coreOffsets : List Nat := [0x00, 0x08, 0x10, 0x18, 0x20, 0x28, 0x30, 0x40]

/-- Every core has its registers at the same offsets. -/
theorem readCore_isSome (n o : Nat) (m : Sys) : (readCore n o m).isSome = coreOffsets.contains o := by
  unfold readCore
  dsimp only
  split
  case h_9 h1 h2 h3 h4 h5 h6 h7 h8 => simpa [coreOffsets] using And.intro h1 ⟨h2, h3, h4, h5, h6, h7, h8⟩
  all_goals rfl

/-! ### The views of a sample -/

/-- A fold of OR has the bits of its start and those of every value. -/
theorem getLsbD_foldl_or (l : List Word) (a : Word) (i : Nat) :
    (l.foldl (· ||| ·) a).getLsbD i = (a.getLsbD i || l.any (·.getLsbD i)) := by
  induction l generalizing a with
  | nil => simp
  | cons v l ih => rw [List.foldl_cons, ih, BitVec.getLsbD_or, List.any_cons, Bool.or_assoc]

/-- A bit of the OR is set where some value has it. -/
theorem orWord_getLsbD (l : List Word) (i : Nat) : (orWord l).getLsbD i = true ↔ ∃ v ∈ l, v.getLsbD i = true := by
  have hzero : (0 : Word).getLsbD i = false := BitVec.getLsbD_zero
  rw [orWord, getLsbD_foldl_or, hzero, Bool.false_or, List.any_eq_true]

/-- A bit of the mismatch word is set where some value differs in it from the first. -/
theorem mismatchWord_getLsbD (l : List Word) (i : Nat) :
    (mismatchWord l).getLsbD i = true ↔ ∃ v ∈ l, v.getLsbD i ≠ (l.headD 0).getLsbD i := by
  rw [mismatchWord, orWord_getLsbD]
  simp only [List.mem_map, exists_exists_and_eq_and, BitVec.getLsbD_xor, bne_iff_ne]

/-- Two values of a sample differ in a bit exactly where one of them differs in it from the first. -/
theorem exists_differ_iff (l : List Word) (i : Nat) :
    (∃ v ∈ l, v.getLsbD i ≠ (l.headD 0).getLsbD i) ↔ ∃ u ∈ l, ∃ v ∈ l, u.getLsbD i ≠ v.getLsbD i := by
  constructor
  · rintro ⟨u, hu, hne⟩
    cases l with
    | nil => cases hu
    | cons x l => exact ⟨u, hu, x, List.mem_cons_self, hne⟩
  · rintro ⟨u, hu, v, hv, hne⟩
    by_cases hhead : u.getLsbD i = (l.headD 0).getLsbD i
    · exact ⟨v, hv, fun h => hne (hhead.trans h.symm)⟩
    · exact ⟨u, hu, hhead⟩

/-! ### GLB.GROUP_READ (R467) -/

/-- A number with a flag between its higher and its lower fields has the flag at its bit. -/
theorem testBit_flag {i low : Nat} (high : Nat) (b : Bool) (h : low < 2 ^ i) :
    (2 ^ (i + 1) * high + (flagAt b i + low)).testBit i = b := by
  rw [Nat.testBit_eq_decide_div_mod_eq, flagAt_eq, pow_succ, mul_assoc, ← add_assoc, ← mul_add,
    Nat.mul_add_div (Nat.two_pow_pos i), Nat.div_eq_of_lt h]
  cases b <;> simp

/-- Bit 40 of the word is the mismatch flag. -/
theorem groupReadWord_flag (old : Word) (b : Block) (w : Window) (mismatch : Bool) (o : Nat) (flag : Bool) :
    (groupReadWord old b w mismatch o flag).getLsbD 40 = flag := by
  have hmismatch := mismatch.toNat_le
  have hlow : place (wfield old 32 8 + 1) 32 8 + flagAt mismatch 25 + place w.number 16 9 + place o 0 16 < 2 ^ 40 := by
    simp only [place, flagAt_eq]
    omega
  obtain ⟨high, hhigh⟩ : ∃ high, place b.src.toNat 48 16 + flagAt b.host 47 + (if b.host then place b.ep.toNat 43 4 else 0) =
      2 ^ 41 * high := by
    refine ⟨b.src.toNat % 2 ^ 16 * 2 ^ 7 + b.host.toNat * 2 ^ 6 + (if b.host then b.ep.toNat % 2 ^ 4 else 0) * 2 ^ 2, ?_⟩
    simp only [place, flagAt_eq]
    split <;> omega
  have hsum : groupReadWord old b w mismatch o flag = BitVec.ofNat 64 (2 ^ 41 * high + (flagAt flag 40 +
      (place (wfield old 32 8 + 1) 32 8 + flagAt mismatch 25 + place w.number 16 9 + place o 0 16))) := by
    rw [← hhigh]
    simp only [groupReadWord, word, List.foldl_cons, List.foldl_nil]
    congr 1
    omega
  rw [hsum, BitVec.getLsbD_ofNat, testBit_flag high flag hlow]
  rfl

/-- A group read answers with its view and leaves in GLB.GROUP_READ a word made of the one that stood there. -/
theorem groupRead_eq (b : Block) (w : Window) (mismatch : Bool) (o : Nat) (m : Sys) : groupRead b w mismatch o m =
    let l := sampleOf w o m
    respondRead b (if mismatch then mismatchWord l else orWord l) stDone
      (onHealth (fun h => { h with groupRead := groupReadWord m.health.groupRead b w mismatch o (mismatchWord l != 0) }) m) := by
  simp only [groupRead, onHealth]

/-- Settles O60: the sample core by core, its two views bit by bit, and the read by the lemma about a window's address. -/
theorem groupViews : Obligations.GroupViews := by
  unfold Obligations.GroupViews
  refine ⟨fun w o m v => mem_sampleOf, fun o m n k => ?everywhere, orWord_getLsbD,
    fun l i => (mismatchWord_getLsbD l i).trans (exists_differ_iff l i), fun b s w mismatch o ho hb ha hw => ?read⟩
  case everywhere => rw [readCore_isSome, readCore_isSome]
  case read =>
    intro m l hr
    exact ⟨_, groupReadWord_flag m.health.groupRead b w mismatch o _,
      becomes_of_done rfl ((regReadIn_open ho hb).trans ((readAt_group ha hw hr).trans (groupRead_eq b w mismatch o m)))⟩

end Sys2Proof.Machine
end

section
/-!
SUPPORT. The queue of inputs, first in, first out (log entry 1), and the registers after module reset.
-/
namespace Sys2Proof.Machine

/-- A step with an input waiting takes it off the queue, and its effect happens. -/
theorem step_cons (i : Instr) (l : List Instr) (m : Sys) :
    step { pending := i :: l, sys := m } = .next { pending := l, sys := effect i m } :=
  exec_eq_done_effect i { pending := l, sys := m }

/-- As many steps as inputs stand in front carry them out in order, each on what the one before it left. -/
theorem steps_append (l rest : List Instr) (m : Sys) :
    steps l.length { pending := l ++ rest, sys := m } = .next { pending := rest, sys := l.foldl (fun m i => effect i m) m } := by
  induction l generalizing m with
  | nil => rfl
  | cons i l ih =>
    rw [List.length_cons, steps, List.cons_append, step_cons]
    exact ih (effect i m)

/-- Settles O54: the inputs by induction on their list; a step on an empty queue is a turn by its definition. -/
theorem queueIsServedInOrder : Obligations.QueueIsServedInOrder := by
  unfold Obligations.QueueIsServedInOrder
  exact ⟨steps_append, fun _ => rfl⟩

/-- Settles O1: a step on a queue with an input in front is by definition that input's execution on the rest. -/
theorem stepCarriesOutTheFrontCommand : Obligations.StepCarriesOutTheFrontCommand := by
  unfold Obligations.StepCarriesOutTheFrontCommand
  exact fun _ _ => rfl

/-- Settles O53: the registers by evaluation, the rest by the reset state's definition. -/
theorem registersAtReset : Obligations.RegistersAtReset := by
  unfold Obligations.RegistersAtReset
  exact ⟨by decide, rfl, rfl, rfl, rfl, rfl, rfl, rfl, rfl⟩

end Sys2Proof.Machine
end
